-- ==== Sys2Proof/Word.lean ====
section
/-! DEFINITION. The words of the machine and their plainest arithmetic (00 R1 R2 R8). -/
namespace Sys2Proof

/-- A 64-bit word: scalar registers, syllables, record words (03 R47, 04 R69). -/
abbrev Word64 := BitVec 64

/-- A 32-bit word: one lane of a vector register (03 R47). -/
abbrev Word32 := BitVec 32

/-- One byte. -/
abbrev Byte := BitVec 8

/-- A vector register: lane i is entry i (00 R1, 03 R47). -/
abbrev Vec := Vector Word32 64

/-- A predicate register: bit i is lane i (03 R47 R49). -/
abbrev Mask := BitVec 64

/-- The vector register whose every lane is zero. -/
def Vec.zero : Vec := Vector.replicate 64 0#32

/-- The vector register whose lane i is `f i`. -/
def Vec.ofLanes (f : Fin 64 → Word32) : Vec := Vector.ofFn f

/-- A table of `α` by number, ascending, holding only the entries that were set. -/
abbrev Tab (α : Type) := List (Nat × α)

end Sys2Proof
end

