-- ==== Sys2Proof/Syntax.lean ====
section
/-! DEFINITION. The instructions of Psisor after decoding, and the events of the machine: one constructor for each row of
spec/opcode_table.json (04 R70 to R87, 28 R389, 95). -/
namespace Sys2Proof

/-- The guarding predicate and its sense (04 R70, 03 R57). -/
structure Guard where
  pred  : Fin 64
  sense : Bool
  deriving DecidableEq, Repr

/-- A 7-bit scalar specifier: s0 to s63, a0 to a15, bp.s, bp.l (03 R47). -/
inductive SReg where
  | s (n : Fin 64)
  | a (n : Fin 16)
  | bpS
  | bpL
  deriving DecidableEq, Repr

/-- The second source B of an S syllable: a register, or an immediate that stands sign-extended to 64 bits (07 R147). -/
inductive SrcB where
  | reg (r : SReg)
  | imm (v : Word32)
  deriving DecidableEq, Repr

/-- A 10-bit vector specifier: v0 to v639 and the vector bypasses (03 R47). -/
inductive VReg where
  | v (n : Fin 640)
  | bpV0
  | bpV1
  | bpL
  | bpM
  deriving DecidableEq, Repr

/-- The floating-point formats FP (09 R195). -/
inductive FpFmt where
  | f32 | f64 | bf16
  deriving DecidableEq, Repr

/-- The integer formats INT (09 R195, 05 R97). -/
inductive IntFmt where
  | i32 | ui32 | i16 | ui16 | i8 | ui8 | i64
  deriving DecidableEq, Repr

/-- A format of FP or INT. -/
inductive NumFmt where
  | fp (f : FpFmt)
  | int (f : IntFmt)
  deriving DecidableEq, Repr

/-- The packed formats (05 R112). -/
inductive MxFmt where
  | mxint8 | mxint6 | mxint4
  deriving DecidableEq, Repr

/-- The fmt codes 0 to 13, the set ANY (04 R74, 09 R195). -/
inductive Fmt where
  | num (f : NumFmt)
  | sef
  | mx (f : MxFmt)
  deriving DecidableEq, Repr

/-- Rounding modes (04 R74). -/
inductive Rm where
  | rne | rtz | rup | rdn | rsto | dyn
  deriving DecidableEq, Repr

/-- Comparisons of CMP and WAITA (07 R150). -/
inductive Cc where
  | eq | ne | lt | le | gt | ge | ltu | leu | gtu | geu
  deriving DecidableEq, Repr

/-- Comparisons of FCMP and VCMP (07 R152). -/
inductive FCc where
  | eq | ne | lt | le | gt | ge | un
  deriving DecidableEq, Repr

/-- Comparisons of VICMP (09 R204). -/
inductive ICc where
  | eq | ne | lt | le | gt | ge
  deriving DecidableEq, Repr

/-- PLOG operations (07 R150). -/
inductive PlogOp where
  | and | or | xor | andn | not | mov | nand | nor
  deriving DecidableEq, Repr

/-- FCVT kinds (07 R153). -/
inductive FcvtKind where
  | toi | tou | fromi | fromu | tof32 | fromf32 | rint
  deriving DecidableEq, Repr

/-- Scopes of accesses (13 R270). -/
inductive Scope where
  | c | k | d | p | y
  deriving DecidableEq, Repr

/-- Widths of scalar accesses (08 R171). -/
inductive Size where
  | b | h | w | d | sb | sh | sw
  deriving DecidableEq, Repr

/-- AMO and VAMO operations (08 R180). -/
inductive AmoOp where
  | add | and | or | xor | min | max | minu | maxu | swap
  deriving DecidableEq, Repr

/-- The address operand of a data-form L syllable (04 R76 R91). -/
inductive Addr where
  | lsA (a : Fin 16) (off : BitVec 16)
  | lsS (s : Fin 64) (off : BitVec 16)
  | lsAS (a : Fin 16) (s : Fin 64)
  | ltt (s : Fin 64) (off : BitVec 16)
  | handle (h : Fin 8) (off : BitVec 16)
  | remote (a : Fin 16) (off : BitVec 16) (core : Fin 16)
  deriving DecidableEq, Repr

/-- S syllable with destination and two sources (04 R72). -/
structure SOp where
  g : Guard
  d : SReg
  a : SReg
  b : SrcB
  deriving DecidableEq, Repr

/-- S syllable with destination and one register source. -/
structure SUn where
  g : Guard
  d : SReg
  a : SReg
  deriving DecidableEq, Repr

/-- Scalar floating-point syllable (07 R151). -/
structure SFp where
  g  : Guard
  d  : SReg
  a  : SReg
  b  : SReg
  rm : Rm
  deriving DecidableEq, Repr

/-- The count of a LOOP: immediate or register (04 R73). -/
inductive LoopCount where
  | imm (n : BitVec 16)
  | sreg (n : Fin 64)
  | areg (n : Fin 16)
  deriving DecidableEq, Repr

/-- LOOP (04 R73). -/
structure LoopOp where
  g     : Guard
  level : Fin 6
  count : LoopCount
  body  : Fin 64
  rot   : Bool
  drain : Fin 32
  deriving DecidableEq, Repr

/-- A load or store of a scalar register (08 R172). -/
structure LScalar where
  g    : Guard
  d    : SReg
  addr : Addr
  sz   : Size
  deriving DecidableEq, Repr

/-- A load or store of a vector register or tile (08 R172). -/
structure LVec where
  g    : Guard
  d    : VReg
  addr : Addr
  deriving DecidableEq, Repr

/-- LDVX and STVX: the integer formats and BF16 they move (08 R174). -/
inductive NarrowFmt where
  | bf16 | i16 | ui16 | i8 | ui8
  deriving DecidableEq, Repr

/-- Element sizes of GATH and SCAT (08 R176). -/
inductive GathSize where
  | b | h | w | sb | sh
  deriving DecidableEq, Repr

/-- Consumed token positions and produced token of an engine-form syllable; none stands for 63 (04 R77, 06 R143). -/
structure EngOp where
  g     : Guard
  prod  : Option (Fin 63)
  cons0 : Option (Fin 63)
  cons1 : Option (Fin 63)
  cons2 : Option (Fin 63)
  cblk  : SReg
  deriving DecidableEq, Repr

/-- V syllable, rounded, two sources (09 R200). -/
structure VFp where
  g   : Guard
  d   : VReg
  a   : VReg
  b   : VReg
  fmt : FpFmt
  rm  : Rm
  deriving DecidableEq, Repr

/-- Fused multiply-add family: vc is vd when absent (09 R199). -/
structure VFma where
  o : VFp
  c : Option VReg
  deriving DecidableEq, Repr

/-- V syllable, rounded, one source. -/
structure VFpUn where
  g   : Guard
  d   : VReg
  a   : VReg
  fmt : FpFmt
  rm  : Rm
  deriving DecidableEq, Repr

/-- V syllable, not rounded, two sources, FP format. -/
structure VFpBin where
  g   : Guard
  d   : VReg
  a   : VReg
  b   : VReg
  fmt : FpFmt
  deriving DecidableEq, Repr

/-- V syllable, not rounded, one source, FP format. -/
structure VFpOne where
  g   : Guard
  d   : VReg
  a   : VReg
  fmt : FpFmt
  deriving DecidableEq, Repr

/-- V integer syllable, two sources (09 R203). -/
structure VInt where
  g   : Guard
  d   : VReg
  a   : VReg
  b   : VReg
  fmt : IntFmt
  deriving DecidableEq, Repr

/-- V integer syllable, one source. -/
structure VIntUn where
  g   : Guard
  d   : VReg
  a   : VReg
  fmt : IntFmt
  deriving DecidableEq, Repr

/-- V movement syllable with an immediate index (09 R210 R213). -/
structure VIdx where
  g   : Guard
  d   : VReg
  a   : VReg
  n   : Fin 64
  fmt : Fmt
  deriving DecidableEq, Repr

/-- Reduction operators (09 R211). -/
inductive RedOp where
  | sum | max | min | and | or | xor
  deriving DecidableEq, Repr

/-- Reductions and scans (09 R211 R213). -/
structure VRed where
  g   : Guard
  d   : VReg
  a   : VReg
  op  : RedOp
  fmt : NumFmt
  rm  : Rm
  sat : Bool
  deriving DecidableEq, Repr

/-- VQNT and VDQNT (09 R206): `wide` is false for F32, true for BF16. -/
structure VQ where
  g    : Guard
  d    : VReg
  a    : VReg
  e    : Fin 8
  mx   : MxFmt
  bf16 : Bool
  grp  : Fin 8
  deriving DecidableEq, Repr

/-- Shapes of the producers VMAXW, VMINW, VSATW and of VADJ (12 R252 R258). -/
inductive WShape where
  | elem | row | col
  deriving DecidableEq, Repr

/-- A witness producer (12 R252); n is used where the shape is element-wise. -/
structure WProd where
  g     : Guard
  d     : VReg
  a     : VReg
  shape : WShape
  n     : Fin 16
  k     : Fin 8
  fmt   : NumFmt
  deriving DecidableEq, Repr

/-- Operators of VADJ (12 R258). -/
inductive AdjOp where
  | max | min | clamp | med | sat
  deriving DecidableEq, Repr

/-- VADJ (12 R258). -/
structure AdjOpnd where
  g     : Guard
  d     : VReg
  a     : VReg
  op    : AdjOp
  shape : WShape
  n     : Fin 16
  free  : Bool
  k     : Fin 8
  fmt   : NumFmt
  deriving DecidableEq, Repr

/-- VXCVT kinds (09 R208). -/
inductive XcvtKind where
  | f32ToSef | bf16ToSef | sefToF32 | sefToBf16
  deriving DecidableEq, Repr

/-- Operand source of a matrix step (04 R75, 10 R218). -/
inductive MSrc where
  | vec (v : VReg)
  | ls (a : Fin 16)
  | remote (a : Fin 16) (core : Fin 16)
  deriving DecidableEq, Repr

/-- Product formats (10 R216). -/
inductive MFmt where
  | mx8 | mx6 | mx4 | mx8x4 | mx4x8 | bf16
  deriving DecidableEq, Repr

/-- MSTEP, and the common part of MSTEPS (10 R219). -/
structure MStepOp where
  g    : Guard
  acc  : Fin 4
  a    : MSrc
  b    : MSrc
  fmt  : MFmt
  eA   : Fin 8
  eB   : Fin 8
  ovw  : Bool
  deriving DecidableEq, Repr

/-- Row operand of an accumulator move (10 R224). -/
inductive MRow where
  | imm (n : Fin 64)
  | areg (a : Fin 16)
  deriving DecidableEq, Repr

/-- Why a master's request was failed by a unit outside the syllables (25 R364 codes 14, 15). -/
inductive ErrKind where
  | ls | hbm | store | word | nodeCache | register
  deriving DecidableEq, Repr

/-- Units of die 0 that have a standby (01 R10). -/
inductive StandbyUnit where
  | arbiter | dispatcher | management
  deriving DecidableEq, Repr

/-- A unit that fails while the device runs (25 R365 R367). -/
inductive FailedUnit where
  | vUnit (core : Nat) (unit : Bool)
  | core (core : Nat)
  | spare (cluster : Nat)
  deriving DecidableEq, Repr

/-- A relocation record of a code object (16 R314). -/
structure Reloc where
  section_ : Nat
  offset   : Nat
  type     : Nat
  sym      : Nat
  addend   : Int
  deriving DecidableEq, Repr

/-- Sections the loader recognises (16 R313). -/
inductive SecKind where
  | text | rodata | data | bss | circuit | ltt
  deriving DecidableEq, Repr

/-- A section of a code object with the base address at which the runtime places it (16 R313 R319). -/
structure Section where
  kind  : SecKind
  base  : Nat
  bytes : List Byte
  deriving DecidableEq, Repr

/-- A symbol of a code object; `sec` is none for an undefined reference, and a local one (`loc`) is seen by its own object only
(16 R323). -/
structure ElfSym where
  name   : String
  loc    : Bool
  strong : Bool
  sec    : Option Nat
  value  : Nat
  size   : Nat
  deriving DecidableEq, Repr

/-- A note of `.note.psisor`: its name, its type and its descriptor words (16 R315 R317). -/
structure Note where
  name  : String
  type  : Nat
  words : List Word64
  deriving DecidableEq, Repr

/-- A code object as its ELF64 container gives it, with the placement that the runtime chose (16 R312 R313 R318). A relocation
whose section number is that of a note after the sections patches the note's descriptor. `lttBase` and `lttLen` give, for entry
i of template t at 64 t + i, the physical base that the runtime allocates and the length in bytes of its directive. -/
structure ElfImage where
  class64   : Bool
  lsb       : Bool
  type_     : Nat
  machine   : Nat
  flags     : Nat
  sections  : List Section
  symbols   : List ElfSym
  relocs    : List Reloc
  notes     : List Note
  port      : Option (List Word64)
  lttBase   : List Word64
  lttLen    : List Nat
  bind      : Bool
  deriving DecidableEq, Repr

/-- What one rank of a peer package brings to a collective: its block words and its buffer bytes (08 R193, 26 R375). -/
structure PeerRank where
  rank  : Nat
  block : List Word64
  bytes : List Byte
  deriving DecidableEq, Repr

/-- Source of a CLEAF: F32 lanes, SEF pair lanes, F32 bytes of LS, SEF bytes of LS; the leaf index is `s[b] + off` or
the scalar `l` (11 R243). -/
inductive LeafSrc where
  | f32 (vs : VReg) (b : Fin 64) (off : BitVec 16)
  | sef (vs : VReg) (b : Fin 64) (off : BitVec 16)
  | lf32 (l : SReg) (addr : Addr)
  | lsef (l : SReg) (addr : Addr)
  deriving DecidableEq, Repr

/-- What one waiting unit's fault detection delivers to GRID_FAULT: code and detail words (25 R364). -/
structure FaultWords where
  code : Nat
  mask : BitVec 8
  addr : Word64
  d0   : Word64
  d1   : Word64
  deriving DecidableEq, Repr

/-- The instructions and events, one constructor for each row of the opcode table. -/
inductive Instr where
  -- S class (07)
  | nop (g : Guard)
  | hSyllable (payload : BitVec 60)
  | add (o : SOp)
  | sub (o : SOp)
  | mul (o : SOp)
  | mulh (u : Bool) (o : SOp)
  | div (u : Bool) (o : SOp)
  | rem (u : Bool) (o : SOp)
  | and (o : SOp)
  | or (o : SOp)
  | xor (o : SOp)
  | andn (o : SOp)
  | shl (o : SOp)
  | shr (o : SOp)
  | sar (o : SOp)
  | rotl (o : SOp)
  | min (u : Bool) (o : SOp)
  | max (u : Bool) (o : SOp)
  | clz (o : SUn)
  | ctz (o : SUn)
  | popc (o : SUn)
  | sel (o : SOp)
  | mov (g : Guard) (d : SReg) (b : SrcB)
  | movhi (o : SOp)
  | extr (signed : Bool) (o : SOp)
  | insr (o : SOp)
  | cmp (g : Guard) (pd : Fin 64) (cc : Cc) (a : SReg) (b : SrcB)
  | plog (g : Guard) (op : PlogOp) (pd pa pb : Fin 64)
  | pcnt (g : Guard) (d : SReg) (pa : Fin 64)
  | pset (g : Guard) (pd : Fin 64) (b : SrcB)
  | pget (g : Guard) (d : SReg) (pa : Fin 64)
  | pfirst (g : Guard) (d : SReg) (pa : Fin 64)
  | fadd (o : SFp)
  | fsub (o : SFp)
  | fmul (o : SFp)
  | fma (o : SFp)
  | fdiv (o : SFp)
  | fsqrt (g : Guard) (d a : SReg) (rm : Rm)
  | fcmp (g : Guard) (pd : Fin 64) (cc : FCc) (a b : SReg)
  | fcvt (g : Guard) (kind : FcvtKind) (rm : Rm) (d a : SReg)
  | fmin (g : Guard) (d a b : SReg)
  | fmax (g : Guard) (d a b : SReg)
  | movx (g : Guard) (d : SReg) (n : Fin 512)
  | movs (g : Guard) (n : Fin 512) (a : SReg)
  | strb (g : Guard) (an : Fin 16) (b : SrcB)
  | strs (g : Guard) (an : Fin 16) (k : Fin 6) (b : SrcB)
  | strz (g : Guard) (an : Fin 16)
  | br (g : Guard) (off : BitVec 24)
  | bri (g : Guard) (a : SReg)
  | call (g : Guard) (off : BitVec 24)
  | ret (g : Guard) (a : SReg)
  | loop (o : LoopOp)
  | loopBackEdge
  | lexit (g : Guard) (k : Fin 6)
  | rotx (g : Guard) (off : Bool)
  | endStrand (g : Guard)
  | bar (g : Guard) (die : Bool) (n : Fin 16)
  | etrig (g : Guard)
  | trap (g : Guard) (n : BitVec 16)
  | chnk (g : Guard) (d : Fin 64)
  | tkaln (g : Guard) (d : SReg) (w : BitVec 16)
  | rfrun (g : Guard) (a : SReg)
  | rfret (g : Guard)
  | rfnorm (g : Guard) (a : SReg)
  -- L class (08)
  | lds (o : LScalar)
  | sts (o : LScalar)
  | ldv (o : LVec)
  | stv (o : LVec)
  | ldt (o : LVec)
  | stt (o : LVec)
  | ldvx (fmt : NarrowFmt) (o : LVec)
  | stvx (fmt : NarrowFmt) (rm : Rm) (o : LVec)
  | ldrv (o : LVec)
  | strv (o : LVec)
  | ldg (o : LScalar)
  | stg (sc : Scope) (o : LScalar)
  | ldgv (o : LVec)
  | stgv (sc : Scope) (o : LVec)
  | gath (sz : GathSize) (x : VReg) (o : LVec)
  | scat (sz : GathSize) (sc : Scope) (x : VReg) (o : LVec)
  | xlt (g : Guard) (h : Fin 8) (a : SReg) (buf : Fin 64)
  | lttq (g : Guard) (d : SReg) (entry : Fin 64) (word : Bool)
  | scl (g : Guard) (e : Fin 8) (addr : Addr)
  | scs (g : Guard) (e : Fin 8) (addr : Addr)
  | amo (g : Guard) (op : AmoOp) (sc : Scope) (d : SReg) (addr : Addr) (b : SReg)
  | cas (g : Guard) (sc : Scope) (d : SReg) (addr : Addr) (b : SReg)
  | vamo (g : Guard) (op : AmoOp) (sc : Scope) (c : VReg) (addr : Addr) (x : VReg)
  | vamor (g : Guard) (op : AmoOp) (sc : Scope) (d : VReg) (addr : Addr) (x c : VReg)
  | drain (g : Guard) (sc : Scope)
  | drainComplete (core : Nat)
  | waita (g : Guard) (cc : Cc) (d : SReg) (addr : Addr)
  | waitaWake (key : Nat)
  | twait (g : Guard) (c0 c1 c2 : Option (Fin 63))
  | tpoll (g : Guard) (d : SReg) (t : Fin 63)
  | hwin (g : Guard) (d : SReg)
  | icinv (g : Guard) (cohort : Bool) (d : SReg) (base : Fin 64) (off : BitVec 16)
  | tlkp (g : Guard) (d k : SReg)
  | tins (g : Guard) (w k : SReg)
  | tinv (g : Guard) (w k : SReg)
  | copy (mask : Option (BitVec 16)) (o : EngOp)
  | copyk (mask : Option (BitVec 16)) (o : EngOp)
  | kreq (kiosk : Fin 128) (o : EngOp)
  | coll (o : EngOp)
  | csig (o : EngOp)
  | engineCommandStart (key : Nat)
  | copyComplete (key i : Nat)
  | kreqMessageArrive (key i : Nat)
  | collectiveComplete (key i : Nat) (peers : List PeerRank)
  | collectiveAbort (key i : Nat)
  | csigComplete (key i : Nat)
  | xsend (o : EngOp)
  | xrecv (g : Guard) (d : VReg) (b : Fin 64) (off : BitVec 16)
  | payloadLand (i : Nat)
  | wsave (g : Guard) (k : Fin 8) (addr : Addr)
  | wload (g : Guard) (k : Fin 8) (addr : Addr)
  | cload (o : EngOp)
  | cloadComplete (cl : Nat)
  | cleaf (g : Guard) (src : LeafSrc)
  | ceval (o : EngOp)
  | circuitCommandRun (cl : Nat)
  | cevalPassComplete (cl : Nat)
  | circuitPageArrive (cl page : Nat)
  | cout (g : Guard) (f32 : Bool) (d : VReg) (b : Fin 64) (off : BitVec 16)
  | crds (g : Guard) (f32 : Bool) (d : VReg) (b : Fin 64) (off : BitVec 16)
  | cput (g : Guard) (addr : Addr)
  | cpflip (sync : Bool) (o : EngOp)
  -- V class (09, 12)
  | vadd (o : VFp)
  | vsub (o : VFp)
  | vmul (o : VFp)
  | vfma (o : VFma)
  | vfms (o : VFma)
  | vfnma (o : VFma)
  | vmin (o : VFpBin)
  | vmax (o : VFpBin)
  | vabs (o : VFpOne)
  | vneg (o : VFpOne)
  | vcps (o : VFpBin)
  | vrcp (o : VFpUn)
  | vsqrt (o : VFpUn)
  | vrsq (o : VFpUn)
  | vexp2 (o : VFpUn)
  | vlog2 (o : VFpUn)
  | vcmp (g : Guard) (pd : Fin 64) (cc : FCc) (fmt : FpFmt) (a b : VReg)
  | vclass (o : VFpOne)
  | viadd (sat : Bool) (o : VInt)
  | visub (sat : Bool) (o : VInt)
  | vimul (o : VInt)
  | vimulh (o : VInt)
  | vand (o : VInt)
  | vor (o : VInt)
  | vxor (o : VInt)
  | vshl (o : VInt)
  | vshr (o : VInt)
  | vsar (o : VInt)
  | vimin (o : VInt)
  | vimax (o : VInt)
  | vpopc (o : VIntUn)
  | vclz (o : VIntUn)
  | vicmp (g : Guard) (pd : Fin 64) (cc : ICc) (fmt : IntFmt) (a b : VReg)
  | vcvt (g : Guard) (src dst : NumFmt) (rm : Rm) (d a : VReg)
  | vqnt (rm : Rm) (o : VQ)
  | vdqnt (o : VQ)
  | vexpx (o : VFpOne)
  | vldx (o : VFp)
  | vmant (o : VFpOne)
  | vxmul (g : Guard) (d a b : VReg)
  | vxadd (g : Guard) (d a b : VReg)
  | vxmax (g : Guard) (d a b : VReg)
  | vxnorm (g : Guard) (d a : VReg)
  | vxcvt (g : Guard) (kind : XcvtKind) (rm : Rm) (d a : VReg)
  | vmov (g : Guard) (fmt : Fmt) (d a : VReg)
  | vsel (g : Guard) (pair : Bool) (d a b : VReg)
  | vsplat (g : Guard) (d : VReg) (v : Word32)
  | vext (g : Guard) (pair : Bool) (d a b : VReg) (n : Fin 64)
  | viota (g : Guard) (pair : Bool) (d : VReg) (start : Word32)
  | vrotr (o : VIdx)
  | vbcr (o : VIdx)
  | vredr (o : VRed)
  | vscanr (o : VRed)
  | vperm (g : Guard) (fmt : Fmt) (d a b : VReg)
  | vcmpr (g : Guard) (fmt : Fmt) (d a : VReg) (pm : Fin 64)
  | vexpd (g : Guard) (fmt : Fmt) (d a : VReg) (pm : Fin 64)
  | vrotc (g : Guard) (fmt : NumFmt) (d a : VReg) (n : Fin 16)
  | vbcc (g : Guard) (fmt : NumFmt) (d a : VReg) (n : Fin 16)
  | vredc (o : VRed)
  | vscanc (o : VRed)
  | vrngSet (g : Guard) (a : VReg)
  | vrngGen (g : Guard) (f32 adv : Bool) (word : Fin 4) (d : VReg)
  | vrngGet (g : Guard) (d : VReg)
  | vmaxw (o : WProd)
  | vminw (o : WProd)
  | vclmpw (g : Guard) (d a b : VReg) (k : Fin 8) (fmt : NumFmt)
  | vmedw (g : Guard) (d a : VReg) (n : Fin 16) (k : Fin 8) (fmt : NumFmt)
  | vsatw (g : Guard) (d a : VReg) (col : Bool) (k : Fin 8) (fmt : IntFmt)
  | vadj (o : AdjOpnd)
  | wmov (g : Guard) (hdr : Bool) (d : VReg) (k : Fin 8)
  | wclr (g : Guard) (k : Fin 8)
  -- M class (10)
  | mstep (o : MStepOp)
  | msteps (sparseB : Bool) (o : MStepOp) (vsel : VReg)
  | mzero (g : Guard) (acc : Fin 4)
  | mrd (g : Guard) (d : VReg) (acc : Fin 4) (row : MRow)
  | mwr (g : Guard) (acc : Fin 4) (row : MRow) (a : VReg)
  | mrdq (g : Guard) (mx : Bool) (rm : Rm) (d : VReg) (acc : Fin 4) (row : MRow) (e : Fin 8)
  -- K class (15)
  | kmbox (g : Guard) (poll : Bool) (x y : SReg)
  | kdone (g : Guard) (x y : SReg)
  | kgath (g : Guard) (y z : SReg)
  | kdedup (g : Guard) (x y z : SReg)
  | kpool (g : Guard) (y z : SReg)
  | kndsc (g : Guard) (y : SReg) (n : Fin 4)
  | ktreeStart (g : Guard) (x y : SReg)
  | ktreeStep (g : Guard) (x : SReg)
  | ktreeCollect (g : Guard) (x y : SReg)
  | kfold (g : Guard) (y z : SReg)
  | klogAppend (g : Guard) (x y : SReg) (log : Fin 64)
  | klogHead (g : Guard) (x y : SReg) (log : Fin 64)
  | klogSign (g : Guard) (x y : SReg) (log : Fin 64)
  | kput (g : Guard) (x y : SReg)
  | kroute (g : Guard) (x y z : SReg)
  | kheatAdd (g : Guard) (x y z : SReg)
  | kheatRead (g : Guard) (x y : SReg)
  | kheatRet (g : Guard)
  -- events of a kiosk core (15)
  | treeNodeArrive (key i : Nat)
  | heatTrapEntry (key : Nat)
  | kioskFault (key : Nat) (code reason : Nat)
  -- events of a context, a grid and the dispatcher (02, 14, 24, 95)
  | resultLand (key : Nat)
  | interlockedValueArrive (key i : Nat)
  | icacheFill (key : Nat)
  | elasticLsGrant (i : Nat)
  | starvationGuardHold (core : Nat)
  | barrierPass (grid : Nat) (die : Bool) (place n : Nat)
  | barrierWatchdog (grid : Nat) (die : Bool) (place : Nat)
  | pointReached (grid die from_ : Nat)
  | packageReached (grid from_ : Nat)
  | strandStart (key : Nat)
  | earlyTrigger (grid : Nat)
  | gridRetire (grid : Nat)
  | gridFault (key : Nat) (f : FaultWords)
  | doorbell (q : Nat) (t : Word32)
  | queueReset (q : Nat)
  | packetFetch (q : Nat)
  | noopLaunch (q : Nat)
  | kernelLaunch (q : Nat)
  | kioskStart (q : Nat)
  | agingRaise (q : Nat)
  | preempt (grid : Nat)
  | preemptRegister (func : Nat) (ctx : BitVec 8)
  | sliceExpiry (func : Nat)
  | gridResume (grid : Nat)
  -- events of the host, firmware and links (23 to 27)
  | twpop (func : Nat)
  | twdone (func : Nat) (w : Word64)
  | lttpatch (func : Nat) (w0 w1 : Word64)
  | atdataWrite (w : Word64)
  | sealRequest (func : Nat)
  | auditLogRequest (func : Nat)
  | contextCreate (func : Nat) (ctx : BitVec 8)
  | contextDestroy (func : Nat) (ctx : BitVec 8)
  | attestationRequest (func : Nat)
  | errorCountRead
  | interruptMaskWrite (func : Nat) (w : Word64)
  | registerWrite (func : Nat) (off : Nat) (w : Word64)
  | hostWrite (func : Nat) (ctx : BitVec 8) (pa : Nat) (bytes : List Byte)
  | codeObjectLoad (func : Nat) (ctx : BitVec 8) (img : ElfImage)
  | codeObjectUnload (func : Nat) (ctx : BitVec 8) (code : Nat)
  | flitRetransmit (port : Nat)
  | portRetrain (port : Nat)
  | unitFailure (u : FailedUnit)
  | spareRowReplace (addr : Nat)
  | standbyTakeover (u : StandbyUnit)
  | deviceReset
  | throttleSet (die : Nat) (step : Fin 16)
  | thermalStop (die : Nat)
  | dieCooled (die : Nat)
  | hostLinkRetrain (func : Nat)
  | partitionChange (vf : Nat) (word : Nat) (w : Word64)
  deriving DecidableEq, Repr

end Sys2Proof
end

