-- ==== Sys2Proof/WellFormed.lean ====
section
/-! DEFINITION. Which terms of `Instr` stand for legal encodings: specifier classes, pairs, tiles and groups (03 R49 R51 R52
R64), and the values that an instruction's entry excludes (04 R71). What depends on the core or on the V unit that
a syllable takes is checked where the bundle is decoded (Machine/Bundle.lean). -/
namespace Sys2Proof

/-- A scalar destination of an S syllable: s, a, or its own bypass bp.s (07 R147, 03 R64). -/
def SReg.sDest : SReg → Bool
  | .bpL => false
  | _ => true

/-- A scalar destination of an L syllable: s, a, or its own bypass bp.l. -/
def SReg.lDest : SReg → Bool
  | .bpS => false
  | _ => true

/-- A specifier of s0 to s63 or a0 to a15 only (04 R77). -/
def SReg.plain : SReg → Bool
  | .s _ => true
  | .a _ => true
  | _ => false

/-- A destination of a V syllable: a register, or the bypass of a V unit (which unit: 03 R64). -/
def VReg.vDest : VReg → Bool
  | .bpL => false
  | .bpM => false
  | _ => true

/-- A vector destination of an L syllable. -/
def VReg.lDest : VReg → Bool
  | .v _ => true
  | .bpL => true
  | _ => false

/-- A destination of MRD or MRDQ. -/
def VReg.mDest : VReg → Bool
  | .v _ => true
  | .bpM => true
  | _ => false

/-- A register whose number is a multiple of `k`: pairs (2), groups (4, 8) (03 R52, 09 R206). -/
def VReg.aligned (k : Nat) : VReg → Bool
  | .v n => n.val % k == 0
  | _ => false

/-- A tile specifier: a multiple of 16 no greater than 496 (03 R51). -/
def VReg.tile : VReg → Bool
  | .v n => n.val % 16 == 0 && n.val ≤ 496
  | _ => false

/-- `n` tiles from a tile specifier, none past t31 (12 R252 R258). -/
def VReg.tiles (n : Nat) : VReg → Bool
  | .v m => m.val % 16 == 0 && m.val / 16 + n ≤ 32
  | _ => false

/-- The predicate registers a syllable may write (03 R49). -/
def predDest (n : Fin 64) : Bool := 13 ≤ n.val

def FpFmt.pair : FpFmt → Bool
  | .f64 => true
  | _ => false

def IntFmt.pair : IntFmt → Bool
  | .i64 => true
  | _ => false

def IntFmt.signed : IntFmt → Bool
  | .i32 | .i16 | .i8 | .i64 => true
  | _ => false

/-- The width of an integer format (05 R97). -/
def IntFmt.width : IntFmt → Nat
  | .i32 | .ui32 => 32
  | .i16 | .ui16 => 16
  | .i8 | .ui8 => 8
  | .i64 => 64

def NumFmt.pair : NumFmt → Bool
  | .fp f => f.pair
  | .int f => f.pair

def NumFmt.isFp : NumFmt → Bool
  | .fp _ => true
  | .int _ => false

/-- The formats of ANY that are pairs (09 R195). -/
def Fmt.pair : Fmt → Bool
  | .num f => f.pair
  | .sef => true
  | .mx _ => false

/-- A source operand: a pair register where the format is a pair, else anything. -/
def VReg.src (pair : Bool) (r : VReg) : Bool := !pair || r.aligned 2

/-- A destination of a V syllable: a pair register where the format is a pair. -/
def VReg.dst (pair : Bool) (r : VReg) : Bool := if pair then r.aligned 2 else r.vDest

/-- Address modes 0, 1 and 2 (08 R170). -/
def Addr.isLs : Addr → Bool
  | .lsA .. | .lsS .. | .lsAS .. => true
  | _ => false

/-- Address modes 0 and 1. -/
def Addr.isLs01 : Addr → Bool
  | .lsA .. | .lsS .. => true
  | _ => false

/-- Address modes 3 and 4. -/
def Addr.isGlobal : Addr → Bool
  | .ltt .. | .handle .. => true
  | _ => false

/-- Address mode 5. -/
def Addr.isRemote : Addr → Bool
  | .remote .. => true
  | _ => false

/-- Sizes that a store accepts (08 R171). -/
def Size.stores : Size → Bool
  | .b | .h | .w | .d => true
  | _ => false

def GathSize.stores : GathSize → Bool
  | .b | .h | .w => true
  | _ => false

/-- The scope of an atomic: 0 and 1 on LS, any on global memory (08 R170). -/
def atomicOk (sc : Scope) (a : Addr) : Bool :=
  (a.isLs01 && (sc == .c || sc == .k)) || a.isGlobal

def VFp.ok (o : VFp) : Bool :=
  o.d.dst o.fmt.pair && o.a.src o.fmt.pair && o.b.src o.fmt.pair

def VFma.ok (o : VFma) : Bool :=
  o.o.ok && match o.c with
    | some c => c.src o.o.fmt.pair
    | none => true

def VFpUn.ok (o : VFpUn) : Bool :=
  o.d.dst o.fmt.pair && o.a.src o.fmt.pair && o.fmt != .f64

def VFpBin.ok (o : VFpBin) : Bool :=
  o.d.dst o.fmt.pair && o.a.src o.fmt.pair && o.b.src o.fmt.pair

def VFpOne.ok (o : VFpOne) : Bool := o.d.dst o.fmt.pair && o.a.src o.fmt.pair

/-- The destination is one register whatever the format (09 R202 R207). -/
def VFpOne.okSingle (o : VFpOne) : Bool := o.d.vDest && o.a.src o.fmt.pair

def VInt.ok (o : VInt) : Bool :=
  o.d.dst o.fmt.pair && o.a.src o.fmt.pair && o.b.src o.fmt.pair

def VIntUn.ok (o : VIntUn) : Bool := o.d.dst o.fmt.pair && o.a.src o.fmt.pair

/-- VREDR and VREDC operators and .SAT (09 R211). -/
def VRed.opOk (o : VRed) (scan : Bool) : Bool :=
  (match o.op with
   | .and | .or | .xor => !o.fmt.isFp && !scan
   | _ => true) &&
  (!o.sat || (o.op == .sum && !o.fmt.isFp)) &&
  (if o.op == .sum && o.fmt.isFp then o.rm != .rsto else o.rm == .rne)

/-- Whether a conversion rounds with rm (09 R205). -/
def NumFmt.convRounds : NumFmt → NumFmt → Bool
  | .fp .f64, .fp _ => true
  | .fp .f32, .fp .bf16 => true
  | .fp _, .fp _ => false
  | .fp _, .int _ => true
  | .int _, .fp _ => true
  | .int _, .int _ => false

/-- The group and register limits of VQNT and VDQNT (09 R206). -/
def MxFmt.regs : MxFmt → Nat
  | .mxint4 => 8
  | _ => 4

def VQ.grpOk (o : VQ) : Bool := o.mx != .mxint4 || o.grp.val < 4

def EngOp.ok (o : EngOp) : Bool := o.cblk.plain

/-- Legal sources of a matrix step: any vector specifier, or a stream register (10 R218). -/
def WProd.ok (o : WProd) : Bool :=
  !o.fmt.pair && match o.shape with
    | .elem => 2 ≤ o.n.val && o.n.val ≤ 8 && o.d.tile && o.a.tiles o.n.val
    | _ => o.n == 0 && o.d.vDest && o.a.tile

/-- VADJ: operator, axis and n (12 R258). -/
def AdjOpnd.ok (o : AdjOpnd) : Bool :=
  !o.fmt.pair && match o.op, o.shape with
    | .max, .elem | .min, .elem =>
      2 ≤ o.n.val && o.n.val ≤ 8 && o.a.tile && o.d.tiles o.n.val
    | .med, .elem =>
      (o.n == 3 || o.n == 5 || o.n == 7) && o.a.tile && o.d.tiles o.n.val
    | .clamp, .elem => o.n == 0 && o.a.tile && o.d.tile
    | .max, _ | .min, _ | .sat, .row | .sat, .col => o.n == 0 && o.d.tile
    | _, _ => false

/-- The well-formed instructions: the terms that a legal encoding decodes to. The destination vd of VQNT may be a bypass, as its
register group is its source (DEDUCED, assumption log 64). -/
def Instr.wf : Instr → Bool
  | .add o | .sub o | .mul o | .mulh _ o | .div _ o | .rem _ o | .and o | .or o | .xor o | .andn o
  | .shl o | .shr o | .sar o | .rotl o | .min _ o | .max _ o | .sel o | .movhi o | .extr _ o | .insr o => o.d.sDest
  | .clz o | .ctz o | .popc o => o.d.sDest
  | .mov _ d _ => d.sDest
  | .cmp _ pd _ _ _ | .pset _ pd _ | .fcmp _ pd _ _ _ => predDest pd
  | .plog _ op pd _ pb => predDest pd && ((op != .not && op != .mov) || pb == 0)
  | .pcnt _ d _ | .pget _ d _ | .pfirst _ d _ => d.sDest
  | .fadd o | .fsub o | .fmul o | .fma o | .fdiv o => o.d.sDest
  | .fsqrt _ d _ _ | .fmin _ d _ _ | .fmax _ d _ _ => d.sDest
  | .fcvt _ _ _ d _ => d.sDest
  | .movx _ d _ => d.sDest
  | .loop o => (o.level == 0 || (o.body == 0 && !o.rot && o.drain == 0)) && (o.rot || o.drain == 0)
  | .chnk _ d => d.val % 2 == 0 && 2 ≤ d.val
  | .tkaln _ d _ => d.sDest
  | .lds o => o.d.lDest && o.addr.isLs
  | .sts o => o.addr.isLs && o.sz.stores
  | .ldv o => o.d.lDest && o.addr.isLs
  | .stv o => o.addr.isLs
  | .ldt o | .stt o => o.d.tile && o.addr.isLs
  | .ldvx _ o => o.d.lDest && o.addr.isLs
  | .stvx f rm o => o.addr.isLs && (f == .bf16 || rm == .rne)
  | .ldrv o => o.d.lDest && o.addr.isRemote
  | .strv o => o.addr.isRemote
  | .ldg o => o.d.lDest && o.addr.isGlobal
  | .stg _ o => o.addr.isGlobal && o.sz.stores
  | .ldgv o => o.d.lDest && o.addr.isGlobal
  | .stgv _ o => o.addr.isGlobal
  | .gath _ _ o => o.d.lDest && o.addr.isGlobal
  | .scat sz _ _ o => o.addr.isGlobal && sz.stores
  | .lttq _ d _ _ => d.lDest
  | .scl _ _ addr | .scs _ _ addr => addr.isLs
  | .amo _ _ sc d addr _ | .cas _ sc d addr _ => d.lDest && atomicOk sc addr
  | .vamo _ _ _ _ addr _ => addr.isGlobal
  | .vamor _ _ _ d addr _ _ => d.lDest && addr.isGlobal
  | .waita _ _ _ addr => addr.isLs01
  | .tpoll _ d _ => d.lDest
  | .hwin _ d => d.lDest
  | .tlkp _ d _ => d.lDest
  | .copy _ o | .copyk _ o | .kreq _ o | .coll o | .csig o | .xsend o | .cload o | .ceval o => o.ok
  | .cpflip _ o => o.cblk == .s 0
  | .xrecv _ d _ _ => d.lDest
  | .wsave _ _ addr | .wload _ _ addr | .cput _ addr => addr.isLs
  | .cleaf _ (.sef vs _ _) => vs.aligned 2
  | .cleaf _ (.lf32 _ addr) | .cleaf _ (.lsef _ addr) => addr.isLs
  | .cout _ f32 d _ _ | .crds _ f32 d _ _ => if f32 then d.lDest else d.aligned 2
  | .vadd o | .vsub o | .vmul o => o.ok
  | .vfma o | .vfms o | .vfnma o => o.ok
  | .vmin o | .vmax o | .vcps o => o.ok
  | .vabs o | .vneg o => o.ok
  | .vrcp o | .vsqrt o | .vrsq o | .vexp2 o | .vlog2 o => o.ok
  | .vcmp _ pd _ f a b => predDest pd && a.src f.pair && b.src f.pair
  | .vclass o | .vexpx o => o.okSingle
  | .viadd _ o | .visub _ o | .vimul o | .vimulh o | .vand o | .vor o | .vxor o | .vshl o | .vshr o | .vsar o
  | .vimin o | .vimax o => o.ok
  | .vpopc o | .vclz o => o.ok
  | .vicmp _ pd _ f a b => predDest pd && a.src f.pair && b.src f.pair
  | .vcvt _ s d rm vd va => s != d && vd.dst d.pair && va.src s.pair && (NumFmt.convRounds s d || rm == .rne)
  | .vqnt _ o => o.grpOk && o.d.vDest && o.a.aligned o.mx.regs
  | .vdqnt o => o.grpOk && o.d.aligned o.mx.regs
  | .vldx o => o.d.dst o.fmt.pair && o.a.src o.fmt.pair
  | .vmant o => o.ok
  | .vxmul _ d a b | .vxadd _ d a b | .vxmax _ d a b => d.aligned 2 && a.aligned 2 && b.aligned 2
  | .vxnorm _ d a => d.aligned 2 && a.aligned 2
  | .vxcvt _ k rm d a =>
    match k with
    | .f32ToSef | .bf16ToSef => d.aligned 2 && rm == .rne
    | .sefToF32 | .sefToBf16 => d.vDest && a.aligned 2
  | .vmov _ f d a => d.dst f.pair && a.src f.pair
  | .vsel _ p d a b | .vext _ p d a b _ => d.dst p && a.src p && b.src p
  | .vsplat _ d _ => d.vDest
  | .viota _ p d _ => d.dst p
  | .vrotr o | .vbcr o => o.d.dst o.fmt.pair && o.a.src o.fmt.pair
  | .vredr o => o.opOk false && o.d.dst o.fmt.pair && o.a.src o.fmt.pair
  | .vscanr o => o.opOk true && o.d.dst o.fmt.pair && o.a.src o.fmt.pair
  | .vperm _ f d a _ => d.dst f.pair && a.src f.pair
  | .vcmpr _ f d a _ | .vexpd _ f d a _ => d.dst f.pair && a.src f.pair
  | .vrotc _ f d a _ | .vbcc _ f d a _ => !f.pair && d.tile && a.tile
  | .vredc o => o.opOk false && !o.fmt.pair && o.d.vDest && o.a.tile
  | .vscanc o => o.opOk true && !o.fmt.pair && o.d.tile && o.a.tile
  | .vrngGen _ _ _ _ d | .vrngGet _ d => d.vDest
  | .vmaxw o | .vminw o => o.ok
  | .vclmpw _ d a _ _ f => !f.pair && d.tile && a.tile
  | .vmedw _ d a n _ f => !f.pair && (n == 3 || n == 5 || n == 7) && d.tile && a.tiles n.val
  | .vsatw _ d a _ _ f => !f.pair && d.vDest && a.tile
  | .vadj o => o.ok
  | .wmov _ h d _ => if h then d.vDest else d.aligned 4
  | .mrd _ d _ _ => d.mDest
  | .mrdq _ mx _ d _ _ e => d.mDest && (mx || e == 0)
  | .kmbox _ _ x _ => x.plain
  | .kdone _ x _ | .kdedup _ x _ _ | .ktreeStart _ x _ | .ktreeStep _ x | .ktreeCollect _ x _ | .klogAppend _ x _ _
  | .klogHead _ x _ _ | .klogSign _ x _ _ | .kput _ x _ | .kroute _ x _ _ | .kheatAdd _ x _ _ | .kheatRead _ x _ => x.plain
  | _ => true

end Sys2Proof
end

