-- ==== Sys2Proof/Decode.lean ====
section
/-! DEFINITION. Decoding of one syllable with the X that extends it (04 R70 to R80, R87), total on any bits and refusing by
name, and after it the encoder, written from the same tables. A syllable is a number below 2^64; an X is given by its
payload. The rules of whole bundles (04 R81 to R86) stand in Machine/Bundle.lean. -/
namespace Sys2Proof

/-! ### Fields -/

/-- Bits [lo + n − 1 : lo] of `w`. -/
def bits (w lo n : Nat) : Nat := w / 2 ^ lo % 2 ^ n

/-- Fields of (width, value), least significant first, set side by side. -/
def pack : List (Nat × Nat) → Nat
  | [] => 0
  | (n, v) :: r => v + 2 ^ n * pack r

/-- Why a syllable is no instruction (04 R71). -/
inductive DecErr where
  /-- Class 0b110. -/
  | reservedClass
  /-- An X, which extends a syllable and is none itself (04 R78). -/
  | extension
  /-- An opcode that 04 R87 does not list. -/
  | unassigned
  /-- The entry requires an X and none follows. -/
  | missingX
  /-- A reserved value or specifier in a field that the opcode uses. -/
  | reserved
  /-- A value that the instruction's entry excludes. -/
  | excluded
  deriving DecidableEq, Repr

def cls (w : Nat) : Nat := bits w 60 3

def opc (w : Nat) : Nat := bits w 51 9

def guardOf (w : Nat) : Guard := ⟨Fin.ofNat 64 (bits w 45 6), bits w 44 1 == 1⟩

/-! ### Specifiers and codes (03 R47, 04 R74) -/

def sreg (n : Nat) : Option SReg :=
  if n < 64 then some (.s (Fin.ofNat 64 n))
  else if n < 80 then some (.a (Fin.ofNat 16 (n - 64)))
  else if n = 96 then some .bpS
  else if n = 97 then some .bpL
  else none

def vreg (n : Nat) : Option VReg :=
  if n < 640 then some (.v (Fin.ofNat 640 n))
  else if n = 1008 then some .bpV0
  else if n = 1009 then some .bpV1
  else if n = 1010 then some .bpL
  else if n = 1011 then some .bpM
  else none

/-- Specifiers 64 to 79. -/
def areg (n : Nat) : Option (Fin 16) :=
  if 64 ≤ n ∧ n < 80 then some (Fin.ofNat 16 (n - 64)) else none

/-- A predicate number in a scalar or vector field: the bits above the low six must be 0 (04 R72, 09 R201). -/
def predOf (n : Nat) : Option (Fin 64) := if n < 64 then some (Fin.ofNat 64 n) else none

/-- A token position of the engine form; 63 names none (04 R77). -/
def tokOf (n : Nat) : Option (Fin 63) := if n < 63 then some (Fin.ofNat 63 n) else none

def fmtOf : Nat → Option Fmt
  | 0 => some (.num (.fp .f32))
  | 1 => some (.num (.fp .f64))
  | 2 => some (.num (.fp .bf16))
  | 3 => some (.num (.int .i32))
  | 4 => some (.num (.int .ui32))
  | 5 => some (.num (.int .i16))
  | 6 => some (.num (.int .ui16))
  | 7 => some (.num (.int .i8))
  | 8 => some (.num (.int .ui8))
  | 9 => some .sef
  | 10 => some (.mx .mxint8)
  | 11 => some (.mx .mxint6)
  | 12 => some (.mx .mxint4)
  | 13 => some (.num (.int .i64))
  | _ => none

def numOf (n : Nat) : Option NumFmt :=
  match fmtOf n with
  | some (.num f) => some f
  | _ => none

def fpOf (n : Nat) : Option FpFmt :=
  match fmtOf n with
  | some (.num (.fp f)) => some f
  | _ => none

def intOf (n : Nat) : Option IntFmt :=
  match fmtOf n with
  | some (.num (.int f)) => some f
  | _ => none

def mxOf (n : Nat) : Option MxFmt :=
  match fmtOf n with
  | some (.mx f) => some f
  | _ => none

def rmOf : Nat → Option Rm
  | 0 => some .rne
  | 1 => some .rtz
  | 2 => some .rup
  | 3 => some .rdn
  | 4 => some .rsto
  | 5 => some .dyn
  | _ => none

def ccOf : Nat → Option Cc
  | 0 => some .eq
  | 1 => some .ne
  | 2 => some .lt
  | 3 => some .le
  | 4 => some .gt
  | 5 => some .ge
  | 6 => some .ltu
  | 7 => some .leu
  | 8 => some .gtu
  | 9 => some .geu
  | _ => none

def fccOf : Nat → Option FCc
  | 0 => some .eq
  | 1 => some .ne
  | 2 => some .lt
  | 3 => some .le
  | 4 => some .gt
  | 5 => some .ge
  | 6 => some .un
  | _ => none

def iccOf : Nat → Option ICc
  | 0 => some .eq
  | 1 => some .ne
  | 2 => some .lt
  | 3 => some .le
  | 4 => some .gt
  | 5 => some .ge
  | _ => none

def plogOf : Nat → Option PlogOp
  | 0 => some .and
  | 1 => some .or
  | 2 => some .xor
  | 3 => some .andn
  | 4 => some .not
  | 5 => some .mov
  | 6 => some .nand
  | 7 => some .nor
  | _ => none

def fcvtOf : Nat → Option FcvtKind
  | 0 => some .toi
  | 1 => some .tou
  | 2 => some .fromi
  | 3 => some .fromu
  | 4 => some .tof32
  | 5 => some .fromf32
  | 6 => some .rint
  | _ => none

def scopeOf : Nat → Option Scope
  | 0 => some .c
  | 1 => some .k
  | 2 => some .d
  | 3 => some .p
  | 4 => some .y
  | _ => none

def sizeOf : Nat → Option Size
  | 0 => some .b
  | 1 => some .h
  | 2 => some .w
  | 3 => some .d
  | 4 => some .sb
  | 5 => some .sh
  | 6 => some .sw
  | _ => none

def gathSizeOf : Nat → Option GathSize
  | 0 => some .b
  | 1 => some .h
  | 2 => some .w
  | 4 => some .sb
  | 5 => some .sh
  | 6 => some .w
  | _ => none

def amoOf : Nat → Option AmoOp
  | 0 => some .add
  | 1 => some .and
  | 2 => some .or
  | 3 => some .xor
  | 4 => some .min
  | 5 => some .max
  | 6 => some .minu
  | 7 => some .maxu
  | 8 => some .swap
  | _ => none

def narrowOf : Nat → Option NarrowFmt
  | 2 => some .bf16
  | 5 => some .i16
  | 6 => some .ui16
  | 7 => some .i8
  | 8 => some .ui8
  | _ => none

def redOf : Nat → Option RedOp
  | 0 => some .sum
  | 1 => some .max
  | 2 => some .min
  | 3 => some .and
  | 4 => some .or
  | 5 => some .xor
  | _ => none

def mfmtOf : Nat → Option MFmt
  | 0 => some .mx8
  | 1 => some .mx6
  | 2 => some .mx4
  | 3 => some .mx8x4
  | 4 => some .mx4x8
  | 5 => some .bf16
  | _ => none

def shapeOf : Nat → Option WShape
  | 0 => some .elem
  | 1 => some .row
  | 2 => some .col
  | _ => none

def adjOf : Nat → Option AdjOp
  | 1 => some .max
  | 2 => some .min
  | 3 => some .clamp
  | 4 => some .med
  | 5 => some .sat
  | _ => none

def xcvtOf : Nat → Option XcvtKind
  | 0 => some .f32ToSef
  | 1 => some .bf16ToSef
  | 2 => some .sefToF32
  | 3 => some .sefToBf16
  | _ => none

/-! ### Which opcodes are assigned, and which syllables take an X (04 R78 R83 R87) -/

def assigned (c op : Nat) : Bool :=
  match c with
  | 0 => op == 0 || (0x10 ≤ op && op ≤ 0x27) || (0x30 ≤ op && op ≤ 0x35) || (0x40 ≤ op && op ≤ 0x49) || op == 0x50
    || op == 0x51 || (0x58 ≤ op && op ≤ 0x5A) || (0x60 ≤ op && op ≤ 0x67) || (0x70 ≤ op && op ≤ 0x74)
    || (0x78 ≤ op && op ≤ 0x7A)
  | 1 => (0x10 ≤ op && op ≤ 0x21) || (0x28 ≤ op && op ≤ 0x36) || (0x38 ≤ op && op ≤ 0x3D) || (0x40 ≤ op && op ≤ 0x44)
    || (0x48 ≤ op && op ≤ 0x4C) || (0x50 ≤ op && op ≤ 0x56) || (0x58 ≤ op && op ≤ 0x5B) || op == 0x60
    || (0x68 ≤ op && op ≤ 0x6F)
  | 2 => 0x10 ≤ op && op ≤ 0x15
  | 3 => (0x10 ≤ op && op ≤ 0x19) || (0x20 ≤ op && op ≤ 0x25) || op == 0x28 || op == 0x29 || op == 0x2C || op == 0x2D
    || (0x30 ≤ op && op ≤ 0x33) || (0x38 ≤ op && op ≤ 0x3D) || (0x40 ≤ op && op ≤ 0x42) || (0x48 ≤ op && op ≤ 0x4E)
    || op == 0x50 || op == 0x51 || (0x58 ≤ op && op ≤ 0x5E)
  | 5 => 0x10 ≤ op && op ≤ 0x1B
  | _ => false

/-- Opcodes of class S whose immediate form takes an imm32 (07 R147). NOP takes one too, as every immediate form of 04 R78 does
(DEDUCED, assumption log 64). -/
def sImmX (op : Nat) : Bool :=
  op == 0 || (0x10 ≤ op && op ≤ 0x1F) || (0x23 ≤ op && op ≤ 0x27) || op == 0x30 || op == 0x33 || op == 0x58 || op == 0x59

/-- Opcodes of class L that accept mode 2 (08 R170, 12 R262, 11 R243 R245). -/
def lMode2 (op fn : Nat) : Bool :=
  (0x10 ≤ op && op ≤ 0x17) || op == 0x2C || op == 0x2D || op == 0x50 || op == 0x51 || op == 0x5C
    || (op == 0x59 && 2 ≤ fn % 4)

/-- Opcodes of class L with an X of their own (08 R170). -/
def lOwnX (op : Nat) : Bool :=
  op == 0x18 || op == 0x19 || op == 0x24 || op == 0x25 || (0x30 ≤ op && op ≤ 0x33)

/-- The syllable's entry takes an X. -/
def takesX (w : Nat) : Bool :=
  match cls w with
  | 0 => bits w 43 1 == 1 && sImmX (opc w)
  | 1 => (0x13 ≤ opc w && opc w ≤ 0x15) || (0x4A ≤ opc w && opc w ≤ 0x4C)
  | 2 => opc w == 0x10 || opc w == 0x11
  | 3 => lOwnX (opc w) || (lMode2 (opc w) (bits w 0 4) && bits w 30 4 == 2)
    || ((opc w == 0x48 || opc w == 0x49) && bits w 0 1 == 1)
  | _ => false

/-- The syllable's entry requires an X. -/
def needsX (w : Nat) : Bool :=
  match cls w with
  | 1 => opc w == 0x4A || opc w == 0x4B
  | 2 => opc w == 0x11 || (opc w == 0x10 && (bits w 39 3 == 2 || bits w 26 3 == 2))
  | 3 => takesX w
  | _ => false

/-! ### Class S (04 R72 R73, 07) -/

/-- Source B: field b, imm16 or the X (07 R147). -/
def srcB (w : Nat) (x : Option Nat) : Option SrcB :=
  if bits w 43 1 = 0 then (sreg (bits w 22 7)).map .reg
  else match x with
    | some p => some (.imm (BitVec.ofNat 32 p))
    | none => some (.imm ((BitVec.ofNat 16 (bits w 13 16)).signExtend 32))

/-- Source A where I = 0 and B where I = 1 (MOV, PSET, STRB, STRS). -/
def srcAB (w : Nat) (x : Option Nat) : Option SrcB :=
  if bits w 43 1 = 0 then (sreg (bits w 29 7)).map .reg else srcB w x

/-- fn of the register and immediate forms. -/
def sFn (w : Nat) : Nat := if bits w 43 1 = 0 then bits w 18 4 else bits w 9 4

def sOp (w : Nat) (x : Option Nat) : Option SOp := do
  return ⟨guardOf w, ← sreg (bits w 36 7), ← sreg (bits w 29 7), ← srcB w x⟩

/-- An operation whose fn 0 is signed and 1 unsigned. -/
def sOpU (w : Nat) (x : Option Nat) (f : Bool → SOp → Instr) : Option Instr :=
  match sFn w with
  | 0 => (sOp w x).map (f false)
  | 1 => (sOp w x).map (f true)
  | _ => none

/-- A register form: I = 1 is illegal. -/
def regForm (w : Nat) (r : Option Instr) : Option Instr := if bits w 43 1 = 0 then r else none

/-- An immediate form: I = 0 is illegal. -/
def immForm (w : Nat) (r : Option Instr) : Option Instr := if bits w 43 1 = 1 then r else none

def sUn (w : Nat) : Option SUn := do
  return ⟨guardOf w, ← sreg (bits w 36 7), ← sreg (bits w 29 7)⟩

def sFp (w : Nat) : Option SFp := do
  return ⟨guardOf w, ← sreg (bits w 36 7), ← sreg (bits w 29 7), ← sreg (bits w 22 7), ← rmOf (bits w 18 4)⟩

/-- A scalar destination and a predicate source. -/
def sPred (w : Nat) (f : Guard → SReg → Fin 64 → Instr) : Option Instr := do
  return f (guardOf w) (← sreg (bits w 36 7)) (← predOf (bits w 29 7))

def loopCountOf (w : Nat) : Option LoopCount :=
  if bits w 40 1 = 0 then some (.imm (BitVec.ofNat 16 (bits w 24 16)))
  else match sreg (bits w 24 7) with
    | some (.s n) => some (.sreg n)
    | some (.a n) => some (.areg n)
    | _ => none

/-- LOOP: body, rot and E are reserved above level 0, and E where rot = 0 (04 R73, 07 R158) (DEDUCED, assumption log 36). -/
def loopOf (w : Nat) : Option LoopOp := do
  let c ← loopCountOf w
  if bits w 41 3 < 6 then
    if bits w 41 3 = 0 then
      return ⟨guardOf w, 0, c, Fin.ofNat 64 (bits w 18 6), bits w 17 1 == 1,
        if bits w 17 1 = 1 then Fin.ofNat 32 (bits w 12 5) else 0⟩
    else return ⟨guardOf w, Fin.ofNat 6 (bits w 41 3), c, 0, false, 0⟩
  else none

def fcvtSyl (w : Nat) : Option Instr := do
  return .fcvt (guardOf w) (← fcvtOf (bits w 18 4)) (← rmOf (bits w 22 3)) (← sreg (bits w 36 7)) (← sreg (bits w 29 7))

def plogSyl (w : Nat) : Option Instr := do
  let op ← plogOf (bits w 18 4)
  let pb ← if op = .not ∨ op = .mov then some (0 : Fin 64) else predOf (bits w 22 7)
  return .plog (guardOf w) op (← predOf (bits w 36 7)) (← predOf (bits w 29 7)) pb

def decS (w : Nat) (x : Option Nat) : Option Instr :=
  let g := guardOf w
  match opc w with
  | 0x000 => some (.nop g)
  | 0x010 => (sOp w x).map .add
  | 0x011 => (sOp w x).map .sub
  | 0x012 => (sOp w x).map .mul
  | 0x013 => sOpU w x .mulh
  | 0x014 => sOpU w x .div
  | 0x015 => sOpU w x .rem
  | 0x016 => (sOp w x).map .and
  | 0x017 => (sOp w x).map .or
  | 0x018 => (sOp w x).map .xor
  | 0x019 => (sOp w x).map .andn
  | 0x01A => (sOp w x).map .shl
  | 0x01B => (sOp w x).map .shr
  | 0x01C => (sOp w x).map .sar
  | 0x01D => (sOp w x).map .rotl
  | 0x01E => sOpU w x .min
  | 0x01F => sOpU w x .max
  | 0x020 => regForm w ((sUn w).map .clz)
  | 0x021 => regForm w ((sUn w).map .ctz)
  | 0x022 => regForm w ((sUn w).map .popc)
  | 0x023 => (sOp w x).map .sel
  | 0x024 => do return .mov g (← sreg (bits w 36 7)) (← srcAB w x)
  | 0x025 => (sOp w x).map .movhi
  | 0x026 => sOpU w x .extr
  | 0x027 => (sOp w x).map .insr
  | 0x030 => do return .cmp g (← predOf (bits w 36 7)) (← ccOf (sFn w)) (← sreg (bits w 29 7)) (← srcB w x)
  | 0x031 => regForm w (plogSyl w)
  | 0x032 => regForm w (sPred w .pcnt)
  | 0x033 => do return .pset g (← predOf (bits w 36 7)) (← srcAB w x)
  | 0x034 => regForm w (sPred w .pget)
  | 0x035 => regForm w (sPred w .pfirst)
  | 0x040 => regForm w ((sFp w).map .fadd)
  | 0x041 => regForm w ((sFp w).map .fsub)
  | 0x042 => regForm w ((sFp w).map .fmul)
  | 0x043 => regForm w ((sFp w).map .fma)
  | 0x044 => regForm w ((sFp w).map .fdiv)
  | 0x045 => regForm w (do return .fsqrt g (← sreg (bits w 36 7)) (← sreg (bits w 29 7)) (← rmOf (bits w 18 4)))
  | 0x046 => regForm w (do
      return .fcmp g (← predOf (bits w 36 7)) (← fccOf (bits w 18 4)) (← sreg (bits w 29 7)) (← sreg (bits w 22 7)))
  | 0x047 => regForm w (fcvtSyl w)
  | 0x048 => regForm w (do return .fmin g (← sreg (bits w 36 7)) (← sreg (bits w 29 7)) (← sreg (bits w 22 7)))
  | 0x049 => regForm w (do return .fmax g (← sreg (bits w 36 7)) (← sreg (bits w 29 7)) (← sreg (bits w 22 7)))
  | 0x050 => immForm w (do return .movx g (← sreg (bits w 36 7)) (Fin.ofNat 512 (bits w 13 9)))
  | 0x051 => immForm w (do return .movs g (Fin.ofNat 512 (bits w 13 9)) (← sreg (bits w 29 7)))
  | 0x058 => do return .strb g (← areg (bits w 36 7)) (← srcAB w x)
  | 0x059 =>
      if sFn w < 6 then do return .strs g (← areg (bits w 36 7)) (Fin.ofNat 6 (sFn w)) (← srcAB w x) else none
  | 0x05A => regForm w (do return .strz g (← areg (bits w 36 7)))
  | 0x060 => some (.br g (BitVec.ofNat 24 (bits w 20 24)))
  | 0x061 => regForm w (do return .bri g (← sreg (bits w 29 7)))
  | 0x062 => some (.call g (BitVec.ofNat 24 (bits w 20 24)))
  | 0x063 => regForm w (do return .ret g (← sreg (bits w 29 7)))
  | 0x064 => (loopOf w).map .loop
  | 0x065 => regForm w (if bits w 18 4 < 6 then some (.lexit g (Fin.ofNat 6 (bits w 18 4))) else none)
  | 0x066 => regForm w (if bits w 18 4 < 2 then some (.rotx g (bits w 18 4 == 1)) else none)
  | 0x067 => some (.endStrand g)
  | 0x070 => immForm w (if bits w 9 4 = 1 ∨ bits w 9 4 = 2 then
      some (.bar g (bits w 9 4 == 2) (Fin.ofNat 16 (bits w 13 4))) else none)
  | 0x071 => immForm w (do return .tkaln g (← sreg (bits w 36 7)) (BitVec.ofNat 16 (bits w 13 16)))
  | 0x072 => some (.etrig g)
  | 0x073 => immForm w (some (.trap g (BitVec.ofNat 16 (bits w 13 16))))
  | 0x074 => regForm w (do return .chnk g (← predOf (bits w 36 7)))
  | 0x078 => regForm w (do return .rfrun g (← sreg (bits w 29 7)))
  | 0x079 => regForm w (some (.rfret g))
  | 0x07A => regForm w (do return .rfnorm g (← sreg (bits w 29 7)))
  | _ => none

/-! ### Class V (04 R74, 09, 12) -/

def vD (w : Nat) : Option VReg := vreg (bits w 34 10)
def vA (w : Nat) : Option VReg := vreg (bits w 24 10)
def vB (w : Nat) : Option VReg := vreg (bits w 14 10)
def vFmt (w : Nat) : Nat := bits w 10 4
def vRm (w : Nat) : Option Rm := rmOf (bits w 7 3)
def vFn (w : Nat) : Nat := bits w 4 3
def vMod (w : Nat) : Nat := bits w 0 4

def vFp (w : Nat) : Option VFp := do
  return ⟨guardOf w, ← vD w, ← vA w, ← vB w, ← fpOf (vFmt w), ← vRm w⟩

def vFma (w : Nat) (x : Option Nat) : Option VFma := do
  match x with
  | none => return ⟨← vFp w, none⟩
  | some p => return ⟨← vFp w, some (← vreg (p % 1024))⟩

def vFpBin (w : Nat) : Option VFpBin := do
  return ⟨guardOf w, ← vD w, ← vA w, ← vB w, ← fpOf (vFmt w)⟩

def vFpOne (w : Nat) : Option VFpOne := do
  return ⟨guardOf w, ← vD w, ← vA w, ← fpOf (vFmt w)⟩

def vFpUn (w : Nat) : Option VFpUn := do
  return ⟨guardOf w, ← vD w, ← vA w, ← fpOf (vFmt w), ← vRm w⟩

def vInt (w : Nat) : Option VInt := do
  return ⟨guardOf w, ← vD w, ← vA w, ← vB w, ← intOf (vFmt w)⟩

def vIntUn (w : Nat) : Option VIntUn := do
  return ⟨guardOf w, ← vD w, ← vA w, ← intOf (vFmt w)⟩

def vIdx (w : Nat) : Option VIdx := do
  return ⟨guardOf w, ← vD w, ← vA w, Fin.ofNat 64 (bits w 14 6), ← fmtOf (vFmt w)⟩

/-- Reductions: rm is used by a float SUM only (09 R211). -/
def vRed (w : Nat) : Option VRed := do
  let op ← redOf (vFn w)
  let f ← numOf (vFmt w)
  let rm ← if op = .sum ∧ f.isFp then vRm w else some Rm.rne
  return ⟨guardOf w, ← vD w, ← vA w, op, f, rm, bits w 0 1 == 1⟩

def vQ (w : Nat) : Option VQ := do
  let f ← mxOf (vFmt w)
  if vFn w < 2 ∧ vMod w < 8 then
    return ⟨guardOf w, ← vD w, ← vA w, Fin.ofNat 8 (bits w 14 3), f, vFn w == 1, Fin.ofNat 8 (vMod w)⟩
  else none

/-- The unsigned code of the shape, n where it is used, and the witness register of a producer (12 R252). -/
def wProd (w : Nat) : Option WProd := do
  let s ← shapeOf (vFn w)
  return ⟨guardOf w, ← vD w, ← vA w, s, if s = .elem then Fin.ofNat 16 (bits w 14 4) else 0, Fin.ofNat 8 (bits w 0 3),
    ← numOf (vFmt w)⟩

def adjOpnd (w : Nat) : Option AdjOpnd := do
  let op ← adjOf (vFn w)
  let s ← shapeOf (bits w 18 2)
  let n : Fin 16 := if s = .elem ∧ op ≠ .clamp ∧ op ≠ .sat then Fin.ofNat 16 (bits w 14 4) else 0
  return ⟨guardOf w, ← vD w, ← vA w, op, s, n, bits w 3 1 == 1, Fin.ofNat 8 (bits w 0 3), ← numOf (vFmt w)⟩

def vcvtSyl (w : Nat) : Option Instr := do
  let s ← numOf (vMod w)
  let d ← numOf (vFmt w)
  let rm ← if NumFmt.convRounds s d then vRm w else some Rm.rne
  return .vcvt (guardOf w) s d rm (← vD w) (← vA w)

def vxcvtSyl (w : Nat) : Option Instr := do
  let k ← xcvtOf (vFn w)
  let rm ← if k = .sefToF32 ∨ k = .sefToBf16 then vRm w else some Rm.rne
  return .vxcvt (guardOf w) k rm (← vD w) (← vA w)

def vrngSyl (w : Nat) : Option Instr :=
  match vFn w with
  | 0 => do return .vrngSet (guardOf w) (← vA w)
  | 1 =>
    match vFmt w with
    | 0 => do return .vrngGen (guardOf w) true (bits w 3 1 == 1) (Fin.ofNat 4 (bits w 0 2)) (← vD w)
    | 4 => do return .vrngGen (guardOf w) false (bits w 3 1 == 1) (Fin.ofNat 4 (bits w 0 2)) (← vD w)
    | _ => none
  | 2 => do return .vrngGet (guardOf w) (← vD w)
  | _ => none

/-- SEF operations: fmt must be 9 (09 R208). -/
def vSef3 (w : Nat) (f : Guard → VReg → VReg → VReg → Instr) : Option Instr :=
  if vFmt w = 9 then do return f (guardOf w) (← vD w) (← vA w) (← vB w) else none

def vldxSyl (w : Nat) : Option Instr := (vFp w).map .vldx

def decV (w : Nat) (x : Option Nat) : Option Instr :=
  let g := guardOf w
  match opc w with
  | 0x010 => (vFp w).map .vadd
  | 0x011 => (vFp w).map .vsub
  | 0x012 => (vFp w).map .vmul
  | 0x013 => (vFma w x).map .vfma
  | 0x014 => (vFma w x).map .vfms
  | 0x015 => (vFma w x).map .vfnma
  | 0x016 => (vFpBin w).map .vmin
  | 0x017 => (vFpBin w).map .vmax
  | 0x018 => (vFpOne w).map .vabs
  | 0x019 => (vFpOne w).map .vneg
  | 0x01A => (vFpBin w).map .vcps
  | 0x01B => (vFpUn w).map .vrcp
  | 0x01C => (vFpUn w).map .vsqrt
  | 0x01D => (vFpUn w).map .vrsq
  | 0x01E => (vFpUn w).map .vexp2
  | 0x01F => (vFpUn w).map .vlog2
  | 0x020 => do return .vcmp g (← predOf (bits w 34 10)) (← fccOf (vFn w)) (← fpOf (vFmt w)) (← vA w) (← vB w)
  | 0x021 => (vFpOne w).map .vclass
  | 0x028 => (vInt w).map (.viadd (bits w 0 1 == 1))
  | 0x029 => (vInt w).map (.visub (bits w 0 1 == 1))
  | 0x02A => (vInt w).map .vimul
  | 0x02B => (vInt w).map .vimulh
  | 0x02C => (vInt w).map .vand
  | 0x02D => (vInt w).map .vor
  | 0x02E => (vInt w).map .vxor
  | 0x02F => (vInt w).map .vshl
  | 0x030 => (vInt w).map .vshr
  | 0x031 => (vInt w).map .vsar
  | 0x032 => (vInt w).map .vimin
  | 0x033 => (vInt w).map .vimax
  | 0x034 => (vIntUn w).map .vpopc
  | 0x035 => (vIntUn w).map .vclz
  | 0x036 => do return .vicmp g (← predOf (bits w 34 10)) (← iccOf (vFn w)) (← intOf (vFmt w)) (← vA w) (← vB w)
  | 0x038 => vcvtSyl w
  | 0x039 => do return .vqnt (← vRm w) (← vQ w)
  | 0x03A => (vQ w).map .vdqnt
  | 0x03B => (vFpOne w).map .vexpx
  | 0x03C => vldxSyl w
  | 0x03D => (vFpOne w).map .vmant
  | 0x040 => vSef3 w .vxmul
  | 0x041 => vSef3 w .vxadd
  | 0x042 => vSef3 w .vxmax
  | 0x043 => if vFmt w = 9 then do return .vxnorm g (← vD w) (← vA w) else none
  | 0x044 => vxcvtSyl w
  | 0x048 => do return .vmov g (← fmtOf (vFmt w)) (← vD w) (← vA w)
  | 0x049 => do return .vsel g (bits w 0 1 == 1) (← vD w) (← vA w) (← vB w)
  | 0x04A => do return .vsplat g (← vD w) (BitVec.ofNat 32 (x.getD 0))
  | 0x04B => do return .vext g (bits w 0 1 == 1) (← vD w) (← vA w) (← vB w) (Fin.ofNat 64 (x.getD 0))
  | 0x04C => do return .viota g (bits w 0 1 == 1) (← vD w) (BitVec.ofNat 32 (x.getD 0))
  | 0x050 => (vIdx w).map .vrotr
  | 0x051 => (vIdx w).map .vbcr
  | 0x052 => (vRed w).map .vredr
  | 0x053 => (vRed w).map .vscanr
  | 0x054 => do return .vperm g (← fmtOf (vFmt w)) (← vD w) (← vA w) (← vB w)
  | 0x055 => do return .vcmpr g (← fmtOf (vFmt w)) (← vD w) (← vA w) (Fin.ofNat 64 (bits w 14 6))
  | 0x056 => do return .vexpd g (← fmtOf (vFmt w)) (← vD w) (← vA w) (Fin.ofNat 64 (bits w 14 6))
  | 0x058 => do return .vrotc g (← numOf (vFmt w)) (← vD w) (← vA w) (Fin.ofNat 16 (bits w 14 4))
  | 0x059 => do return .vbcc g (← numOf (vFmt w)) (← vD w) (← vA w) (Fin.ofNat 16 (bits w 14 4))
  | 0x05A => (vRed w).map .vredc
  | 0x05B => (vRed w).map .vscanc
  | 0x060 => vrngSyl w
  | 0x068 => (wProd w).map .vmaxw
  | 0x069 => (wProd w).map .vminw
  | 0x06A => do return .vclmpw g (← vD w) (← vA w) (← vB w) (Fin.ofNat 8 (bits w 0 3)) (← numOf (vFmt w))
  | 0x06B => do
      return .vmedw g (← vD w) (← vA w) (Fin.ofNat 16 (bits w 14 4)) (Fin.ofNat 8 (bits w 0 3)) (← numOf (vFmt w))
  | 0x06C =>
      if vFn w = 1 ∨ vFn w = 2 then do
        return .vsatw g (← vD w) (← vA w) (vFn w == 2) (Fin.ofNat 8 (bits w 0 3)) (← intOf (vFmt w))
      else none
  | 0x06D => (adjOpnd w).map .vadj
  | 0x06E => if vFn w < 2 then do return .wmov g (vFn w == 1) (← vD w) (Fin.ofNat 8 (bits w 0 3)) else none
  | 0x06F => some (.wclr g (Fin.ofNat 8 (bits w 0 3)))
  | _ => none

/-! ### Class M (04 R75, 10) -/

/-- A matrix operand: kind, spec field, and the X nibble of a remote stream (10 R218). -/
def mSrc (kind spec core : Nat) : Option MSrc :=
  match kind with
  | 0 => (vreg spec).map .vec
  | 1 => (areg (spec % 128)).map .ls
  | 2 => (areg (spec % 128)).map (.remote · (Fin.ofNat 16 core))
  | _ => none

def mStep (w : Nat) (x : Option Nat) : Option MStepOp := do
  let p := x.getD 0
  return ⟨guardOf w, Fin.ofNat 4 (bits w 42 2), ← mSrc (bits w 39 3) (bits w 29 10) (bits p 0 4),
    ← mSrc (bits w 26 3) (bits w 16 10) (bits p 4 4), ← mfmtOf (bits w 12 4), Fin.ofNat 8 (bits w 9 3),
    Fin.ofNat 8 (bits w 6 3), bits w 4 1 == 1⟩

def mRow (w : Nat) : Option MRow :=
  match bits w 26 3 with
  | 0 => some (.imm (Fin.ofNat 64 (bits w 16 6)))
  | 1 => (areg (bits w 16 7)).map .areg
  | _ => none

def mrdqSyl (w : Nat) : Option Instr := do
  let mx ← match bits w 12 4 with
    | 0 => some false
    | 1 => some true
    | _ => none
  return .mrdq (guardOf w) mx (← rmOf (bits w 6 3)) (← vreg (bits w 29 10)) (Fin.ofNat 4 (bits w 42 2)) (← mRow w)
    (if mx then Fin.ofNat 8 (bits w 9 3) else 0)

def decM (w : Nat) (x : Option Nat) : Option Instr :=
  let g := guardOf w
  let acc := Fin.ofNat 4 (bits w 42 2)
  match opc w with
  | 0x010 => (mStep w x).map .mstep
  | 0x011 => do return .msteps (bits w 5 1 == 1) (← mStep w x) (← vreg (bits (x.getD 0) 8 10))
  | 0x012 => some (.mzero g acc)
  | 0x013 => do return .mrd g (← vreg (bits w 29 10)) acc (← mRow w)
  | 0x014 => do return .mwr g acc (← mRow w) (← vreg (bits w 29 10))
  | 0x015 => mrdqSyl w
  | _ => none

/-! ### Class L (04 R76 R77, 08, 11, 12, 14) -/

def off16 (w : Nat) : BitVec 16 := BitVec.ofNat 16 (bits w 7 16)

/-- The address operand (04 R76). -/
def laddr (w : Nat) (x : Option Nat) : Option Addr :=
  let base := bits w 23 7
  match bits w 30 4 with
  | 0 => (areg base).map (.lsA · (off16 w))
  | 1 => (predOf base).map (.lsS · (off16 w))
  | 2 => do return .lsAS (← areg base) (← predOf (bits (x.getD 0) 0 7))
  | 3 => (predOf base).map (.ltt · (off16 w))
  | 4 => some (.handle (Fin.ofNat 8 base) (off16 w))
  | 5 => (areg base).map (.remote · (off16 w) (Fin.ofNat 16 (bits (x.getD 0) 0 4)))
  | _ => none

def lFn (w : Nat) : Nat := bits w 0 4
def lScope (w : Nat) : Option Scope := scopeOf (bits w 4 3)
def lDs (w : Nat) : Option SReg := sreg (bits w 37 7)
def lDv (w : Nat) : Option VReg := vreg (bits w 34 10)
def lK (w : Nat) : Fin 8 := Fin.ofNat 8 (bits w 34 3)

def lScalar (w : Nat) (x : Option Nat) : Option LScalar := do
  return ⟨guardOf w, ← lDs w, ← laddr w x, ← sizeOf (lFn w)⟩

def lVec (w : Nat) (x : Option Nat) : Option LVec := do
  return ⟨guardOf w, ← lDv w, ← laddr w x⟩

def engOp (w : Nat) : Option EngOp := do
  return ⟨guardOf w, tokOf (bits w 38 6), tokOf (bits w 32 6), tokOf (bits w 26 6), tokOf (bits w 20 6),
    ← sreg (bits w 13 7)⟩

/-- COPY and COPYK: fn [0] asks for the multicast mask of the X (08 R189). -/
def mcMask (w : Nat) (x : Option Nat) : Option (BitVec 16) :=
  if bits w 0 1 = 1 then some (BitVec.ofNat 16 (x.getD 0)) else none

/-- A mode-1 operand S[b] + off16 of XRECV, CLEAF, COUT and CRDS. -/
def mode1 (w : Nat) : Option (Fin 64) := if bits w 30 4 = 1 then predOf (bits w 23 7) else none

def stvxSyl (w : Nat) (x : Option Nat) : Option Instr := do
  let f ← narrowOf (lFn w)
  let rm ← if f = .bf16 then rmOf (bits w 4 3) else some Rm.rne
  return .stvx f rm (← lVec w x)

def cleafSyl (w : Nat) (x : Option Nat) : Option Instr := do
  let g := guardOf w
  match lFn w % 4 with
  | 0 => return .cleaf g (.f32 (← lDv w) (← mode1 w) (off16 w))
  | 1 => return .cleaf g (.sef (← lDv w) (← mode1 w) (off16 w))
  | 2 => return .cleaf g (.lf32 (← lDs w) (← laddr w x))
  | _ => return .cleaf g (.lsef (← lDs w) (← laddr w x))

/-- AMO and CAS: the operand is X [6:0] and mode 2 is not accepted (08 R170). -/
def xOpnd (x : Option Nat) : Option SReg := sreg (bits (x.getD 0) 0 7)
def xIdx (x : Option Nat) : Option VReg := vreg (bits (x.getD 0) 0 10)
def xVal (x : Option Nat) : Option VReg := vreg (bits (x.getD 0) 10 10)

/-- VAMO's vd is reserved (08 R181). -/
def decL (w : Nat) (x : Option Nat) : Option Instr :=
  let g := guardOf w
  match opc w with
  | 0x010 => (lScalar w x).map .lds
  | 0x011 => (lScalar w x).map .sts
  | 0x012 => (lVec w x).map .ldv
  | 0x013 => (lVec w x).map .stv
  | 0x014 => (lVec w x).map .ldt
  | 0x015 => (lVec w x).map .stt
  | 0x016 => do return .ldvx (← narrowOf (lFn w)) (← lVec w x)
  | 0x017 => stvxSyl w x
  | 0x018 => (lVec w x).map .ldrv
  | 0x019 => (lVec w x).map .strv
  | 0x020 => (lScalar w x).map .ldg
  | 0x021 => do return .stg (← lScope w) (← lScalar w x)
  | 0x022 => (lVec w x).map .ldgv
  | 0x023 => do return .stgv (← lScope w) (← lVec w x)
  | 0x024 => do return .gath (← gathSizeOf (bits w 0 3)) (← xIdx x) (← lVec w x)
  | 0x025 =>
      if bits w 2 1 = 0 then do return .scat (← gathSizeOf (bits w 0 3)) (← lScope w) (← xIdx x) (← lVec w x) else none
  | 0x028 => do return .xlt g (lK w) (← sreg (bits w 23 7)) (Fin.ofNat 64 (bits w 7 6))
  | 0x029 => do return .lttq g (← lDs w) (Fin.ofNat 64 (bits w 7 6)) (bits w 13 1 == 1)
  | 0x02C => do return .scl g (lK w) (← laddr w x)
  | 0x02D => do return .scs g (lK w) (← laddr w x)
  | 0x030 => do return .amo g (← amoOf (lFn w)) (← lScope w) (← lDs w) (← laddr w x) (← xOpnd x)
  | 0x031 => do return .cas g (← lScope w) (← lDs w) (← laddr w x) (← xOpnd x)
  | 0x032 => do return .vamo g (← amoOf (lFn w)) (← lScope w) (← xVal x) (← laddr w x) (← xIdx x)
  | 0x033 => do
      return .vamor g (← amoOf (lFn w)) (← lScope w) (← lDv w) (← laddr w x) (← xIdx x) (← xVal x)
  | 0x038 => do return .drain g (← lScope w)
  | 0x039 => do return .waita g (← ccOf (lFn w)) (← lDs w) (← laddr w x)
  | 0x03A =>
      if bits w 38 6 = 63 ∧ bits w 13 7 = 0 then
        some (.twait g (tokOf (bits w 32 6)) (tokOf (bits w 26 6)) (tokOf (bits w 20 6)))
      else none
  | 0x03B => do return .tpoll g (← lDs w) (← tokOf (bits w 7 6))
  | 0x03C => do return .hwin g (← lDs w)
  | 0x03D =>
      if bits w 30 4 = 3 ∧ (bits w 4 3 = 2 ∨ bits w 4 3 = 4) then do
        return .icinv g (bits w 4 3 == 4) (← lDs w) (← predOf (bits w 23 7)) (off16 w)
      else none
  | 0x040 => do return .tlkp g (← lDs w) (← sreg (bits w 23 7))
  | 0x041 => do return .tins g (← lDs w) (← sreg (bits w 23 7))
  | 0x042 => do return .tinv g (← lDs w) (← sreg (bits w 23 7))
  | 0x048 => do return .copy (mcMask w x) (← engOp w)
  | 0x049 => do return .copyk (mcMask w x) (← engOp w)
  | 0x04A => do return .kreq (Fin.ofNat 128 (bits w 0 7)) (← engOp w)
  | 0x04B => (engOp w).map .coll
  | 0x04C => (engOp w).map .xsend
  | 0x04D => do return .xrecv g (← lDv w) (← mode1 w) (off16 w)
  | 0x04E => (engOp w).map .csig
  | 0x050 => do return .wsave g (lK w) (← laddr w x)
  | 0x051 => do return .wload g (lK w) (← laddr w x)
  | 0x058 => (engOp w).map .cload
  | 0x059 => cleafSyl w x
  | 0x05A => (engOp w).map .ceval
  | 0x05B => do return .cout g (bits w 0 1 == 1) (← lDv w) (← mode1 w) (off16 w)
  | 0x05C => do return .cput g (← laddr w x)
  | 0x05D =>
      some (.cpflip (bits w 0 1 == 1)
        ⟨g, tokOf (bits w 38 6), tokOf (bits w 32 6), tokOf (bits w 26 6), tokOf (bits w 20 6), .s 0⟩)
  | 0x05E => do return .crds g (bits w 0 1 == 1) (← lDv w) (← mode1 w) (off16 w)
  | _ => none

/-! ### Class K (15 R299) -/

def kX (w : Nat) : Option SReg := sreg (bits w 37 7)
def kY (w : Nat) : Option SReg := sreg (bits w 30 7)
def kZ (w : Nat) : Option SReg := sreg (bits w 23 7)
def kFn (w : Nat) : Nat := bits w 19 4
def kImm (w : Nat) : Nat := bits w 3 16

def klogSyl (w : Nat) (f : Guard → SReg → SReg → Fin 64 → Instr) : Option Instr :=
  if kImm w < 64 then do return f (guardOf w) (← kX w) (← kY w) (Fin.ofNat 64 (kImm w)) else none

def decK (w : Nat) : Option Instr :=
  let g := guardOf w
  match opc w with
  | 0x010 => if kFn w < 2 then do return .kmbox g (kFn w == 1) (← kX w) (← kY w) else none
  | 0x011 => do return .kdone g (← kX w) (← kY w)
  | 0x012 => do return .kgath g (← kY w) (← kZ w)
  | 0x013 => do return .kdedup g (← kX w) (← kY w) (← kZ w)
  | 0x014 => do return .kpool g (← kY w) (← kZ w)
  | 0x015 => if kImm w < 4 then do return .kndsc g (← kY w) (Fin.ofNat 4 (kImm w)) else none
  | 0x016 =>
    match kFn w with
    | 0 => do return .ktreeStart g (← kX w) (← kY w)
    | 1 => do return .ktreeStep g (← kX w)
    | 2 => do return .ktreeCollect g (← kX w) (← kY w)
    | _ => none
  | 0x017 => do return .kfold g (← kY w) (← kZ w)
  | 0x018 =>
    match kFn w with
    | 0 => klogSyl w .klogAppend
    | 1 => klogSyl w .klogHead
    | 2 => klogSyl w .klogSign
    | _ => none
  | 0x019 => do return .kput g (← kX w) (← kY w)
  | 0x01A => do return .kroute g (← kX w) (← kY w) (← kZ w)
  | 0x01B =>
    match kFn w with
    | 0 => do return .kheatAdd g (← kX w) (← kY w) (← kZ w)
    | 1 => do return .kheatRead g (← kX w) (← kY w)
    | 3 => some (.kheatRet g)
    | _ => none
  | _ => none

/-! ### One syllable -/

/-- The fields of an assigned syllable; none where a field holds a reserved value. -/
def parse (w : Nat) (x : Option Nat) : Option Instr :=
  match cls w with
  | 0 => decS w x
  | 1 => decV w x
  | 2 => decM w x
  | 3 => decL w x
  | 5 => decK w
  | _ => none

/-- The instruction of a syllable, with the payload of the X that extends it (04 R70 R71 R78). -/
def decodeSyl (w : Nat) (x : Option Nat) : Except DecErr Instr :=
  if cls w = 7 then .ok (.hSyllable (BitVec.ofNat 60 w))
  else if cls w = 6 then .error .reservedClass
  else if cls w = 4 then .error .extension
  else if !assigned (cls w) (opc w) then .error .unassigned
  else if needsX w && x.isNone then .error .missingX
  else match parse w x with
    | none => .error .reserved
    | some i => if i.wf then .ok i else .error .excluded

/-- The bytes of a syllable, in little-endian order (00 R1, 04 R69). -/
def sylOfBytes (bs : List Byte) : Nat := pack ((bs.take 8).map fun b => (8, b.toNat))

def bytesOfNat : Nat → Nat → List Byte
  | 0, _ => []
  | n + 1, w => BitVec.ofNat 8 w :: bytesOfNat n (w / 256)

/-- Decoding from bytes: a syllable of eight bytes, and after it the X that extends it, if one stands there and the syllable
does not end its bundle. Fewer than eight bytes are no syllable. -/
def decodeBytes (bs : List Byte) : Except DecErr Instr :=
  if bs.length < 8 then .error .reserved
  else
    let w := sylOfBytes bs
    let y := sylOfBytes (bs.drop 8)
    decodeSyl w (if 16 ≤ bs.length ∧ bits w 63 1 = 0 ∧ cls y = 4 then some (y % 2 ^ 60) else none)

/-- The instruction that the decoder reads from the bits `w`, numbered as spec/opcode_table.json numbers them: the first
syllable in bits 63..0, an X in bits 127..64; bits at and above `nbits` are 0. -/
def decodeTableWord (nbits w : Nat) : Option Instr :=
  match decodeBytes (bytesOfNat 16 (w % 2 ^ nbits)) with
  | .ok i => some i
  | .error _ => none

/-! ### The encoder (04 R70 to R78, 15 R299) -/

def Bool.code (b : Bool) : Nat := if b then 1 else 0

def SReg.code : SReg → Nat
  | .s n => n.val
  | .a n => 64 + n.val
  | .bpS => 96
  | .bpL => 97

def VReg.code : VReg → Nat
  | .v n => n.val
  | .bpV0 => 1008
  | .bpV1 => 1009
  | .bpL => 1010
  | .bpM => 1011

def FpFmt.code : FpFmt → Nat
  | .f32 => 0
  | .f64 => 1
  | .bf16 => 2

def IntFmt.code : IntFmt → Nat
  | .i32 => 3
  | .ui32 => 4
  | .i16 => 5
  | .ui16 => 6
  | .i8 => 7
  | .ui8 => 8
  | .i64 => 13

def NumFmt.code : NumFmt → Nat
  | .fp f => f.code
  | .int f => f.code

def MxFmt.code : MxFmt → Nat
  | .mxint8 => 10
  | .mxint6 => 11
  | .mxint4 => 12

def Fmt.code : Fmt → Nat
  | .num f => f.code
  | .sef => 9
  | .mx f => f.code

def Rm.code : Rm → Nat
  | .rne => 0
  | .rtz => 1
  | .rup => 2
  | .rdn => 3
  | .rsto => 4
  | .dyn => 5

def Cc.code : Cc → Nat
  | .eq => 0
  | .ne => 1
  | .lt => 2
  | .le => 3
  | .gt => 4
  | .ge => 5
  | .ltu => 6
  | .leu => 7
  | .gtu => 8
  | .geu => 9

def FCc.code : FCc → Nat
  | .eq => 0
  | .ne => 1
  | .lt => 2
  | .le => 3
  | .gt => 4
  | .ge => 5
  | .un => 6

def ICc.code : ICc → Nat
  | .eq => 0
  | .ne => 1
  | .lt => 2
  | .le => 3
  | .gt => 4
  | .ge => 5

def PlogOp.code : PlogOp → Nat
  | .and => 0
  | .or => 1
  | .xor => 2
  | .andn => 3
  | .not => 4
  | .mov => 5
  | .nand => 6
  | .nor => 7

def FcvtKind.code : FcvtKind → Nat
  | .toi => 0
  | .tou => 1
  | .fromi => 2
  | .fromu => 3
  | .tof32 => 4
  | .fromf32 => 5
  | .rint => 6

def Scope.code : Scope → Nat
  | .c => 0
  | .k => 1
  | .d => 2
  | .p => 3
  | .y => 4

def Size.code : Size → Nat
  | .b => 0
  | .h => 1
  | .w => 2
  | .d => 3
  | .sb => 4
  | .sh => 5
  | .sw => 6

def GathSize.code : GathSize → Nat
  | .b => 0
  | .h => 1
  | .w => 2
  | .sb => 4
  | .sh => 5

def AmoOp.code : AmoOp → Nat
  | .add => 0
  | .and => 1
  | .or => 2
  | .xor => 3
  | .min => 4
  | .max => 5
  | .minu => 6
  | .maxu => 7
  | .swap => 8

def NarrowFmt.code : NarrowFmt → Nat
  | .bf16 => 2
  | .i16 => 5
  | .ui16 => 6
  | .i8 => 7
  | .ui8 => 8

def RedOp.code : RedOp → Nat
  | .sum => 0
  | .max => 1
  | .min => 2
  | .and => 3
  | .or => 4
  | .xor => 5

def MFmt.code : MFmt → Nat
  | .mx8 => 0
  | .mx6 => 1
  | .mx4 => 2
  | .mx8x4 => 3
  | .mx4x8 => 4
  | .bf16 => 5

def WShape.code : WShape → Nat
  | .elem => 0
  | .row => 1
  | .col => 2

def AdjOp.code : AdjOp → Nat
  | .max => 1
  | .min => 2
  | .clamp => 3
  | .med => 4
  | .sat => 5

def XcvtKind.code : XcvtKind → Nat
  | .f32ToSef => 0
  | .bf16ToSef => 1
  | .sefToF32 => 2
  | .sefToBf16 => 3

/-- A token position: 63 names none. -/
def tokCode : Option (Fin 63) → Nat
  | some t => t.val
  | none => 63

/-- A syllable of class `c`: the body fields (44 bits, least significant first) under the header of 04 R70, stop 0. -/
def syl (c op : Nat) (g : Guard) (body : List (Nat × Nat)) : Nat :=
  pack (body ++ [(1, Bool.code g.sense), (6, g.pred.val), (9, op), (3, c), (1, 0)])

/-- The immediate stands in imm16, or in an X where 16 bits do not hold it (04 R92). -/
def fits16 (v : Word32) : Bool := (v.extractLsb' 0 16).signExtend 32 == v

/-- Register or immediate form of class S (04 R72). -/
def encSB (op : Nat) (g : Guard) (d a fn : Nat) (b : SrcB) : Option (Nat × Option Nat) :=
  match b with
  | .reg r => some (syl 0 op g [(18, 0), (4, fn), (7, r.code), (7, a), (7, d), (1, 0)], none)
  | .imm v =>
    if fits16 v then some (syl 0 op g [(9, 0), (4, fn), (16, v.toNat % 2 ^ 16), (7, a), (7, d), (1, 1)], none)
    else some (syl 0 op g [(9, 0), (4, fn), (16, 0), (7, a), (7, d), (1, 1)], some v.toNat)

/-- A register in field a, or an immediate. -/
def encSA (op : Nat) (g : Guard) (d fn : Nat) (b : SrcB) : Option (Nat × Option Nat) :=
  match b with
  | .reg r => some (syl 0 op g [(18, 0), (4, fn), (7, 0), (7, r.code), (7, d), (1, 0)], none)
  | .imm _ => encSB op g d 0 fn b

def encS (op : Nat) (o : SOp) (fn : Nat := 0) : Option (Nat × Option Nat) := encSB op o.g o.d.code o.a.code fn o.b

/-- Register form with fields d, a, b and fn. -/
def encSR (op : Nat) (g : Guard) (d a b fn : Nat) : Option (Nat × Option Nat) :=
  some (syl 0 op g [(18, 0), (4, fn), (7, b), (7, a), (7, d), (1, 0)], none)

def encSU (op : Nat) (o : SUn) : Option (Nat × Option Nat) := encSR op o.g o.d.code o.a.code 0 0

def encSF (op : Nat) (o : SFp) : Option (Nat × Option Nat) := encSR op o.g o.d.code o.a.code o.b.code o.rm.code

/-- Immediate form without an X: fields d, a, imm16 and fn. -/
def encSI (op : Nat) (g : Guard) (d a imm fn : Nat) : Option (Nat × Option Nat) :=
  some (syl 0 op g [(9, 0), (4, fn), (16, imm), (7, a), (7, d), (1, 1)], none)

def encBr (op : Nat) (g : Guard) (off : BitVec 24) : Option (Nat × Option Nat) :=
  some (syl 0 op g [(20, 0), (24, off.toNat)], none)

def encLoop (o : LoopOp) : Option (Nat × Option Nat) :=
  let low := [(12, 0), (5, o.drain.val), (1, Bool.code o.rot), (6, o.body.val)]
  match o.count with
  | .imm n => some (syl 0 0x064 o.g (low ++ [(16, n.toNat), (1, 0), (3, o.level.val)]), none)
  | .sreg n => some (syl 0 0x064 o.g (low ++ [(7, n.val), (9, 0), (1, 1), (3, o.level.val)]), none)
  | .areg n => some (syl 0 0x064 o.g (low ++ [(7, 64 + n.val), (9, 0), (1, 1), (3, o.level.val)]), none)

/-- The V form (04 R74). -/
def encV (op : Nat) (g : Guard) (d a b fmt rm fn mod : Nat) (x : Option Nat := none) : Option (Nat × Option Nat) :=
  some (syl 1 op g [(4, mod), (3, fn), (3, rm), (4, fmt), (10, b), (10, a), (10, d)], x)

def encVFp (op : Nat) (o : VFp) (x : Option Nat := none) : Option (Nat × Option Nat) :=
  encV op o.g o.d.code o.a.code o.b.code o.fmt.code o.rm.code 0 0 x

def encVFma (op : Nat) (o : VFma) : Option (Nat × Option Nat) := encVFp op o.o (o.c.map VReg.code)

def encVFpUn (op : Nat) (o : VFpUn) : Option (Nat × Option Nat) :=
  encV op o.g o.d.code o.a.code 0 o.fmt.code o.rm.code 0 0

def encVFpBin (op : Nat) (o : VFpBin) : Option (Nat × Option Nat) :=
  encV op o.g o.d.code o.a.code o.b.code o.fmt.code 0 0 0

def encVFpOne (op : Nat) (o : VFpOne) : Option (Nat × Option Nat) :=
  encV op o.g o.d.code o.a.code 0 o.fmt.code 0 0 0

def encVInt (op : Nat) (o : VInt) (mod : Nat := 0) : Option (Nat × Option Nat) :=
  encV op o.g o.d.code o.a.code o.b.code o.fmt.code 0 0 mod

def encVIntUn (op : Nat) (o : VIntUn) : Option (Nat × Option Nat) :=
  encV op o.g o.d.code o.a.code 0 o.fmt.code 0 0 0

def encVIdx (op : Nat) (o : VIdx) : Option (Nat × Option Nat) :=
  encV op o.g o.d.code o.a.code o.n.val o.fmt.code 0 0 0

def encVRed (op : Nat) (o : VRed) : Option (Nat × Option Nat) :=
  encV op o.g o.d.code o.a.code 0 o.fmt.code o.rm.code o.op.code (Bool.code o.sat)

def encVQ (op : Nat) (o : VQ) (rm : Nat) : Option (Nat × Option Nat) :=
  encV op o.g o.d.code o.a.code o.e.val o.mx.code rm (Bool.code o.bf16) o.grp.val

def encWProd (op : Nat) (o : WProd) : Option (Nat × Option Nat) :=
  encV op o.g o.d.code o.a.code o.n.val o.fmt.code 0 o.shape.code o.k.val

/-- Source kind, spec field and X nibble of a matrix operand (04 R75 R78). -/
def MSrc.enc : MSrc → Nat × Nat × Nat
  | .vec v => (0, v.code, 0)
  | .ls a => (1, 64 + a.val, 0)
  | .remote a c => (2, 64 + a.val, c.val)

def MSrc.isRemote : MSrc → Bool
  | .remote .. => true
  | _ => false

def encMStep (op : Nat) (o : MStepOp) (sb : Nat) (x : Option Nat) : Option (Nat × Option Nat) :=
  some (syl 2 op o.g [(4, 0), (1, Bool.code o.ovw), (1, sb), (3, o.eB.val), (3, o.eA.val), (4, o.fmt.code),
    (10, o.b.enc.2.1), (3, o.b.enc.1), (10, o.a.enc.2.1), (3, o.a.enc.1), (2, o.acc.val)], x)

/-- The X payload of a step: core nibbles, and vsel for MSTEPS. -/
def mX (o : MStepOp) (vsel : Nat) : Nat := pack [(4, o.a.enc.2.2), (4, o.b.enc.2.2), (10, vsel)]

/-- The M form of an accumulator move (10 R224). -/
def encMMove (op : Nat) (g : Guard) (acc : Fin 4) (vd : Nat) (row : MRow) (q e rm : Nat) : Option (Nat × Option Nat) :=
  let (kind, r) := match row with
    | .imm n => (0, n.val)
    | .areg a => (1, 64 + a.val)
  some (syl 2 op g [(6, 0), (3, rm), (3, e), (4, q), (10, r), (3, kind), (10, vd), (3, 0), (2, acc.val)], none)

/-- Mode, base, off16 and X of an address (04 R76). -/
def Addr.enc : Addr → Nat × Nat × Nat × Option Nat
  | .lsA a o => (0, 64 + a.val, o.toNat, none)
  | .lsS s o => (1, s.val, o.toNat, none)
  | .lsAS a s => (2, 64 + a.val, 0, some s.val)
  | .ltt s o => (3, s.val, o.toNat, none)
  | .handle h o => (4, h.val, o.toNat, none)
  | .remote a o c => (5, 64 + a.val, o.toNat, some c.val)

/-- The data form with an address (04 R76); the data field is ten bits. -/
def encL (op : Nat) (g : Guard) (data : Nat) (a : Addr) (scope fn : Nat) (x : Option Nat := none) :
    Option (Nat × Option Nat) :=
  some (syl 3 op g [(4, fn), (3, scope), (16, a.enc.2.2.1), (7, a.enc.2.1), (4, a.enc.1), (10, data)],
    match x with
    | none => a.enc.2.2.2
    | some p => some p)

/-- The data form with its fields given one by one. -/
def encLF (op : Nat) (g : Guard) (data mode base off scope fn : Nat) : Option (Nat × Option Nat) :=
  some (syl 3 op g [(4, fn), (3, scope), (16, off), (7, base), (4, mode), (10, data)], none)

def encLS (op : Nat) (o : LScalar) (scope : Nat := 0) : Option (Nat × Option Nat) :=
  encL op o.g (8 * o.d.code) o.addr scope o.sz.code

def encLV (op : Nat) (o : LVec) (scope fn : Nat := 0) (x : Option Nat := none) : Option (Nat × Option Nat) :=
  encL op o.g o.d.code o.addr scope fn x

/-- The engine form (04 R77). -/
def encEng (op : Nat) (o : EngOp) (fn : Nat) (x : Option Nat := none) : Option (Nat × Option Nat) :=
  some (syl 3 op o.g [(13, fn), (7, o.cblk.code), (6, tokCode o.cons2), (6, tokCode o.cons1), (6, tokCode o.cons0),
    (6, tokCode o.prod)], x)

def encCopy (op : Nat) (mask : Option (BitVec 16)) (o : EngOp) : Option (Nat × Option Nat) :=
  match mask with
  | none => encEng op o 0
  | some m => encEng op o 1 (some m.toNat)

/-- The K form (15 R299). -/
def encK (op : Nat) (g : Guard) (x y z fn imm : Nat) : Option (Nat × Option Nat) :=
  some (syl 5 op g [(3, 0), (16, imm), (4, fn), (7, z), (7, y), (7, x)], none)

/-- The words of an instruction: its syllable, stop 0, and the payload of its X. An event has none. -/
def encode : Instr → Option (Nat × Option Nat)
  | .nop g => encSR 0x000 g 0 0 0 0
  | .hSyllable p => some (pack [(60, p.toNat), (3, 7), (1, 0)], none)
  | .add o => encS 0x010 o
  | .sub o => encS 0x011 o
  | .mul o => encS 0x012 o
  | .mulh u o => encS 0x013 o (Bool.code u)
  | .div u o => encS 0x014 o (Bool.code u)
  | .rem u o => encS 0x015 o (Bool.code u)
  | .and o => encS 0x016 o
  | .or o => encS 0x017 o
  | .xor o => encS 0x018 o
  | .andn o => encS 0x019 o
  | .shl o => encS 0x01A o
  | .shr o => encS 0x01B o
  | .sar o => encS 0x01C o
  | .rotl o => encS 0x01D o
  | .min u o => encS 0x01E o (Bool.code u)
  | .max u o => encS 0x01F o (Bool.code u)
  | .clz o => encSU 0x020 o
  | .ctz o => encSU 0x021 o
  | .popc o => encSU 0x022 o
  | .sel o => encS 0x023 o
  | .mov g d b => encSA 0x024 g d.code 0 b
  | .movhi o => encS 0x025 o
  | .extr s o => encS 0x026 o (Bool.code s)
  | .insr o => encS 0x027 o
  | .cmp g pd cc a b => encSB 0x030 g pd.val a.code cc.code b
  | .plog g op pd pa pb => encSR 0x031 g pd.val pa.val pb.val op.code
  | .pcnt g d pa => encSR 0x032 g d.code pa.val 0 0
  | .pset g pd b => encSA 0x033 g pd.val 0 b
  | .pget g d pa => encSR 0x034 g d.code pa.val 0 0
  | .pfirst g d pa => encSR 0x035 g d.code pa.val 0 0
  | .fadd o => encSF 0x040 o
  | .fsub o => encSF 0x041 o
  | .fmul o => encSF 0x042 o
  | .fma o => encSF 0x043 o
  | .fdiv o => encSF 0x044 o
  | .fsqrt g d a rm => encSR 0x045 g d.code a.code 0 rm.code
  | .fcmp g pd cc a b => encSR 0x046 g pd.val a.code b.code cc.code
  | .fcvt g k rm d a => encSR 0x047 g d.code a.code rm.code k.code
  | .fmin g d a b => encSR 0x048 g d.code a.code b.code 0
  | .fmax g d a b => encSR 0x049 g d.code a.code b.code 0
  | .movx g d n => encSI 0x050 g d.code 0 n.val 0
  | .movs g n a => encSI 0x051 g 0 a.code n.val 0
  | .strb g an b => encSA 0x058 g (64 + an.val) 0 b
  | .strs g an k b => encSA 0x059 g (64 + an.val) k.val b
  | .strz g an => encSR 0x05A g (64 + an.val) 0 0 0
  | .br g off => encBr 0x060 g off
  | .bri g a => encSR 0x061 g 0 a.code 0 0
  | .call g off => encBr 0x062 g off
  | .ret g a => encSR 0x063 g 0 a.code 0 0
  | .loop o => encLoop o
  | .lexit g k => encSR 0x065 g 0 0 0 k.val
  | .rotx g off => encSR 0x066 g 0 0 0 (Bool.code off)
  | .endStrand g => encSR 0x067 g 0 0 0 0
  | .bar g die n => encSI 0x070 g 0 0 n.val (1 + Bool.code die)
  | .tkaln g d w => encSI 0x071 g d.code 0 w.toNat 0
  | .etrig g => encSR 0x072 g 0 0 0 0
  | .trap g n => encSI 0x073 g 0 0 n.toNat 0
  | .chnk g d => encSR 0x074 g d.val 0 0 0
  | .rfrun g a => encSR 0x078 g 0 a.code 0 0
  | .rfret g => encSR 0x079 g 0 0 0 0
  | .rfnorm g a => encSR 0x07A g 0 a.code 0 0
  | .lds o => encLS 0x010 o
  | .sts o => encLS 0x011 o
  | .ldv o => encLV 0x012 o
  | .stv o => encLV 0x013 o
  | .ldt o => encLV 0x014 o
  | .stt o => encLV 0x015 o
  | .ldvx f o => encLV 0x016 o 0 f.code
  | .stvx f rm o => encLV 0x017 o rm.code f.code
  | .ldrv o => encLV 0x018 o
  | .strv o => encLV 0x019 o
  | .ldg o => encLS 0x020 o
  | .stg sc o => encLS 0x021 o sc.code
  | .ldgv o => encLV 0x022 o
  | .stgv sc o => encLV 0x023 o sc.code
  | .gath sz x o => encLV 0x024 o 0 sz.code (some x.code)
  | .scat sz sc x o => encLV 0x025 o sc.code sz.code (some x.code)
  | .xlt g h a buf => encLF 0x028 g h.val 0 a.code buf.val 0 0
  | .lttq g d e w => encLF 0x029 g (8 * d.code) 0 0 (e.val + 64 * Bool.code w) 0 0
  | .scl g e a => encL 0x02C g e.val a 0 0
  | .scs g e a => encL 0x02D g e.val a 0 0
  | .amo g op sc d a b => encL 0x030 g (8 * d.code) a sc.code op.code (some b.code)
  | .cas g sc d a b => encL 0x031 g (8 * d.code) a sc.code 0 (some b.code)
  | .vamo g op sc c a x => encL 0x032 g 0 a sc.code op.code (some (x.code + 1024 * c.code))
  | .vamor g op sc d a x c => encL 0x033 g d.code a sc.code op.code (some (x.code + 1024 * c.code))
  | .drain g sc => encLF 0x038 g 0 0 0 0 sc.code 0
  | .waita g cc d a => encL 0x039 g (8 * d.code) a 0 cc.code
  | .twait g c0 c1 c2 => encEng 0x03A ⟨g, none, c0, c1, c2, .s 0⟩ 0
  | .tpoll g d t => encLF 0x03B g (8 * d.code) 0 0 t.val 0 0
  | .hwin g d => encLF 0x03C g (8 * d.code) 0 0 0 0 0
  | .icinv g co d b off => encLF 0x03D g (8 * d.code) 3 b.val off.toNat (if co then 4 else 2) 0
  | .tlkp g d k => encLF 0x040 g (8 * d.code) 0 k.code 0 0 0
  | .tins g d k => encLF 0x041 g (8 * d.code) 0 k.code 0 0 0
  | .tinv g d k => encLF 0x042 g (8 * d.code) 0 k.code 0 0 0
  | .copy m o => encCopy 0x048 m o
  | .copyk m o => encCopy 0x049 m o
  | .kreq k o => encEng 0x04A o k.val
  | .coll o => encEng 0x04B o 0
  | .xsend o => encEng 0x04C o 0
  | .xrecv g d b off => encLF 0x04D g d.code 1 b.val off.toNat 0 0
  | .csig o => encEng 0x04E o 0
  | .wsave g k a => encL 0x050 g k.val a 0 0
  | .wload g k a => encL 0x051 g k.val a 0 0
  | .cload o => encEng 0x058 o 0
  | .cleaf g src =>
    match src with
    | .f32 vs b off => encLF 0x059 g vs.code 1 b.val off.toNat 0 0
    | .sef vs b off => encLF 0x059 g vs.code 1 b.val off.toNat 0 1
    | .lf32 l a => encL 0x059 g (8 * l.code) a 0 2
    | .lsef l a => encL 0x059 g (8 * l.code) a 0 3
  | .ceval o => encEng 0x05A o 0
  | .cout g f d b off => encLF 0x05B g d.code 1 b.val off.toNat 0 (Bool.code f)
  | .cput g a => encL 0x05C g 0 a 0 0
  | .cpflip s o => encEng 0x05D o (Bool.code s)
  | .crds g f d b off => encLF 0x05E g d.code 1 b.val off.toNat 0 (Bool.code f)
  | .vadd o => encVFp 0x010 o
  | .vsub o => encVFp 0x011 o
  | .vmul o => encVFp 0x012 o
  | .vfma o => encVFma 0x013 o
  | .vfms o => encVFma 0x014 o
  | .vfnma o => encVFma 0x015 o
  | .vmin o => encVFpBin 0x016 o
  | .vmax o => encVFpBin 0x017 o
  | .vabs o => encVFpOne 0x018 o
  | .vneg o => encVFpOne 0x019 o
  | .vcps o => encVFpBin 0x01A o
  | .vrcp o => encVFpUn 0x01B o
  | .vsqrt o => encVFpUn 0x01C o
  | .vrsq o => encVFpUn 0x01D o
  | .vexp2 o => encVFpUn 0x01E o
  | .vlog2 o => encVFpUn 0x01F o
  | .vcmp g pd cc f a b => encV 0x020 g pd.val a.code b.code f.code 0 cc.code 0
  | .vclass o => encVFpOne 0x021 o
  | .viadd s o => encVInt 0x028 o (Bool.code s)
  | .visub s o => encVInt 0x029 o (Bool.code s)
  | .vimul o => encVInt 0x02A o
  | .vimulh o => encVInt 0x02B o
  | .vand o => encVInt 0x02C o
  | .vor o => encVInt 0x02D o
  | .vxor o => encVInt 0x02E o
  | .vshl o => encVInt 0x02F o
  | .vshr o => encVInt 0x030 o
  | .vsar o => encVInt 0x031 o
  | .vimin o => encVInt 0x032 o
  | .vimax o => encVInt 0x033 o
  | .vpopc o => encVIntUn 0x034 o
  | .vclz o => encVIntUn 0x035 o
  | .vicmp g pd cc f a b => encV 0x036 g pd.val a.code b.code f.code 0 cc.code 0
  | .vcvt g s d rm vd va => encV 0x038 g vd.code va.code 0 d.code rm.code 0 s.code
  | .vqnt rm o => encVQ 0x039 o rm.code
  | .vdqnt o => encVQ 0x03A o 0
  | .vexpx o => encVFpOne 0x03B o
  | .vldx o => encVFp 0x03C o
  | .vmant o => encVFpOne 0x03D o
  | .vxmul g d a b => encV 0x040 g d.code a.code b.code 9 0 0 0
  | .vxadd g d a b => encV 0x041 g d.code a.code b.code 9 0 0 0
  | .vxmax g d a b => encV 0x042 g d.code a.code b.code 9 0 0 0
  | .vxnorm g d a => encV 0x043 g d.code a.code 0 9 0 0 0
  | .vxcvt g k rm d a => encV 0x044 g d.code a.code 0 0 rm.code k.code 0
  | .vmov g f d a => encV 0x048 g d.code a.code 0 f.code 0 0 0
  | .vsel g p d a b => encV 0x049 g d.code a.code b.code 0 0 0 (Bool.code p)
  | .vsplat g d v => encV 0x04A g d.code 0 0 0 0 0 0 (some v.toNat)
  | .vext g p d a b n => encV 0x04B g d.code a.code b.code 0 0 0 (Bool.code p) (some n.val)
  | .viota g p d v =>
    encV 0x04C g d.code 0 0 0 0 0 (Bool.code p) (if v = 0 then none else some v.toNat)
  | .vrotr o => encVIdx 0x050 o
  | .vbcr o => encVIdx 0x051 o
  | .vredr o => encVRed 0x052 o
  | .vscanr o => encVRed 0x053 o
  | .vperm g f d a b => encV 0x054 g d.code a.code b.code f.code 0 0 0
  | .vcmpr g f d a pm => encV 0x055 g d.code a.code pm.val f.code 0 0 0
  | .vexpd g f d a pm => encV 0x056 g d.code a.code pm.val f.code 0 0 0
  | .vrotc g f d a n => encV 0x058 g d.code a.code n.val f.code 0 0 0
  | .vbcc g f d a n => encV 0x059 g d.code a.code n.val f.code 0 0 0
  | .vredc o => encVRed 0x05A o
  | .vscanc o => encVRed 0x05B o
  | .vrngSet g a => encV 0x060 g 0 a.code 0 0 0 0 0
  | .vrngGen g f adv w d =>
    encV 0x060 g d.code 0 0 (if f then 0 else 4) 0 1 (w.val + 8 * Bool.code adv)
  | .vrngGet g d => encV 0x060 g d.code 0 0 0 0 2 0
  | .vmaxw o => encWProd 0x068 o
  | .vminw o => encWProd 0x069 o
  | .vclmpw g d a b k f => encV 0x06A g d.code a.code b.code f.code 0 0 k.val
  | .vmedw g d a n k f => encV 0x06B g d.code a.code n.val f.code 0 0 k.val
  | .vsatw g d a col k f => encV 0x06C g d.code a.code 0 f.code 0 (1 + Bool.code col) k.val
  | .vadj o =>
    encV 0x06D o.g o.d.code o.a.code (o.n.val + 16 * o.shape.code) o.fmt.code 0 o.op.code (o.k.val + 8 * Bool.code o.free)
  | .wmov g h d k => encV 0x06E g d.code 0 0 0 0 (Bool.code h) k.val
  | .wclr g k => encV 0x06F g 0 0 0 0 0 0 k.val
  | .mstep o =>
    encMStep 0x010 o 0 (if o.a.isRemote || o.b.isRemote then some (mX o 0) else none)
  | .msteps sb o vs => encMStep 0x011 o (Bool.code sb) (some (mX o vs.code))
  | .mzero g acc => encMMove 0x012 g acc 0 (.imm 0) 0 0 0
  | .mrd g d acc row => encMMove 0x013 g acc d.code row 0 0 0
  | .mwr g acc row a => encMMove 0x014 g acc a.code row 0 0 0
  | .mrdq g mx rm d acc row e => encMMove 0x015 g acc d.code row (Bool.code mx) e.val rm.code
  | .kmbox g p x y => encK 0x010 g x.code y.code 0 (Bool.code p) 0
  | .kdone g x y => encK 0x011 g x.code y.code 0 0 0
  | .kgath g y z => encK 0x012 g 0 y.code z.code 0 0
  | .kdedup g x y z => encK 0x013 g x.code y.code z.code 0 0
  | .kpool g y z => encK 0x014 g 0 y.code z.code 0 0
  | .kndsc g y n => encK 0x015 g 0 y.code 0 0 n.val
  | .ktreeStart g x y => encK 0x016 g x.code y.code 0 0 0
  | .ktreeStep g x => encK 0x016 g x.code 0 0 1 0
  | .ktreeCollect g x y => encK 0x016 g x.code y.code 0 2 0
  | .kfold g y z => encK 0x017 g 0 y.code z.code 0 0
  | .klogAppend g x y l => encK 0x018 g x.code y.code 0 0 l.val
  | .klogHead g x y l => encK 0x018 g x.code y.code 0 1 l.val
  | .klogSign g x y l => encK 0x018 g x.code y.code 0 2 l.val
  | .kput g x y => encK 0x019 g x.code y.code 0 0 0
  | .kroute g x y z => encK 0x01A g x.code y.code z.code 0 0
  | .kheatAdd g x y z => encK 0x01B g x.code y.code z.code 0 0
  | .kheatRead g x y => encK 0x01B g x.code y.code 0 1 0
  | .kheatRet g => encK 0x01B g 0 0 0 3 0
  | .loopBackEdge | .drainComplete .. | .waitaWake .. | .engineCommandStart .. | .copyComplete .. | .kreqMessageArrive ..
  | .collectiveComplete .. | .collectiveAbort .. | .csigComplete .. | .payloadLand .. | .cloadComplete ..
  | .circuitCommandRun .. | .cevalPassComplete .. | .circuitPageArrive .. | .treeNodeArrive .. | .heatTrapEntry ..
  | .kioskFault .. | .resultLand .. | .interlockedValueArrive .. | .icacheFill .. | .elasticLsGrant ..
  | .starvationGuardHold .. | .barrierPass .. | .barrierWatchdog .. | .pointReached .. | .packageReached ..
  | .strandStart .. | .earlyTrigger .. | .gridRetire .. | .gridFault .. | .doorbell .. | .queueReset .. | .packetFetch ..
  | .noopLaunch .. | .kernelLaunch .. | .kioskStart .. | .agingRaise .. | .preempt .. | .preemptRegister ..
  | .sliceExpiry .. | .gridResume .. | .twpop .. | .twdone .. | .lttpatch .. | .atdataWrite .. | .sealRequest ..
  | .auditLogRequest .. | .contextCreate .. | .contextDestroy .. | .attestationRequest .. | .errorCountRead
  | .interruptMaskWrite .. | .registerWrite .. | .hostWrite .. | .codeObjectLoad .. | .codeObjectUnload ..
  | .flitRetransmit .. | .portRetrain .. | .unitFailure .. | .spareRowReplace .. | .standbyTakeover .. | .deviceReset
  | .throttleSet .. | .thermalStop .. | .dieCooled .. | .hostLinkRetrain .. | .partitionChange .. => none

end Sys2Proof
end

