-- ==== Sys2Proof/Config.lean ====
section
/-! DEFINITION. What an implementation fixes, and the free values: constants with no body, of which no proof can see the
value (DESIGN CHOICE, assumption log 6). -/
namespace Sys2Proof

/-- The number from which the security block makes the identity's private scalar, for a secret: a fixed procedure that is not given
(27 R383). -/
opaque Config.identityKey : BitVec 256 → Nat

/-- The device certificate that Ronxel signs at manufacture, for the device with a secret (27 R383): no contents given. -/
opaque Config.certificate : BitVec 256 → List Byte

/-- Whether a copy element reads the new value of a byte that an earlier element of the same command wrote (08 R190). -/
opaque Config.copyReadsNew : Nat → Bool

/-- The value that VDQNT gives the one element that lies beyond the range of F32 and BF16, −2^128, for a BF16 destination or an
F32 one (05 R115 says that both formats represent every element). -/
opaque Config.mxBeyond : Bool → Word32

/-- Whether a port that trains comes to send again, at draw n (26 R374). -/
opaque Config.retrains : Nat → Bool

/-- The bytes that an unfinished access of another unit leaves open, at draw n. -/
opaque Config.freeByte : Nat → Byte

end Sys2Proof
end

