-- ==== Sys2Proof/Machine/State.lean ====
section
/-! DEFINITION. The state of the package as plain data (01, 02 R20, 03 R47 R53, 06, 10 R220, 11, 12, 14, 15, 23 to 27), and
the state right after reset. -/
namespace Sys2Proof.Machine

/-! ### Memory -/

/-- Bytes by address: addresses strictly rising, no entry equal to what an unlisted address reads as. -/
abbrev Memory := List Host.Cell

/-- What an unlisted byte reads as (LS and KS: 02 R21, 16 R317; global memory: DESIGN CHOICE, assumption log 2). -/
def Memory.blank : Byte := 0#8

/-! ### One context -/

/-- What executes: a compute core, a kiosk core, the management core or its standby (01 R14). -/
inductive CoreKind where
  | compute | kiosk | management | standby
  deriving DecidableEq, Repr

/-- Whether a context holds a running strand (02 R36 R39, 15 R298). -/
inductive Run where
  | idle | running | ended | stopped
  deriving DecidableEq, Repr

/-- State of a dependence token (06 R143). -/
inductive Tok where
  | idle | pending | done
  deriving DecidableEq, Repr

/-- State of a landing slot (06 R142). -/
inductive SlotState where
  | empty | full | read
  deriving DecidableEq, Repr

/-- A translation handle (06 R139, 25 R358). -/
structure Handle where
  va   : Nat
  pa   : Nat
  size : Nat
  r    : Bool
  w    : Bool
  at_  : Bool
  x    : Bool
  buf  : Fin 64
  deriving DecidableEq, Repr

/-- 64 rows of 64 cells. -/
abbrev Cells := Vector (Vector Word32 64) 64

/-- An accumulator: the cells and hidden state as issue order leaves them, and the cells as they have landed
(10 R220 R223). -/
structure Acc where
  cells  : Cells
  part   : Cells
  kcount : Nat
  tag    : Option MFmt
  seen   : Cells
  deriving DecidableEq, Repr

/-- A witness register (12 R248 R249). -/
structure Wit where
  e    : Vector (Vector Byte 64) 16
  op   : BitVec 4
  axis : BitVec 2
  cnt  : BitVec 7
  ctx  : BitVec 8
  live : Bool
  gen  : BitVec 16
  deriving DecidableEq, Repr

/-- One effect of a result when it lands (03 R58). Register numbers are physical (03 R60). -/
inductive RegWrite where
  | sreg (n : Fin 64) (v : Word64)
  | aBase (n : Fin 16) (v : Word64)
  | aStride (n : Fin 16) (k : Fin 6) (v : Word64)
  | aZero (n : Fin 16)
  | pred (n : Fin 64) (lanes v : Mask)
  | vec (n : Fin 640) (lanes : Mask) (v : Vec)
  | acc (n : Fin 4) (cells : Cells)
  | scale (n : Fin 8) (entries : Mask) (codes : Vector Byte 64)
  | witness (n : Fin 8) (w : Wit)
  | witFree (n : Fin 8)
  | witLoad (n : Fin 8) (w : Wit)
  | special (n : Fin 512) (v : Word64)
  | rotate (p32 : Bool)
  | stoch (tid : Word32) (base : Word64) (draw : Word32)
  | tag (slot : Fin 512) (valid : Bool) (tag : BitVec 48)
  | norm (v : Word64)
  deriving DecidableEq, Repr

/-- The bypass on which a result appears in its landing tick (03 R63). -/
inductive BpVal where
  | s (v : Word64)
  | l (v : Word64)
  | v0 (v : Vec)
  | v1 (v : Vec)
  | lv (v : Vec)
  | m (v : Vec)
  deriving DecidableEq, Repr

/-- An exposed result in flight: it lands after `rem` more non-frozen ticks (03 R58, 02 R42). `compat` marks a profile-A
load that also counts compatibility-freeze ticks (03 R68). `accOf` orders results of one accumulator (10 R223). -/
structure Result where
  rem    : Nat
  writes : List RegWrite
  bp     : Option BpVal
  events : BitVec 9
  addr   : Word64
  pos    : Fin 8
  born   : Nat
  compat : Bool
  accOf  : Option (Fin 4)
  deriving DecidableEq, Repr

/-- The bypass values of the current tick (03 R63). -/
structure Bypass where
  s  : Option Word64
  l  : Option Word64
  v0 : Option Vec
  v1 : Option Vec
  lv : Option Vec
  m  : Option Vec
  deriving DecidableEq, Repr

/-- A scalar destination: register or stream base (07 R147). -/
inductive SDst where
  | s (n : Fin 64)
  | a (n : Fin 16)
  | none
  deriving DecidableEq, Repr

/-- The word operation of a global atomic (08 R180). -/
inductive AtomicOp where
  | amo (op : AmoOp) (v : Word64)
  | cas (cmp new : Word64)
  deriving DecidableEq, Repr

/-- An interlocked operation whose value has not arrived (03 R61, 02 R42). The data of an XRECV arrives after `left` more
ticks (14 R291). -/
inductive OutOp where
  | ldg (d : SDst) (pa : Nat) (sz : Size) (buf : Fin 64)
  | ldgv (d : Option (Fin 640)) (pa : Nat) (buf : Fin 64)
  | gath (d : Option (Fin 640)) (pas : List (Nat × Fin 64)) (sz : GathSize)
  | xlt (h : Fin 8) (va : Word64) (buf : Fin 64)
  | atomic (d : SDst) (op : AtomicOp) (pa : Nat) (buf : Fin 64)
  | vamor (d : Option (Fin 640)) (op : AmoOp) (pas : List (Nat × Fin 64)) (c : Vec)
  | chnk (d : Fin 64)
  | land (d : Option (Fin 640)) (v : Vec) (left : Nat)
  deriving DecidableEq, Repr

/-- `seq` is its place among the requests of the package; `data` holds what it read once it has performed (13 R272). -/
structure Outst where
  op   : OutOp
  addr : Word64
  pos  : Fin 8
  seq  : Nat
  data : Option (List Byte)
  deriving DecidableEq, Repr

/-- What follows the drain of a DRAIN, BAR, ETRIG or ICINV (08 R182 R186, 07 R164 R165). -/
inductive DrainNext where
  | none
  | bar (die : Bool) (n : Fin 16)
  | etrig
  | icinv (cohort : Bool) (lo len : Word64)
  deriving DecidableEq, Repr

/-- Commands of the engine queue (08 R188). -/
inductive EngKind where
  | copy | copyk | kreq (k : Fin 128) | coll | csig | xsend
  deriving DecidableEq, Repr

/-- How far a copy has come: its number among the package's commands, the elements moved, those read and not yet written
with their destinations and the contexts that still lack them, what the bytes it has overwritten held, the bytes of a COPYK,
and whether its record stands (08 R190 R191). -/
structure CopyProg where
  id    : Nat
  at_   : Nat
  got   : List (Nat × List Byte)
  left  : List Nat
  old   : Tab Byte
  moved : List Byte
  rec_  : Bool
  deriving DecidableEq, Repr

def CopyProg.start (id : Nat) : CopyProg := ⟨id, 0, [], [], [], [], false⟩

/-- `strand` is the strand that issued it, whose tokens it names (06 R143). -/
structure EngCmd where
  kind : EngKind
  strand : Nat
  blk  : List Word64
  off  : Nat
  prod : Option (Fin 63)
  cons : List (Fin 63)
  mask : Option (BitVec 16)
  addr : Word64
  pos  : Fin 8
  prog : CopyProg
  deriving DecidableEq, Repr

/-- Commands of the circuit queue (11 R229 R242 to R245). -/
inductive CircKind where
  | cload (global : Bool) (buf : Fin 64) (src : Word64)
  | cleaf (idx : Word64) (lanes : Vector (BitVec 48) 64)
  | ceval (mask : Mask) (cw : Option (Fin 16 × Nat × Word64))
  | read (out f32 : Bool) (idx : Word64) (d d2 : Option (Fin 640))
  | cput (entries : List Word64)
  | cpflip (sync : Bool)
  deriving DecidableEq, Repr

/-- `wait` counts the ticks until the command is in the queue (11 R229). -/
structure CircCmd where
  kind : CircKind
  key  : Nat
  strand : Nat
  wait : Nat
  prod : Option (Fin 63)
  cons : List (Fin 63)
  addr : Word64
  pos  : Fin 8
  deriving DecidableEq, Repr

/-- Why a context is frozen, or waits at its place in a bundle, after a syllable (02 R28) (DESIGN CHOICE, assumption log 28).
`start` waits for grid start, `resume` for the release of a resumption (14 R284), and `lsWait` for the LS accesses before a BAR (07 R164). -/
inductive Hold where
  | start
  | lsWait (die : Bool) (n : Fin 16)
  | waita (cc : Cc) (addr : Nat) (v : Word64)
  | bar (die : Bool) (n : Fin 16)
  | tkaln (d : SReg)
  | twait (toks : List (Fin 63))
  | xrecv (d : Option (Fin 640)) (slot : Fin 64)
  | xsend (c : EngCmd)
  | drain (sc : Scope) (next : DrainNext)
  | atomic
  | chnk
  | circuit (left : Option Nat)
  | engFull (c : EngCmd)
  | circFull (c : CircCmd)
  | unbound (c : CircCmd)
  | walk (h : Fin 8) (va : Word64) (buf : Fin 64) (addr : Word64) (pos : Option (Fin 8)) (seq : Nat)
  | elastic (born : Nat) (pos : Fin 8)
  | kmbox (d : SReg) (a : Nat)
  | kstep (d : SReg) (addr : Word64) (pos : Fin 8)
  | tick (n : Nat)
  | preempted
  | resume
  deriving DecidableEq, Repr

/-- An access to an LS in a later tick: remote accesses and the later lines of multi-tick transfers
(08 R169 R172 R175, 12 R262 R266, 14 R289). -/
inductive LsOp where
  | loadRows (addr : Nat) (d : List (Fin 640)) (lat : Nat) (last : Bool)
  | storeRows (addr : Nat) (rows : List Vec)
  | remoteLoad (core : Fin 16) (addr : Word64) (d : Option (Fin 640))
  | remoteStore (core : Fin 16) (addr : Word64) (v : Vec)
  | witTail (k : Fin 8) (addr : Nat) (head : List Byte)
  | witSaveTail (addr : Nat) (bytes : List Byte)
  | rfNorm
  | stream (right : Bool) (core : Fin 16) (addr : Word64) (len : Nat)
  | payload (blk : List Word64)
  | tokenDone (strand : Nat) (t : Option (Fin 63))
  deriving DecidableEq, Repr

structure LsPend where
  due  : Nat
  op   : LsOp
  addr : Word64
  pos  : Fin 8
  born : Nat
  deriving DecidableEq, Repr

/-- A matrix step of an elastic grid whose remote streams have not all come: what it read as it issued, and the bytes of A and B
that it has (10 R218). -/
structure MPend where
  op   : MStepOp
  sel  : Option (Bool × List Byte)
  a    : Option (List Byte)
  b    : Option (List Byte)
  eA   : Vector Byte 64
  eB   : Vector Byte 64
  addr : Word64
  pos  : Fin 8
  born : Nat
  deriving DecidableEq, Repr

/-- A bundle as fetched: its syllables in stream order; fewer than eight and no stop marks a fetch that failed. -/
structure Bundle where
  addr  : Word64
  words : List Word64
  deriving DecidableEq, Repr

/-- A running loop nest (07 R158 R159). -/
structure Nest where
  c0   : Nat
  rot  : Bool
  drain : Nat
  lc   : Vector Nat 6
  body : List Bundle
  idx  : Nat
  after : Word64
  deriving DecidableEq, Repr

structure LoopState where
  armed : Vector (Option Nat) 6
  nest  : Option Nest
  lexit : Option (Fin 6)
  deriving DecidableEq, Repr

/-- Which routine the refinement sequencer called (12 R266). -/
inductive RfPhase where
  | refac | solve | resid | handler
  deriving DecidableEq, Repr

/-- An active refinement run (12 R264 to R269). -/
structure Refine where
  blk    : List Word64
  phase  : RfPhase
  k      : Nat
  prev   : Word64
  stag   : Nat
  normed : Bool
  ret    : Word64
  deriving DecidableEq, Repr

/-- The special registers of a context that hold state of their own (03 R53, 05 R107). -/
structure Specials where
  scnt   : Word64
  crd    : Vector Word64 6
  fel    : Word64
  fflags : BitVec 9
  rmode  : BitVec 3
  rngk   : Word64
  rotv   : BitVec 7
  rotp   : BitVec 5
  rnorm  : Word64
  rbnorm : Word64
  rexit  : BitVec 2
  rlevel : BitVec 2
  tid    : Word32
  base   : Word64
  draw   : Word32
  deriving DecidableEq, Repr

/-- The register classes of a context (03 R47). -/
structure Regs where
  s    : Vector Word64 64
  aBase : Vector Word64 16
  aStride : Vector (Vector Word64 6) 16
  p    : Vector Mask 64
  v    : Vector Vec 640
  m    : Vector Acc 4
  e    : Vector (Vector Byte 64) 8
  w    : Vector Wit 8
  h    : Vector (Option Handle) 8
  tok  : Vector Tok 63
  deriving DecidableEq, Repr

/-- A message of the kiosk mailbox with its tag and the tick of its arrival (15 R300). -/
structure Message where
  core  : Nat
  ctx9  : BitVec 9
  grid  : Nat
  words : List Word64
  tick  : Nat
  deriving DecidableEq, Repr

/-- State of an entry of the traversal table (15 R305). -/
inductive TravState where
  | waiting | arrived | done
  deriving DecidableEq, Repr

structure Trav where
  state : TravState
  node  : Nat
  root  : Word64
  tree  : Word32
  desc  : List Word64
  buf   : Fin 64
  score : Word64
  feat  : List Word32
  lo    : Word64
  hi    : Word64
  steps : Nat
  value : Word32
  limit : Bool
  data  : List Byte
  deriving DecidableEq, Repr

/-- What a kiosk core holds beside the registers (15 R296 R297). -/
structure Kiosk where
  image : Nat × Nat
  khnd : BitVec 48
  kthr : Word32
  krtb : BitVec 17
  krtn : BitVec 13
  kintr : Bool
  mbox : List Message
  serv : Option Message
  trav : Tab Trav
  desc : Vector (List Word64) 4
  heat : Tab Word32
  pend : List Nat
  ret  : Word64
  loop : LoopState
  fault : Option (List Word64)
  deriving DecidableEq, Repr

/-- One context of a core, or a kiosk core (03 R46, 15 R296). -/
structure Ctx where
  kind   : CoreKind
  gid    : Nat
  second : Bool
  run    : Run
  ctxId  : BitVec 8
  grid   : Option Nat
  profA  : Bool
  elastic : Bool
  mIdx   : Nat
  nIdx   : Nat
  triggered : Bool
  regs   : Regs
  sp     : Specials
  pc     : Word64
  next   : Word64
  idle   : Nat
  loop   : LoopState
  rf     : Option Refine
  flight : List Result
  bp     : Bypass
  outst  : List Outst
  holds  : List Hold
  lsPend : List LsPend
  mstep  : Option MPend
  lBusy  : Nat
  ls     : Memory
  foot   : Nat
  tags   : Tab (BitVec 48)
  ltt    : Vector (Word64 × Word64) 64
  slots  : Vector (SlotState × Vec) 64
  queue  : List EngCmd
  active : List EngCmd
  strand : Nat
  oldTok : Tab (Vector Tok 63)
  guard  : Bool
  starve : Nat
  kiosk  : Kiosk
  deriving DecidableEq, Repr

/-! ### Circuit engine (11) -/

/-- A resident object (11 R231 to R234 R241). Slots are 1,024 × bank + slot; `words` holds four node operations for each
circuit word; `frames` are the pages that stand in word memory, `due` those asked for, and `got` holds the lines of a page
of an LS that have come. -/
structure CircObj where
  wbank : Nat
  nw    : Nat
  words : List Word64
  leaves : List Nat
  outs  : List Nat
  pages : List (Word64 × Word64)
  crcs  : List Word64
  frames : List Nat
  due   : List Nat
  got   : Tab (List Byte)
  srcKey : Nat
  deriving DecidableEq, Repr

/-- `tick` is the next tick of the running pass, from 0 (11 R240); `lines` holds what an LS has given of the image under load, by
the key of its context and the number of the line (11 R235, 06 R130). -/
structure Engine where
  bound  : Option Nat
  obj    : Option CircObj
  store  : Tab (Vector (BitVec 48) 64)
  active : Tab (BitVec 48)
  shadow : Tab (BitVec 48)
  queue  : List CircCmd
  loading : Option CircCmd
  pass   : Option CircCmd
  tick   : Nat
  lines  : Tab (List Byte)
  deriving DecidableEq, Repr

/-! ### Grids, queues and code objects (02, 16, 24) -/

/-- Kind of a loop-table level (02 R17, 16 R315). -/
inductive LevelKind where
  | unused | temporal | core | die
  deriving DecidableEq, Repr

structure Level where
  kind : LevelKind
  arg  : Option (Fin 8)
  count : Nat
  deriving DecidableEq, Repr

/-- A kernel control block (02 R16, 16 R315). -/
structure Kcb where
  elastic : Bool
  profA : Bool
  lttx  : Nat
  foot  : Nat
  drain : Nat
  dies  : Nat
  pkgs  : Nat
  clus  : Nat
  chunk : Nat
  entry : Nat
  levels : List Level
  deriving DecidableEq, Repr

/-- A kiosk program note (16 R317). -/
structure KioskNote where
  lttx  : Nat
  entry : Nat
  img   : Nat
  len   : Nat
  deriving DecidableEq, Repr

/-- A loaded code object (16 R319 R323): its sections before relocation, and what the runtime allocated for its templates. -/
structure CodeObj where
  func  : Nat
  ctx   : BitVec 8
  text  : Nat
  textLen : Nat
  secs  : List Section
  syms  : List ElfSym
  relocs : List Reloc
  kcbs  : List Kcb
  kiosks : List KioskNote
  ltts  : List (Vector (Word64 × Word64) 64)
  lttBase : List Word64
  lttLen : List Nat
  ready : Bool
  deriving DecidableEq, Repr

/-- A launch packet as fetched (24 R347), with the aging it has had, and the die-0 ticks for which it has been ready since
(24 R352). -/
structure Launch where
  seq   : Nat
  words : List Word64
  age   : Nat
  ready : Nat
  deriving DecidableEq, Repr

inductive GridState where
  | running | preempted | faulted | retired
  deriving DecidableEq, Repr

/-- One member of a placement: its die, the placed clusters in rank order (02 R23). -/
structure Member where
  die : Nat
  clusters : List Nat
  deriving DecidableEq, Repr

/-- A grid (02, 13 R281, 14 R284, 24). `cores` are the cores of an elastic placement, `order` counts starts; `owed` names the
strands that ended without ETRIG, by context, request and strand number (02 R37), and `far` the payloads that receivers on
other packages have not read: sender, member, rank and slot (14 R290). `sguard` is the starvation guard as the grid took it at
its start or resume (02 R34, 23 R336). `resume` is the alignment point of a resumption that has not been released: which die has heard from
which, and which packages have been heard from (14 R284). -/
structure Grid where
  state : GridState
  queue : Nat
  seq   : Nat
  func  : Nat
  ctx   : BitVec 8
  code  : Nat
  kcb   : Kcb
  entry : Word64
  rngk  : Word64
  ptroot : BitVec 40
  pkt   : List Word64
  trips : List Nat
  nc    : Nat
  nd    : Nat
  members : List Member
  keys  : List Nat
  ranges : Tab (Nat × Nat)
  joined : List Nat
  arrived : List (Bool × Nat × Nat × Nat)
  point : Tab Nat
  window : Tab (Nat × Nat)
  released : Tab Nat
  heard : List (Nat × Nat × Nat)
  pkgHeard : Tab Nat
  aovr  : Bool
  early : Bool
  trig  : Bool
  started : Nat
  triggered : Nat
  owed  : List (Nat × Nat × Nat)
  fault : Option (List Word64)
  saved : Tab Ctx
  savedEng : Tab Engine
  senders : Tab Nat
  far   : List (Nat × Nat × Nat × Fin 64)
  sguard : Bool
  cores : List Nat
  order : Nat
  resume : Option (List (Nat × Nat) × List Nat)
  deriving DecidableEq, Repr

/-- A work queue (24 R344). `live` names its grids that have not retired, and `since` counts the grids started before its last
reset (24 R346). -/
structure Queue where
  base  : BitVec 48
  log2  : Nat
  ctx   : BitVec 8
  en    : Bool
  age   : BitVec 8
  head  : Word32
  tail  : Word32
  halted : Bool
  ovr   : BitVec 48
  waiting : List Launch
  live  : List Nat
  since : Nat
  deriving DecidableEq, Repr

/-- A translation-wait entry (25 R359): its context, buffer, page number, and the grids and keys that wait on it. -/
structure TWait where
  ctx  : BitVec 8
  buf  : Fin 64
  va   : Nat
  tag  : Nat
  popped : Bool
  keys : List (Nat × Nat)
  deriving DecidableEq, Repr

/-- A host write that waits on the host link: of a register of the function's window, or of memory (26 R368). -/
inductive HostWait where
  | reg (off : Nat) (w : Word64)
  | mem (ctx : BitVec 8) (pa : Nat) (bytes : List Byte)
  deriving DecidableEq, Repr

/-- The register blocks of one function (23 R340, 24 R349 R353, 25 R359 R362, 26 R370, 27 R384). `used` is the part of its time
slice that has passed, `asked` a change of its clusters that still waits for a pre-emption, `waits` the host writes that wait on
the link behind a full ingress buffer (26 R368), and `loadErr` its latest load error (16 R319). `readOut` is what the latest read of
a register that the read clears gave the host (00 R6): such a register holds 0 after it. `linkErr` is 1 while the function's
link retrains (27 R377). -/
structure Func where
  ctrs   : Tab Word64
  twaits : List TWait
  readOut : Word64
  twVa   : Word64
  ltt0   : Word64
  ltt1   : Word64
  lttSt  : Nat
  iaddr  : BitVec 48
  idata  : Word32
  cause  : BitVec 3
  imask  : BitVec 3
  seal0  : Word64
  seal1  : Word64
  seal2  : Word64
  seal3  : Word64
  att0   : Word64
  att1   : Word64
  nonce  : List Word64
  alive  : Bool
  weight : Nat
  shared : Bool
  clusters : Word64
  slice  : Word32
  deficit : Nat
  nextQ  : Nat
  used   : Nat
  asked  : Option Word64
  waits  : List HostWait
  loadErr : Nat
  linkErr : Bool
  deriving DecidableEq, Repr

/-- A context's privileged specials and buffer counters (23 R336, 06 R145); `root` is PTROOT as its latest grid start or resume took it. -/
structure CtxRegs where
  sguard : Option Bool
  ptroot : BitVec 40
  root   : BitVec 40
  func   : BitVec 8
  alive  : Bool
  bytes  : Vector Word64 64
  stalls : Vector Word64 64
  ingress : List (Nat × List Byte)
  deriving DecidableEq, Repr

/-- A seal register (23 R342); while `live` is false its range is installed and F still drains it (23 R341). -/
structure Seal where
  live : Bool
  ctx  : BitVec 8
  base : BitVec 36
  len  : Nat
  meas : List Byte
  deriving DecidableEq, Repr

/-- An audit log (15 R308, 23 R343). -/
structure AuditLog where
  ctx   : BitVec 8
  base  : BitVec 36
  len   : Nat
  count : Nat
  covered : Nat
  head  : List Byte
  deriving DecidableEq, Repr

/-- An outstanding global store of a core's request queue, or a lane-atomic of a VAMO (13 R272, 08 R181 R182); `strong` for a
scope above .c (13 R271); `group` is the number of the first lane of its syllable. -/
structure Store where
  seq   : Nat
  core  : Nat
  key   : Nat
  op    : Option AmoOp
  pa    : Nat
  bytes : List Byte
  buf   : Fin 64
  ctx   : BitVec 8
  strong : Bool
  group : Nat
  deriving DecidableEq, Repr

/-- An XSEND payload in the fabric (14 R289 R290). -/
structure Payload where
  grid : Nat
  src  : Nat
  dst  : Nat
  slot : Fin 64
  data : Vec
  deriving DecidableEq, Repr

/-- Kinds of elastic LS requesters in rotation (06 R131). -/
inductive ElKind where
  | secondL | remote | copy | page | deposit | cword
  deriving DecidableEq, Repr

/-- What a granted elastic request does: a write, an access of a strand in its LS tick, the write of a CSIG, a line of a copy or of
its record, the completion word of a copy, a line of the image that a cluster's engine loads, or a line of a circuit page. -/
inductive ElJob where
  | write (bytes : List Byte)
  | access (p : LsPend)
  | sig (id : Nat)
  | load (cl line : Nat)
  | copyRead (id : Nat)
  | copyWrite (id : Nat)
  | copyRec (id : Nat)
  | word (id : Nat) (bytes : List Byte)
  | page (cl page : Nat) (last : Bool)
  deriving DecidableEq, Repr

/-- A pending elastic LS request (06 R130 R131): the first tick in which it may be granted, its master, the context whose LS it reaches,
and the context that made it. -/
structure ElReq where
  kind   : ElKind
  age    : Nat
  master : Nat
  key    : Nat
  owner  : Option Nat
  addr   : Nat
  len    : Nat
  job    : ElJob
  deriving DecidableEq, Repr

/-- An LS bank request of the tick that is under way, or an elastic access that has been granted in it (06 R131 R132). -/
structure LsReq where
  key   : Nat
  kind  : Nat
  core  : Nat
  addr  : Nat
  len   : Nat
  write : Bool
  from_ : Nat
  bundle : Word64
  pos   : Fin 8
  elastic : Bool
  deriving DecidableEq, Repr

/-- A payload at a port, from sender rank `q` to a member on another package: whether it is late, and the retransmissions it
has failed (26 R373 R374). -/
structure Flit where
  grid   : Nat
  src    : Nat
  q      : Nat
  member : Nat
  rank   : Nat
  slot   : Fin 64
  data   : Vec
  late   : Bool
  fails  : Nat
  deriving DecidableEq, Repr

/-- A Virga port (26 R372 R373 R374): its slot table and the slot that passes next, the payloads that wait, those to be
retransmitted, and the flit of the slot that has passed last. -/
structure Port where
  slots  : Tab Word32
  next   : Nat
  wait   : List Flit
  again  : List Flit
  last   : Option Flit
  failed : Bool
  training : Bool
  deriving DecidableEq, Repr

/-- Clock state of a compute die (14 R282, 27 R387). -/
structure Die where
  tick : Word64
  throttle : Fin 16
  stopped : Bool
  deriving DecidableEq, Repr

/-- A physical range and the target that serves it (DESIGN CHOICE, assumption log 3). -/
structure PRange where
  base : Nat
  size : Nat
  target : Nat
  deriving DecidableEq, Repr

/-- The slot-to-engine map (25 R365). -/
structure CoreMap where
  v0u : Bool
  v1u : Bool
  out : Bool
  deriving DecidableEq, Repr

structure ClusterMap where
  repl : Fin 16
  inuse : Bool
  spbad : Bool
  deriving DecidableEq, Repr

/-- A firmware image of the boot flash (27 R382). -/
structure FwImage where
  version : Nat
  key  : List Byte
  sig  : List Byte
  body : List Byte
  deriving DecidableEq, Repr

/-- What the boot stages find (27 R381 R382 R386): the fuses, the flash, and the outcomes that the outside world gives: clusters
whose spare rows do not suffice, base dies whose HBM and ports and dies whose links do not train, whether the boot ROM of the
management core on die 0 gets an image out of the flash, the cohort's configuration. -/
structure Boot where
  vkh     : List Byte
  secret  : BitVec 256
  minVer  : BitVec 16
  fusesOk : Bool
  images  : List FwImage
  romOk   : Bool
  badClusters : List Nat
  badBases : List Nat
  badPorts : List Nat
  badDies : List Nat
  alignOk : Bool
  cohortId : Word64
  step    : Nat
  fail    : Nat
  fwMeas  : List Byte
  deriving DecidableEq, Repr

/-- What comes next when it is not the focused context's own tick (DESIGN CHOICE, assumption log 5). `slot` is the next flit slot
of a port, `incoming` a payload from a member on another package, and `farRead` the news that one read a payload (26 R373,
14 R290; DEDUCED, assumption log 17). -/
inductive Turn where
  | slot (port : Nat)
  | incoming (port grid member q dst : Nat) (slot : Fin 64) (data : Vec)
  | farRead (grid src member q : Nat) (slot : Fin 64)
  | event (i : Instr)
  | context (key : Nat)
  | perform (n : Nat)
  | evict (core line : Nat)
  deriving DecidableEq, Repr

/-- Scratch of the bundle that issues: its address and the address after it, the position of the syllable that executes,
and the V unit it takes (DESIGN CHOICE, assumption log 7). -/
structure Issue where
  addr  : Word64
  after : Word64
  pos   : Fin 8
  unit1 : Bool
  deriving DecidableEq, Repr

/-- The package. `cur` is the context in focus; `others` holds every other context by key (2 × core + slot for compute
contexts, 2048 + kiosk id for kiosk cores, 2176 and 2177 for the management core and its standby). `used` holds, for the tick
that is under way, the classes of the syllables that each core's primary has issued (02 R32). `bad` names the 64-byte lines
of memory with an uncorrectable error that no one has read (27 R379), and `failures` the units whose failure F has recorded
(25 R367). -/
structure State where
  turns  : List Turn
  focus  : Nat
  cur    : Ctx
  others : Tab Ctx
  issue  : Issue
  trap   : Option FaultWords
  lsReqs : List LsReq
  used   : Tab (List Nat)
  bad    : List Nat
  failures : List FailedUnit
  elReqs : List ElReq
  elOrder : Tab (List ElKind)
  dies   : Vector Die 4
  mem    : Memory
  hostMem : Memory
  pmap   : List PRange
  reqq   : List Store
  reqs   : Nat
  icache : Tab (Tab (Vector Word64 8))
  fabric : List Payload
  engines : Tab Engine
  grids  : Tab Grid
  starts : Nat
  queues : Tab Queue
  funcs  : Tab Func
  ctxs   : Tab CtxRegs
  codes  : Tab CodeObj
  atsel  : BitVec 20
  access : Tab Word32
  seals  : Tab Seal
  logs   : Tab AuditLog
  groups : Tab (Word64 × Word64)
  ports  : Tab Port
  coreMap : Tab CoreMap
  clusterMap : Tab ClusterMap
  standby : List StandbyUnit
  boot   : Boot
  cohort : Word64
  cecnt  : Word32
  uecnt  : Word32
  uekind : BitVec 4
  ueloc  : BitVec 52
  corrected : Tab Nat
  freeCount : Nat
  deriving DecidableEq, Repr

/-! ### Reset (00 R6, 02 R20, 27 R386) -/

def Cells.zero : Cells := Vector.replicate 64 (Vector.replicate 64 0#32)

def Acc.zero : Acc := ⟨Cells.zero, Cells.zero, 0, none, Cells.zero⟩

/-- An empty witness with its counter (12 R248). -/
def Wit.empty (gen : BitVec 16) : Wit :=
  ⟨Vector.replicate 16 (Vector.replicate 64 0#8), 0, 0, 0, 0, false, gen⟩

def LoopState.none : LoopState := ⟨Vector.replicate 6 .none, .none, .none⟩

/-- Every register zero, p0 all true, witnesses empty, tokens idle (02 R20). -/
def Regs.entry : Regs where
  s := Vector.replicate 64 0#64
  aBase := Vector.replicate 16 0#64
  aStride := Vector.replicate 16 (Vector.replicate 6 0#64)
  p := (Vector.replicate 64 0#64).set 0 (BitVec.allOnes 64)
  v := Vector.replicate 640 Vec.zero
  m := Vector.replicate 4 Acc.zero
  e := Vector.replicate 8 (Vector.replicate 64 0#8)
  w := Vector.replicate 8 (Wit.empty 0)
  h := Vector.replicate 8 none
  tok := Vector.replicate 63 Tok.idle

def Specials.zero : Specials :=
  ⟨0, Vector.replicate 6 0#64, 0, 0, 0, 0, 0, 0, 0, 0, 0, 0, 0, 0, 0⟩

def Bypass.none : Bypass := ⟨.none, .none, .none, .none, .none, .none⟩

/-- The kiosk tables at reset (15 R297, 16 R317). -/
def Kiosk.reset : Kiosk where
  image := (0, 0)
  khnd := 0
  kthr := 0xFFFFFFFF#32
  krtb := 0
  krtn := 0
  kintr := false
  mbox := []
  serv := .none
  trav := []
  desc := Vector.replicate 4 (List.replicate 4 0#64)
  heat := []
  pend := []
  ret := 0
  loop := LoopState.none
  fault := .none

/-- An idle context of a unit (DESIGN CHOICE, assumption log 1). -/
def Ctx.idleOf (kind : CoreKind) (gid : Nat) (second : Bool) : Ctx where
  kind := kind
  gid := gid
  second := second
  run := .idle
  ctxId := 0
  grid := .none
  profA := false
  elastic := false
  mIdx := 0
  nIdx := 0
  triggered := false
  regs := Regs.entry
  sp := Specials.zero
  pc := 0
  next := 0
  idle := 0
  loop := LoopState.none
  rf := .none
  flight := []
  bp := Bypass.none
  outst := []
  holds := []
  lsPend := []
  mstep := .none
  lBusy := 0
  ls := []
  foot := if kind = .compute then 0 else 131072
  tags := []
  ltt := Vector.replicate 64 (0#64, 0#64)
  slots := Vector.replicate 64 (.empty, Vec.zero)
  queue := []
  active := []
  strand := 0
  oldTok := []
  guard := false
  starve := 0
  kiosk := Kiosk.reset

/-- The context of a key that the table does not list. -/
def Ctx.ofKey (key : Nat) : Ctx :=
  if key < 2048 then Ctx.idleOf .compute (key / 2) (key % 2 == 1)
  else if key < 2176 then Ctx.idleOf .kiosk (key - 2048) false
  else if key = 2176 then Ctx.idleOf .management 0 false
  else Ctx.idleOf .standby 0 false

def Engine.reset : Engine := ⟨.none, .none, [], [], [], [], .none, .none, 0, []⟩

def Queue.reset : Queue := ⟨0, 4, 0, false, 0, 0, 0, false, 0, [], [], 0⟩

def Func.reset : Func where
  ctrs := []
  twaits := []
  readOut := 0
  twVa := 0
  ltt0 := 0
  ltt1 := 0
  lttSt := 0
  iaddr := 0
  idata := 0
  cause := 0
  imask := 0
  seal0 := 0
  seal1 := 0
  seal2 := 0
  seal3 := 0
  att0 := 0
  att1 := 0
  nonce := []
  alive := false
  weight := 16
  shared := false
  clusters := 0
  slice := 2000000
  deficit := 0
  nextQ := 0
  used := 0
  asked := .none
  waits := []
  loadErr := 0
  linkErr := false

def CtxRegs.reset : CtxRegs :=
  ⟨.none, 0, 0, 0, false, Vector.replicate 64 0#64, Vector.replicate 64 0#64, []⟩

def Port.reset : Port := ⟨[], 0, [], [], .none, false, false⟩

def CoreMap.reset : CoreMap := ⟨false, true, false⟩

def ClusterMap.reset : ClusterMap := ⟨0, false, false⟩

def Boot.reset : Boot := ⟨[], 0, 0, true, [], true, [], [], [], [], true, 0, 1, 0, []⟩

/-- The machine right after step 1 of bring-up (27 R386): every register at its reset value, `$tick` 0 on every die, no
context placed, nothing in memory (DESIGN CHOICE, assumption log 1 to 5). -/
def State.reset : State where
  turns := []
  focus := 0
  cur := Ctx.idleOf .compute 0 false
  others := []
  issue := ⟨0, 0, 0, false⟩
  trap := .none
  lsReqs := []
  used := []
  bad := []
  failures := []
  elReqs := []
  elOrder := []
  dies := Vector.replicate 4 ⟨0, 0, false⟩
  mem := []
  hostMem := []
  pmap := []
  reqq := []
  reqs := 0
  icache := []
  fabric := []
  engines := []
  grids := []
  starts := 0
  queues := []
  funcs := []
  ctxs := []
  codes := []
  atsel := 0
  access := []
  seals := []
  logs := []
  groups := []
  ports := []
  coreMap := []
  clusterMap := []
  standby := []
  boot := Boot.reset
  cohort := 0
  cecnt := 0
  uecnt := 0
  uekind := 0
  ueloc := 0
  corrected := []
  freeCount := 0

/-! ### Why a step stops -/

/-- Reasons the machine stops with no next state. -/
inductive Fault where
  /-- Raised by no meaning: every fault of 25 R364 is taken as a next state. It stands for a state no device reaches, and is
  safe: it only withholds a next state. -/
  | unreachable
  deriving DecidableEq, Repr

/-- Reasons an instruction is refused. -/
inductive Refusal where
  /-- The arm has no meaning yet; safe, since nothing is claimed of it. -/
  | notModelled (mnemonic : String)
  deriving DecidableEq, Repr

end Sys2Proof.Machine
end

