-- ==== Sys2Proof/Machine/Flags.lean ====
section
/-! DEFINITION. The events of arithmetic and their record: `$fflags` (03 R54) and the first-event log `$fel` (03 R55). -/
namespace Sys2Proof.Machine

/-- A set of events, bit k for the flag [k] of 03 R54. -/
abbrev Ev := BitVec 9

def Ev.nv : Ev := 1
def Ev.dz : Ev := 2
def Ev.of : Ev := 4
def Ev.uf : Ev := 8
def Ev.nx : Ev := 16
def Ev.sat : Ev := 32
def Ev.sefu : Ev := 64
def Ev.wnan : Ev := 128
def Ev.ebp : Ev := 256

/-- The union of the events of several lanes (09 R198). -/
def Ev.union (l : List Ev) : Ev := l.foldl (· ||| ·) 0

/-- The lowest event code of a set (03 R55): code k + 1 for flag [k]; 0 for the empty set. -/
def Ev.code (e : Ev) : Nat :=
  match (List.range 9).find? (fun k => e.getLsbD k) with
  | some k => k + 1
  | none => 0

/-- The log word of an event set raised by the syllable at `pos` of the bundle at `addr` (03 R55). -/
def felWord (addr : Word64) (pos : Fin 8) (e : Ev) : Word64 :=
  BitVec.ofNat 64 (addr.toNat % 2 ^ 48 / 8 * 8 + 2 ^ 48 * pos.val + 2 ^ 52 * e.code + 2 ^ 63)

/-- Events set their flags, and the first of them writes the log while VALID is 0 (03 R54 R55). -/
def Specials.event (sp : Specials) (addr : Word64) (pos : Fin 8) (e : Ev) : Specials :=
  if e = 0 then sp
  else { sp with
    fflags := sp.fflags ||| e
    fel := if sp.fel.getLsbD 63 then sp.fel else felWord addr pos e }

end Sys2Proof.Machine
end

