-- ==== Sys2Proof/Machine/Ops.lean ====
section
/-! DEFINITION. The named operations over memory, tables, contexts and results, and the taking of a fault: the shared steps
from which every meaning is written (02, 03 R58 R59, 06, 13, 23 R337 to R342, 25 R363). -/
namespace Sys2Proof

/-! ### Tables -/

def Tab.get? {α : Type} (t : Tab α) (k : Nat) : Option α := (t.find? (fun e => e.1 == k)).map Prod.snd

def Tab.set {α : Type} : Tab α → Nat → α → Tab α
  | [], k, v => [(k, v)]
  | (j, w) :: r, k, v =>
    if k < j then (k, v) :: (j, w) :: r
    else if k = j then (k, v) :: r
    else (j, w) :: Tab.set r k v

def Tab.del {α : Type} (t : Tab α) (k : Nat) : Tab α := t.filter (fun e => e.1 != k)

/-- The consumed tokens of an engine-form syllable (04 R77). -/
def EngOp.cons (o : EngOp) : List (Fin 63) := o.cons0.toList ++ o.cons1.toList ++ o.cons2.toList

namespace Machine

abbrev Out := Host.Outcome State Fault Refusal

/-- A set kept ascending. -/
def insertNat (n : Nat) : List Nat → List Nat
  | [] => [n]
  | x :: l => if n < x then n :: x :: l else if n = x then x :: l else x :: insertNat n l

/-! ### Bytes and memory (00 R1) -/

/-- The number of a little-endian byte string. -/
def leNat : List Byte → Nat
  | [] => 0
  | b :: r => b.toNat + 256 * leNat r

def Memory.read (m : Memory) (a : Nat) : Byte :=
  match m.find? (fun c => c.1 == a) with
  | some c => c.2
  | none => Memory.blank

/-- Writing keeps the canonical form: addresses rise, and no entry holds what an unlisted address reads as. -/
def Memory.write : Memory → Nat → Byte → Memory
  | [], a, b => if b = Memory.blank then [] else [(a, b)]
  | (c, d) :: r, a, b =>
    if a < c then (if b = Memory.blank then (c, d) :: r else (a, b) :: (c, d) :: r)
    else if a = c then (if b = Memory.blank then r else (a, b) :: r)
    else (c, d) :: Memory.write r a b

/-- Entries from `lo` up, rising, none blank. -/
def Memory.wfFrom : Nat → Memory → Bool
  | _, [] => true
  | lo, (a, b) :: r => decide (lo ≤ a) && b != Memory.blank && Memory.wfFrom (a + 1) r

/-- The canonical form. -/
def Memory.wf (m : Memory) : Bool := Memory.wfFrom 0 m

/-- The `n` bytes from `a` up. A list of entries is walked once. -/
def Memory.readN (m : Memory) (a : Nat) : Nat → List Byte
  | 0 => []
  | n + 1 => m.read a :: m.readN (a + 1) n

/-- Bytes stored from `a` up. -/
def Memory.writeN (m : Memory) (a : Nat) : List Byte → Memory
  | [] => m
  | b :: r => (m.write a b).writeN (a + 1) r

def Memory.word (m : Memory) (a : Nat) : Word64 := BitVec.ofNat 64 (leNat (m.readN a 8))

/-- The `n` 64-bit words from `a` up. -/
def Memory.words (m : Memory) (a : Nat) : Nat → List Word64
  | 0 => []
  | n + 1 => m.word a :: m.words (a + 8) n

def bytesOf (n : Nat) (w : Word64) : List Byte := bytesOfNat n w.toNat

/-- Words as bytes. -/
def bytesOfWords (ws : List Word64) : List Byte := ws.flatMap (bytesOf 8)

/-- Bytes as words, eight to a word. -/
def wordsOfBytes : Nat → List Byte → List Word64
  | 0, _ => []
  | n + 1, bs => BitVec.ofNat 64 (leNat (bs.take 8)) :: wordsOfBytes n (bs.drop 8)

/-- A vector register as its 256 bytes, lane 0 first (00 R1). -/
def vecBytes (v : Vec) : List Byte := v.toList.flatMap (fun w => bytesOfNat 4 w.toNat)

def vecOfBytes (bs : List Byte) : Vec :=
  let a := bs.toArray
  Vec.ofLanes fun i => BitVec.ofNat 32
    ((a.getD (4 * i.val) 0).toNat + 256 * (a.getD (4 * i.val + 1) 0).toNat
      + 65536 * (a.getD (4 * i.val + 2) 0).toNat + 16777216 * (a.getD (4 * i.val + 3) 0).toNat)

/-- Word `i` of a captured block; 0 past its end. -/
def blkWord (b : List Word64) (i : Nat) : Word64 := b.getD i 0

/-- Bits [lo + n − 1 : lo] of word `i` of a captured block. -/
def blk (b : List Word64) (i lo n : Nat) : Nat := bits (blkWord b i).toNat lo n

/-! ### Contexts and focus (DESIGN CHOICE, assumption log 5) -/

def Ctx.key (c : Ctx) : Nat :=
  match c.kind with
  | .compute => 2 * c.gid + (if c.second then 1 else 0)
  | .kiosk => 2048 + c.gid
  | .management => 2176
  | .standby => 2177

/-- The context of a key, wherever it is held. -/
def State.ctx (s : State) (k : Nat) : Ctx :=
  if k = s.focus then s.cur else (s.others.get? k).getD (Ctx.ofKey k)

/-- The core whose LS a context uses. -/
def lsCore (key : Nat) : Nat := if key < 2048 then key / 2 else key

/-- The tick in which a request on an LS is made. -/
def State.elNow (s : State) (core : Nat) : Nat := (s.dies.get (Fin.ofNat 4 (core / 256))).tick.toNat

def State.setCtx (s : State) (k : Nat) (c : Ctx) : State :=
  if k = s.focus then { s with cur := c } else { s with others := s.others.set k c }

def State.updCtx (s : State) (k : Nat) (f : Ctx → Ctx) : State := s.setCtx k (f (s.ctx k))

/-- Bring a context into focus (DESIGN CHOICE, assumption log 16). -/
def State.focusOn (s : State) (k : Nat) : State :=
  if k = s.focus then s
  else { s with
    cur := (s.others.get? k).getD (Ctx.ofKey k)
    others := (s.others.del k).set s.focus s.cur
    focus := k }

def State.updKeys (s : State) (ks : List Nat) (f : Ctx → Ctx) : State := ks.foldl (fun s k => s.updCtx k f) s

/-- Every listed context with its key. -/
def State.allCtxs (s : State) : List (Nat × Ctx) := (s.focus, s.cur) :: s.others

def State.mapCur (s : State) (f : Ctx → Ctx) : State := { s with cur := f s.cur }

/-- The management core and its standby run at level F (23 R333). -/
def Ctx.firmware (c : Ctx) : Bool := c.kind == .management || c.kind == .standby

/-- Die of a compute core or of a kiosk core (01 R9 R13). -/
def Ctx.die (c : Ctx) : Nat :=
  match c.kind with
  | .compute => c.gid / 256 % 4
  | .kiosk => c.gid / 32 % 4
  | .management => 0
  | .standby => 1

/-- Global cluster id (01 R13). -/
def Ctx.cluster (c : Ctx) : Nat := c.gid / 16

/-- Core index in its cluster. -/
def Ctx.index (c : Ctx) : Nat := c.gid % 16

/-- Master id (23 R337). -/
def Ctx.master (c : Ctx) : Nat :=
  match c.kind with
  | .compute => c.gid
  | .kiosk => 0x840 + c.gid
  | .management => 0x8C0
  | .standby => 0x8C1

/-- `$core` (01 R14). -/
def Ctx.coreId (c : Ctx) : Nat :=
  match c.kind with
  | .compute => c.gid
  | .kiosk => 1024 + c.gid
  | .management => 1152
  | .standby => 1153

/-- `$ctx` (02 R20). -/
def Ctx.ctxWord (c : Ctx) : Nat := c.ctxId.toNat + (if c.second then 256 else 0)

def State.grid? (s : State) : Option Grid := s.cur.grid.bind (s.grids.get? ·)

def State.updGrid (s : State) (g : Nat) (f : Grid → Grid) : State :=
  match s.grids.get? g with
  | some x => { s with grids := s.grids.set g (f x) }
  | none => s

def State.ctxRegs (s : State) (c : Nat) : CtxRegs := (s.ctxs.get? c).getD CtxRegs.reset

def State.func (s : State) (f : Nat) : Func := (s.funcs.get? f).getD Func.reset

def State.updFunc (s : State) (f : Nat) (u : Func → Func) : State := { s with funcs := s.funcs.set f (u (s.func f)) }

def State.queue (s : State) (q : Nat) : Queue := (s.queues.get? q).getD Queue.reset

def State.updQueue (s : State) (q : Nat) (u : Queue → Queue) : State := { s with queues := s.queues.set q (u (s.queue q)) }

def State.engine (s : State) (cl : Nat) : Engine := (s.engines.get? cl).getD Engine.reset

def State.updEngine (s : State) (cl : Nat) (u : Engine → Engine) : State :=
  { s with engines := s.engines.set cl (u (s.engine cl)) }

/-! ### Results (03 R58 to R63) -/

/-- Lanes of `new` where the mask is 1, of `old` elsewhere. -/
def mergeLanes (m : Mask) (new old : Vec) : Vec :=
  Vec.ofLanes fun i => if m.getLsbD i.val then new.get i else old.get i

/-- One effect of a result on the registers of its context. -/
def RegWrite.apply (w : RegWrite) (c : Ctx) : Ctx :=
  match w with
  | .sreg n v => if n = 0 then c else { c with regs := { c.regs with s := c.regs.s.set n v } }
  | .aBase n v => { c with regs := { c.regs with aBase := c.regs.aBase.set n v } }
  | .aStride n k v => { c with regs := { c.regs with aStride := c.regs.aStride.set n ((c.regs.aStride.get n).set k v) } }
  | .aZero n => { c with regs := { c.regs with aStride := c.regs.aStride.set n (Vector.replicate 6 0#64) } }
  | .pred n m v => { c with regs := { c.regs with p := c.regs.p.set n ((v &&& m) ||| (c.regs.p.get n &&& ~~~m)) } }
  | .vec n m v => { c with regs := { c.regs with v := c.regs.v.set n (mergeLanes m v (c.regs.v.get n)) } }
  | .acc n cells => { c with regs := { c.regs with m := c.regs.m.set n { c.regs.m.get n with seen := cells } } }
  | .scale n m codes =>
    { c with regs := { c.regs with
        e := c.regs.e.set n (Vector.ofFn fun i => if m.getLsbD i.val then codes.get i else (c.regs.e.get n).get i) } }
  | .witness n w =>
    { c with regs := { c.regs with w := c.regs.w.set n { w with live := true, gen := (c.regs.w.get n).gen + 1 } } }
  | .witFree n => { c with regs := { c.regs with w := c.regs.w.set n (Wit.empty (c.regs.w.get n).gen) } }
  | .witLoad n w => { c with regs := { c.regs with w := c.regs.w.set n w } }
  | .special n v =>
    match n.val with
    | 0x010 => { c with sp := { c.sp with fel := v &&& 0x87F7FFFFFFFFFFF8 } }
    | 0x011 => { c with sp := { c.sp with fflags := v.truncate 9 } }
    | 0x012 => { c with sp := { c.sp with rmode := if v.toNat % 8 < 5 then v.truncate 3 else 0 } }
    | 0x013 => { c with sp := { c.sp with rngk := v } }
    | 0x014 => { c with sp := { c.sp with rotv := v.truncate 7 } }
    | 0x015 => { c with sp := { c.sp with rotp := v.truncate 5 } }
    | 0x016 => { c with sp := { c.sp with rnorm := v } }
    | 0x017 => { c with sp := { c.sp with rbnorm := v } }
    | 0x020 => { c with kiosk := { c.kiosk with khnd := v.truncate 48 } }
    | 0x021 => { c with kiosk := { c.kiosk with kthr := v.truncate 32 } }
    | 0x022 => { c with kiosk := { c.kiosk with krtb := v.truncate 17 } }
    | 0x023 => { c with kiosk := { c.kiosk with krtn := v.truncate 13 } }
    | _ => c
  | .rotate p32 =>
    let rp := c.sp.rotp - 1
    let n : Fin 64 := Fin.ofNat 64 (32 + rp.toNat)
    { c with
      sp := { c.sp with rotv := c.sp.rotv - 1, rotp := rp }
      regs := { c.regs with p := c.regs.p.set n (if p32 then BitVec.allOnes 64 else 0) } }
  | .stoch tid base draw => { c with sp := { c.sp with tid := tid, base := base, draw := draw } }
  | .tag slot valid t =>
    { c with tags := if valid then c.tags.set slot.val t else c.tags.del slot.val }
  | .norm v =>
    { c with
      sp := { c.sp with rnorm := v }
      rf := c.rf.map fun r => { r with normed := r.normed || r.phase == .resid } }

/-- The bypass in the tick a result lands: the latest-issued result of each unit (03 R63). -/
def Bypass.put (b : Bypass) : Option BpVal → Bypass
  | .none => b
  | some (.s v) => { b with s := some v }
  | some (.l v) => { b with l := some v }
  | some (.v0 v) => { b with v0 := some v }
  | some (.v1 v) => { b with v1 := some v }
  | some (.lv v) => { b with lv := some v }
  | some (.m v) => { b with m := some v }

/-- A result lands: its registers, its bypass, its events (03 R55 R58 R63). -/
def Ctx.landOne (c : Ctx) (r : Result) : Ctx :=
  let c := r.writes.foldl (fun c w => w.apply c) c
  { c with bp := c.bp.put r.bp, sp := c.sp.event r.addr r.pos r.events }

/-- Issue order: by tick of issue, then by position in the bundle. -/
def Result.before (a b : Result) : Bool := a.born < b.born || (a.born == b.born && a.pos < b.pos)

/-- Insertion into a list in issue order. -/
def insertResult (r : Result) : List Result → List Result
  | [] => [r]
  | x :: l => if r.before x then r :: x :: l else x :: insertResult r l

/-- The results that are due land in issue order; the others stay (03 R59). A MOVS to `$fflags` or `$fel` overwrites the events of
results issued before it that land with it (DESIGN CHOICE, assumption log 62). -/
def Ctx.landDue (c : Ctx) : Ctx :=
  let due := (c.flight.filter (fun r => r.rem == 0)).foldl (fun l r => insertResult r l) []
  due.foldl Ctx.landOne { c with flight := c.flight.filter (fun r => r.rem != 0) }

/-- One non-frozen tick passes for every result in flight, after the events of the tick itself, and those whose latency ends
land; the bypasses show what lands in this tick only (03 R55 R58 R63). -/
def Ctx.landTick (c : Ctx) : Ctx :=
  let c := c.landDue
  Ctx.landDue { c with
    bp := Bypass.none
    flight := c.flight.map fun r => { r with rem := r.rem - 1 } }

/-- Every result in flight lands, in the order of its remaining ticks (02 R39). -/
def Ctx.landAll (c : Ctx) : Nat → Ctx
  | 0 => c
  | n + 1 => if c.flight.isEmpty then c else (c.landTick).landAll n

/-- A result of the syllable that executes. A result of an accumulator lands no earlier than those issued before it
(10 R223). -/
def Ctx.put (c : Ctx) (i : Issue) (born lat : Nat) (ws : List RegWrite) (bp : Option BpVal) (ev : Ev)
    (compat : Bool := false) (acc : Option (Fin 4) := none) : Ctx :=
  let prior := match acc with
    | none => 0
    | some _ => (c.flight.filter (fun r => r.accOf == acc)).foldl (fun n r => max n r.rem) 0
  { c with flight := c.flight ++ [⟨max lat prior, ws, bp, ev, i.addr, i.pos, born, compat, acc⟩] }

def State.put (s : State) (lat : Nat) (ws : List RegWrite) (bp : Option BpVal) (ev : Ev := 0) : State :=
  { s with cur := s.cur.put s.issue s.cur.sp.scnt.toNat lat ws bp ev }

/-- An event that the syllable raises in its issue tick (03 R55 R63). -/
def State.raise (s : State) (ev : Ev) : State := if ev = 0 then s else s.put 0 [] none ev

/-! ### Stopping a context and taking a fault (02 R39 R40, 15 R311, 25 R363) -/

/-- An operation that changes memory. -/
def OutOp.isAtomic (o : OutOp) : Bool :=
  match o with
  | .atomic .. | .vamor .. => true
  | _ => false

/-- The value of an interlocked operation reaches a vector register. -/
def writeVec (d : Option (Fin 640)) (v : Vec) (c : Ctx) : Ctx :=
  match d with
  | none => c
  | some n => { c with regs := { c.regs with v := c.regs.v.set n v } }

/-- The data of the XRECVs whose ticks have passed reaches its register (14 R291). -/
def Ctx.takeLanded (c : Ctx) : Ctx :=
  c.outst.foldl (fun c o => match o.op with
    | .land d v 0 => writeVec d v c
    | _ => c) { c with outst := c.outst.filter fun o => match o.op with
      | .land _ _ 0 => false
      | _ => true }

/-- One tick, frozen or not, passes for the data of an XRECV (14 R291). -/
def Ctx.landStep (c : Ctx) : Ctx :=
  Ctx.takeLanded { c with outst := c.outst.map fun o => match o.op with
    | .land d v n => { o with op := .land d v (n - 1) }
    | _ => o }

/-- A context stops at a bundle boundary and waits for nothing more: what its bundles have issued completes (02 R39). -/
def Ctx.stop (c : Ctx) : Ctx := { c with run := .stopped, holds := [], idle := 0, rf := none, loop := LoopState.none }

def lo32 (a b : Nat) : Word64 := BitVec.ofNat 64 (a % 2 ^ 32 + 2 ^ 32 * (b % 2 ^ 32))

/-- The fault record of a context (25 R363). -/
def faultRecord (c : Ctx) (g : Grid) (f : FaultWords) : List Word64 :=
  let core := if f.code = 12 ∨ f.code = 16 then 0 else c.gid
  let crd (i : Nat) : Nat := ((c.sp.crd.toList).getD i 0).toNat
  [ BitVec.ofNat 64 (f.code + 2 ^ 8 * f.mask.toNat + (if c.second then 2 ^ 16 else 0) + 2 ^ 32 * core
      + 2 ^ 48 * c.ctxId.toNat),
    BitVec.ofNat 64 (g.seq % 2 ^ 32 + 2 ^ 32 * g.queue),
    BitVec.ofNat 64 (f.addr.toNat % 2 ^ 48 / 8 * 8),
    lo32 (crd 0) (crd 1), lo32 (crd 2) (crd 3), lo32 (crd 4) (crd 5), f.d0, f.d1 ]

/-- Waits of a grid that ends are withdrawn, and an entry with no walk left frees (25 R359). -/
def Func.withdraw (f : Func) (gid : Nat) : Func :=
  { f with twaits := (f.twaits.map fun t => { t with keys := t.keys.filter fun k => k.1 != gid }).filter fun t => !t.keys.isEmpty }

/-- A circuit engine with no command left. -/
def Engine.idle (e : Engine) : Bool := e.queue.isEmpty && e.loading.isNone && e.pass.isNone

/-- The engine of a grid that ends is unbound once its commands have completed (11 R228 R246). -/
def Engine.leave (e : Engine) (gid : Nat) : Engine :=
  if e.bound = some gid ∧ e.idle then { Engine.reset with store := e.store } else e

/-- Payloads of a grid that wait at a port are discarded (14 R290). -/
def Port.discard (p : Port) (gid : Nat) : Port :=
  { p with
    wait := p.wait.filter (·.grid != gid), again := p.again.filter (·.grid != gid)
    last := p.last.filter (·.grid != gid) }

/-- A grid ends with a fault: its strands stop, what has been issued goes on, the payloads that have not been read are
discarded, and the first record stands (02 R39 R40, 11 R228, 14 R290). -/
def State.endGrid (s : State) (gid : Nat) (rec : List Word64) : State :=
  match s.grids.get? gid with
  | none => s
  | some g =>
    if g.state = .running ∨ g.state = .preempted then
      let s := { s with
        grids := s.grids.set gid { g with state := .faulted, fault := some rec }
        funcs := s.funcs.map fun (e : Nat × Func) => (e.1, e.2.withdraw gid)
        fabric := s.fabric.filter fun p => p.grid != gid
        ports := s.ports.map fun (p : Nat × Port) => (p.1, p.2.discard gid)
        engines := s.engines.map fun (e : Nat × Engine) => (e.1, e.2.leave gid) }
      s.updKeys g.keys Ctx.stop
    else s

/-- The grids with a message in a kiosk's mailbox or in service. -/
def Kiosk.grids (k : Kiosk) : List Nat := ((k.serv.toList ++ k.mbox).map Message.grid).eraseDups

/-- Record of a grid that a kiosk fault ends: code 12, the kiosk, and the kiosk's own code (15 R311). -/
def kioskRecord (s : State) (kid gid : Nat) (f : FaultWords) : List Word64 :=
  match s.grids.get? gid with
  | none => []
  | some g =>
    [ BitVec.ofNat 64 (12 + 2 ^ 48 * g.ctx.toNat), BitVec.ofNat 64 (g.seq % 2 ^ 32 + 2 ^ 32 * g.queue), 0, 0, 0, 0,
      BitVec.ofNat 64 kid, if f.code = 1 ∧ f.d0.getLsbD 63 then f.d0 else BitVec.ofNat 64 f.code ]

/-- A kiosk core halts, posts its record, and the grids it serves end (15 R311). -/
def State.kioskHalt (s : State) (f : FaultWords) : State :=
  let k := s.cur
  let rec_ : List Word64 :=
    [ BitVec.ofNat 64 (f.code + 2 ^ 8 * f.mask.toNat + 2 ^ 48 * k.ctxId.toNat), 0,
      BitVec.ofNat 64 (f.addr.toNat % 2 ^ 48 / 8 * 8), 0, 0, 0, f.d0, f.d1 ]
  let s := s.mapCur fun c => { c.stop with kiosk := { c.kiosk with fault := some rec_ } }
  k.kiosk.grids.foldl (fun s g => s.endGrid g (kioskRecord s k.gid g f)) s

/-- The lowest syllable position of a mask; 8 where no syllable applies. -/
def lowestPos (f : FaultWords) : Nat := (List.range 8).findIdx fun i => f.mask.getLsbD i

/-- Of two faults of one tick, each with the key of its context, the lower core's comes first, then the lower position's (02 R40). -/
def ahead (a b : Nat × FaultWords) : Bool :=
  lsCore a.1 < lsCore b.1 || (lsCore a.1 == lsCore b.1 && lowestPos a.2 < lowestPos b.2)

def insertFault {α : Type} (f : α → Nat × FaultWords) (x : α) : List α → List α
  | [] => [x]
  | y :: l => if ahead (f x) (f y) then x :: y :: l else y :: insertFault f x l

/-- Things in the order in which the faults that `f` gives them are received (02 R40). -/
def inFaultOrder {α : Type} (f : α → Nat × FaultWords) (xs : List α) : List α := xs.foldl (fun l x => insertFault f x l) []

/-- TAKING A FAULT: the one operation by which every fault of 25 R364 is taken. A strand's fault ends its grid with one
record; a kiosk core's halts the core and ends the grids it serves; a context with no grid just stops. `trap` keeps the
words for the bundle that is under way (02 R39) (DEDUCED, assumption log 27). -/
def State.takeFault (s : State) (f : FaultWords) : State :=
  let s := { s with trap := some f }
  match s.cur.kind with
  | .compute =>
    match s.cur.grid, s.grid? with
    | some gid, some g => (s.mapCur Ctx.stop).endGrid gid (faultRecord s.cur g f)
    | _, _ => s.mapCur Ctx.stop
  | _ => s.kioskHalt f

/-- One more, saturating (27 R380). -/
def satInc (w : Word32) : Word32 := if w = BitVec.allOnes 32 then w else w + 1

/-- An uncorrectable error is counted, with its kind and place (27 R379 R380). -/
def State.countUE (s : State) (f : FaultWords) : State :=
  if f.code = 14 then
    { s with uecnt := satInc s.uecnt, uekind := f.d1.truncate 4, ueloc := f.d0.extractLsb' 12 52 }
  else s

/-- The mask with the bit of the syllable that executes. -/
def posMask (p : Fin 8) : BitVec 8 := BitVec.ofNat 8 (2 ^ p.val)

/-- The syllable that executes takes a fault. -/
def State.fault (s : State) (code : Nat) (d0 d1 : Word64) : Out :=
  .next (s.takeFault ⟨code, posMask s.issue.pos, s.issue.addr, d0, d1⟩)

/-- A fault's code and detail words, before it is taken. -/
abbrev Flt := Nat × Word64 × Word64

/-- An access that its target turned away: by the access table, or by a seal (23 R339 R341). -/
def Flt.turnedAway (f : Flt) : Bool := (f.1 == 5 && bits f.2.2.toNat 0 8 == 4) || f.1 == 6

/-- What a failed access of the management core does: nothing performs, and the core goes on (23 R339). -/
def Ctx.goesOn (c : Ctx) (f : Flt) : Bool := c.firmware && f.turnedAway

def State.fail (s : State) (f : Flt) : Out := if s.cur.goesOn f then .next s else s.fault f.1 f.2.1 f.2.2

/-- Illegal instruction with nothing in its detail (25 R364). -/
def State.illegal (s : State) : Out := s.fault 1 0 0

/-- A fault taken on behalf of a command that issued earlier. -/
def State.failAt (s : State) (f : Flt) (addr : Word64) (pos : Fin 8) : Out :=
  .next (s.takeFault ⟨f.1, posMask pos, addr, f.2.1, f.2.2⟩)

/-! ### The local store (06 R128 to R132 R390) -/

/-- Alignment first, then the footprint (06 R390). `acc`: 0 load, 1 store, 2 atomic, 4 engine (25 R364). -/
def lsFault (foot : Nat) (a : Word64) (len al acc : Nat) : Option Flt :=
  if a.toNat % al ≠ 0 then some (7, a, BitVec.ofNat 64 acc)
  else if a.toNat + len > foot then some (5, a, 2)
  else none

/-- Kinds of a static requester (06 R132). -/
def reqL : Nat := 1
def reqA : Nat := 2
def reqB : Nat := 3
def reqRemote : Nat := 4

/-- An LS request of the tick under way: static for a primary context, elastic for a secondary; a kiosk store has no banks
(06 R130, 15 R296). -/
def State.lsReq (s : State) (kind key addr len : Nat) (write : Bool) : State :=
  if s.cur.kind ≠ .compute ∨ len = 0 then s
  else { s with
    lsReqs := s.lsReqs ++ [⟨key, kind, s.cur.index, addr, len, write, s.focus, s.issue.addr, s.issue.pos, s.cur.second⟩] }

/-- The 64-byte lines of `len` bytes from `addr` on. -/
def linesAt (addr len : Nat) : List Nat :=
  if len = 0 then [] else (List.range ((addr + len - 1) / 64 + 1 - addr / 64)).map (· + addr / 64)

/-- Their banks (06 R129). -/
def banksAt (addr len : Nat) : List Nat := (linesAt addr len).map (· % 32)

def LsReq.lines (r : LsReq) : List Nat := linesAt r.addr r.len

/-- The lowest bank that two static requests on one LS share, unless they merge (06 R132 R135). -/
def LsReq.clash (a b : LsReq) : Option Nat :=
  if a.key ≠ b.key ∨ a.elastic ∨ b.elastic then none
  else if a.kind = 4 ∧ b.kind = 4 ∧ !a.write ∧ !b.write ∧ a.core ≠ b.core ∧ a.lines = b.lines then none
  else ((a.lines.map (· % 32)).filter (fun x => (b.lines.map (· % 32)).contains x)).foldl
    (fun m x => some (match m with | none => x | some y => min x y)) none

/-- What a store of several LS ticks has still to write. -/
def LsOp.pending (o : LsOp) : Option (Nat × List Byte) :=
  match o with
  | .storeRows a rows => some (a, rows.flatMap vecBytes)
  | .witSaveTail a bs => some (a, bs)
  | _ => none

/-- The LS as the context's own next bundle sees it: stores of several LS ticks included (08 R172, 12 R262). -/
def Ctx.lsView (c : Ctx) : Memory :=
  c.lsPend.foldl (fun m p => match p.op.pending with
    | some (a, bs) => m.writeN a bs
    | none => m) c.ls

/-- Bytes of the LS of the context in focus. -/
def State.lsRead (s : State) (a n : Nat) : List Byte := s.cur.lsView.readN a n

def State.lsWrite (s : State) (a : Nat) (bs : List Byte) : State := s.mapCur fun c => { c with ls := c.ls.writeN a bs }

def State.lsWriteOf (s : State) (key a : Nat) (bs : List Byte) : State :=
  s.updCtx key fun c => { c with ls := c.ls.writeN a bs }

/-- The context of the same grid on core `core` of the issuing cluster (06 R135) (DEDUCED, assumption log 23). -/
def State.peer (s : State) (core : Fin 16) : Option Nat :=
  let gid := 16 * s.cur.cluster + core.val
  let ks := [2 * gid, 2 * gid + 1]
  match s.cur.grid with
  | none => if gid = s.cur.gid then some s.focus else none
  | some g => ks.find? (fun k => (s.ctx k).grid == some g)

/-- A context whose LS is reached: its key, and the grid that holds it while it is pre-empted (02 R42). -/
structure LsAt where
  key   : Nat
  saved : Option Nat
  deriving DecidableEq, Repr

def State.lsCtx (s : State) (a : LsAt) : Ctx :=
  match a.saved with
  | none => s.ctx a.key
  | some n => ((s.grids.get? n).bind (·.saved.get? a.key)).getD (Ctx.ofKey a.key)

/-- Bytes stored into the LS of a context, resident or saved. -/
def State.lsStore (s : State) (a : LsAt) (off : Nat) (bs : List Byte) : State :=
  match a.saved with
  | none => s.lsWriteOf a.key off bs
  | some n => s.updGrid n fun g =>
      match g.saved.get? a.key with
      | some c => { g with saved := g.saved.set a.key { c with ls := c.ls.writeN off bs } }
      | none => g

/-- A change of a context, resident or saved. -/
def State.updAt (s : State) (a : LsAt) (f : Ctx → Ctx) : State :=
  match a.saved with
  | none => s.updCtx a.key f
  | some n => s.updGrid n fun g => match g.saved.get? a.key with
      | some c => { g with saved := g.saved.set a.key (f c) }
      | none => g

/-- Where the context of a grid with a key is: in its slot, or with the pre-empted grid. -/
def State.holder (s : State) (gid key : Nat) : LsAt := ⟨key, if (s.ctx key).grid = some gid then none else some gid⟩

/-- The context of the same grid on core `core` of the issuing cluster, pre-empted ones included (06 R135, 02 R42). -/
def State.peerAt (s : State) (core : Fin 16) : Option LsAt :=
  match s.peer core with
  | some k => some ⟨k, none⟩
  | none =>
    let gid := 16 * s.cur.cluster + core.val
    match s.cur.grid with
    | none => none
    | some n => match s.grids.get? n with
      | none => none
      | some g => ([2 * gid, 2 * gid + 1].find? fun k => (g.saved.get? k).isSome).map fun k => ⟨k, some n⟩

/-- The target context of a remote access of `len` bytes, or the fault its operand raises (06 R135). -/
def State.remote (s : State) (core : Fin 16) (a : Word64) (len acc : Nat) : Except Flt LsAt :=
  if a.toNat % 64 ≠ 0 then .error (7, a, BitVec.ofNat 64 acc)
  else match s.peerAt core with
    | none => .error (5, BitVec.ofNat 64 core.val, 11)
    | some k =>
      match lsFault (s.lsCtx k).foot a len 64 acc with
      | some f => .error f
      | none => .ok k

/-! ### Global memory (06 R136 to R141, 23 R338 to R342, 24 R349) -/

def lttHas (e : Word64 × Word64) (va : Nat) : Bool :=
  let base := bits e.1.toNat 21 27
  e.1.getLsbD 0 && decide (base * 2 ^ 21 ≤ va) && decide (va < (base + bits e.1.toNat 48 16) * 2 ^ 21)

def lttFind (t : Vector (Word64 × Word64) 64) (va : Nat) : Option (Word64 × Word64) := t.toList.find? (lttHas · va)

def lttPhys (e : Word64 × Word64) (va : Nat) : Nat := bits e.2.toNat 21 31 * 2 ^ 21 + (va - bits e.1.toNat 21 27 * 2 ^ 21)

/-- A translated access: physical address and buffer number. -/
abbrev Pa := Nat × Fin 64

/-- Translation through the LTT, with the checks in the order of 06 R390. `perm`: 1 read, 2 write, 3 atomics, 4 fetch. -/
def lttXlate (t : Vector (Word64 × Word64) 64) (va : Word64) (len al acc perm : Nat) : Except Flt Pa :=
  let a := va.toNat
  if a % al ≠ 0 then .error (7, va, BitVec.ofNat 64 acc)
  else if a ≥ 2 ^ 48 then .error (4, va, BitVec.ofNat 64 acc)
  else match lttFind t a with
    | none =>
      .error (4, va, BitVec.ofNat 64 (acc + if (List.range len).any (fun i => (lttFind t (a + i)).isSome) then 8 else 0))
    | some e =>
      if lttHas e (a + len - 1) then
        if e.1.getLsbD perm then .ok (lttPhys e a, Fin.ofNat 64 (bits e.1.toNat 5 6)) else .error (5, va, 1)
      else .error (4, va, BitVec.ofNat 64 (acc + 8))

/-- Translation through a handle (06 R139 R390). -/
def handleXlate (h : Option Handle) (va : Word64) (len al acc perm : Nat) : Except Flt Pa :=
  if va.toNat % al ≠ 0 then .error (7, va, BitVec.ofNat 64 acc)
  else match h with
    | none => .error (5, va, 3)
    | some h =>
      let ok := match perm with
        | 1 => h.r
        | 2 => h.w
        | 3 => h.at_
        | _ => h.x
      if h.va ≤ va.toNat ∧ va.toNat + len ≤ h.va + h.size then
        if ok then .ok (h.pa + (va.toNat - h.va), h.buf) else .error (5, va, 3)
      else .error (5, va, 3)

/-- The listed range of a physical address (DESIGN CHOICE, assumption log 3). -/
def State.range? (s : State) (pa : Nat) : Option PRange := s.pmap.find? (fun r => r.base ≤ pa && pa < r.base + r.size)

/-- Bytes of one HBM stack: 48 GiB, one stack on each of eight base dies (01 R11). -/
def hbmSize : Nat := 48 * 2 ^ 30

/-- What stands for an address that nothing serves: a target id that R338 gives to no target. -/
def noTarget : Nat := 0xFF

/-- Unlisted addresses are the HBM stacks of base dies 0 to 7, one after another; a listed range of a stack serves no more than the
stack has (DESIGN CHOICE, assumption log 3). -/
def State.target (s : State) (pa : Nat) : Nat :=
  match s.range? pa with
  | some r =>
    if r.target ≥ 0x1000 then 0x80
    else if r.target < 8 ∧ pa - r.base ≥ hbmSize then noTarget
    else r.target
  | none => if pa < 8 * hbmSize then pa / hbmSize else noTarget

/-- The function whose signal counters stand at a physical address (24 R349). -/
def State.ctrFunc (s : State) (pa : Nat) : Option (Nat × Nat) :=
  match s.range? pa with
  | some r => if r.target ≥ 0x1000 then some (r.target - 0x1000, (pa - r.base) / 8) else none
  | none => none

/-- A target that is in service: a base die's with its HBM and its kiosks, a compute die's, a circuit engine's with its die (27 R386,
23 R338; DESIGN CHOICE, assumption log 58). -/
def State.serves (s : State) (tgt : Nat) : Bool :=
  if tgt < 8 then !s.boot.badBases.contains tgt && !s.boot.badDies.contains (tgt / 2)
  else if tgt < 0x0C then !s.boot.badDies.contains (tgt - 8)
  else if 0x0D ≤ tgt ∧ tgt < 0x11 then !s.boot.badDies.contains (tgt - 0x0D)
  else if 0x11 ≤ tgt ∧ tgt < 0x19 then !s.boot.badBases.contains (tgt - 0x11) && !s.boot.badDies.contains ((tgt - 0x11) / 2)
  else if 0x40 ≤ tgt ∧ tgt < 0x80 then !s.boot.badDies.contains ((tgt - 0x40) / 16)
  else tgt != noTarget

/-- The access-table entry of a target and master admits the access: bit 0 reads, 1 writes, 2 atomics, 3 fetch
(23 R338 R339) (DEDUCED, assumption log 30). -/
def State.admits (s : State) (tgt mid bit : Nat) (ctx : Option (BitVec 8)) : Bool :=
  let e := ((s.access.get? (tgt * 4096 + mid)).getD 0#32)
  s.serves tgt && e.getLsbD bit && (!e.getLsbD 4 || ctx == some (e.extractLsb' 8 8))

/-- An installed seal or audit-log range that a write touches: its register (23 R341 R343). -/
def State.sealed (s : State) (pa len : Nat) : Option Nat :=
  let hit (base : BitVec 36) (n : Nat) : Bool :=
    decide (pa < base.toNat * 2 ^ 16 + n * 2 ^ 16) && decide (base.toNat * 2 ^ 16 < pa + len)
  match s.seals.find? (fun e => hit e.2.base e.2.len) with
  | some e => some e.1
  | none => (s.logs.find? (fun e => hit e.2.base e.2.len)).map Prod.fst

/-- The first line of a range with an uncorrectable error (27 R379). -/
def State.badLine (s : State) (pa len : Nat) : Option Nat :=
  s.bad.find? fun l => decide (pa / 64 ≤ l) && decide (64 * l < pa + len)

/-- The host link of a context's function retrains: accesses over it complete with error (27 R377) (DEDUCED, assumption log 44). -/
def State.linkDown (s : State) (ctx : BitVec 8) : Bool := (s.func (s.ctxRegs ctx.toNat).func.toNat).linkErr

/-- What a read of memory meets behind its target's checks: a host link that retrains, or a line with an error (27 R377 R379). -/
def State.readFault (s : State) (ctx : BitVec 8) (pa len : Nat) : Option Flt :=
  if s.target pa = 0x0C ∧ s.linkDown ctx then some (14, BitVec.ofNat 64 pa, 0)
  else (s.badLine pa len).map fun l => (14, BitVec.ofNat 64 (64 * l), 2)

/-- The checks at the target: access table, then seals, then the signal-counter mapping, then the host link, then the memory's own
check: a line with an uncorrectable error is reported to its next reader (27 R379). `acc`: 0 load, 1 store, 2 atomic, 3 fetch. -/
def State.physFault (s : State) (mid : Nat) (ctx : BitVec 8) (va : Word64) (pa len acc : Nat) (add : Bool := false) :
    Option Flt :=
  let t := s.target pa
  if !s.admits t mid acc (some ctx) then some (5, va, BitVec.ofNat 64 (4 + 256 * t))
  else match (if acc = 1 ∨ acc = 2 then s.sealed pa len else none) with
    | some r => some (6, BitVec.ofNat 64 pa, BitVec.ofNat 64 r)
    | none =>
      if (s.ctrFunc pa).isSome ∧ ¬ (acc = 0 ∨ (acc = 2 ∧ add)) then some (5, va, 12)
      else if acc = 1 then (if t = 0x0C ∧ s.linkDown ctx then some (14, BitVec.ofNat 64 pa, 0) else none)
      else s.readFault ctx pa len

def Func.ctr (f : Func) (n : Nat) : Word64 := (f.ctrs.get? n).getD 0

/-- One physical byte as it stands: host memory behind the host link egress, a signal counter, or device memory. -/
def State.pbyte (s : State) (pa : Nat) : Byte :=
  match s.ctrFunc pa with
  | some (f, n) => BitVec.ofNat 8 (((s.func f).ctr n).toNat / 256 ^ (pa % 8))
  | none => if s.target pa = 0x0C then s.hostMem.read pa else s.mem.read pa

def State.pread (s : State) (pa n : Nat) : List Byte := (List.range n).map fun i => s.pbyte (pa + i)

/-- Bytes perform at physical memory. A signal counter takes a whole word. -/
def State.pwrite (s : State) (pa : Nat) (bs : List Byte) : State :=
  match s.ctrFunc pa with
  | some (f, n) => s.updFunc f fun x => { x with ctrs := x.ctrs.set n (BitVec.ofNat 64 (leNat bs)) }
  | none =>
    if s.target pa = 0x0C then { s with hostMem := s.hostMem.writeN pa bs } else { s with mem := s.mem.writeN pa bs }

/-- Payload bytes of a buffer are counted when they perform (06 R145). -/
def State.countBytes (s : State) (ctx : BitVec 8) (buf : Fin 64) (n : Nat) : State :=
  let r := s.ctxRegs ctx.toNat
  { s with ctxs := s.ctxs.set ctx.toNat { r with bytes := r.bytes.set buf (r.bytes.get buf + BitVec.ofNat 64 n) } }

/-- One stall tick of a buffer (06 R145). -/
def State.countStall (s : State) (ctx : BitVec 8) (buf : Fin 64) : State :=
  let r := s.ctxRegs ctx.toNat
  { s with ctxs := s.ctxs.set ctx.toNat { r with stalls := r.stalls.set buf (r.stalls.get buf + 1) } }

/-- The request-queue owner of the context in focus: its core. -/
def Ctx.reqCore (c : Ctx) : Nat := c.coreId

/-- The new value of a word of `w` bits under an atomic (08 R180 R181). -/
def amoOp {w : Nat} (op : AmoOp) (old v : BitVec w) : BitVec w :=
  match op with
  | .add => old + v
  | .and => old &&& v
  | .or => old ||| v
  | .xor => old ^^^ v
  | .min => if v.slt old then v else old
  | .max => if old.slt v then v else old
  | .minu => if v.ult old then v else old
  | .maxu => if old.ult v then v else old
  | .swap => v

/-- The new word of an atomic. -/
def AtomicOp.apply (o : AtomicOp) (old : Word64) : Word64 :=
  match o with
  | .amo op v => amoOp op old v
  | .cas c n => if old = c then n else old

/-! ### Tokens (06 R143) -/

def Ctx.tok (c : Ctx) (t : Fin 63) : Tok := c.regs.tok.get t

def Ctx.setTok (c : Ctx) (t : Fin 63) (v : Tok) : Ctx := { c with regs := { c.regs with tok := c.regs.tok.set t v } }

def Ctx.setProd (c : Ctx) (p : Option (Fin 63)) (v : Tok) : Ctx :=
  match p with
  | none => c
  | some t => c.setTok t v

/-- The tokens of strand `n` of a context: commands may outlive the strand that issued them (02 R36). -/
def Ctx.tokOf (c : Ctx) (n : Nat) (t : Fin 63) : Tok :=
  if n = c.strand then c.tok t
  else match c.oldTok.get? n with
    | some v => v.get t
    | none => .idle

/-- A command of strand `n` completes: its token is done. -/
def Ctx.tokDone (c : Ctx) (n : Nat) (p : Option (Fin 63)) : Ctx :=
  if n = c.strand then c.setProd p .done
  else match p, c.oldTok.get? n with
    | some t, some v => { c with oldTok := c.oldTok.set n (v.set t .done) }
    | _, _ => c

def Ctx.toksDone (c : Ctx) (ts : List (Fin 63)) : Bool := ts.all fun t => c.tok t == .done

/-- Token misuse, checked at issue: a produced token pending, then a consumed token idle (06 R143, 25 R364). -/
def Ctx.tokFault (c : Ctx) (prod : Option (Fin 63)) (cons : List (Fin 63)) : Option Flt :=
  match prod with
  | some t => if c.tok t = .pending then some (9, BitVec.ofNat 64 t.val, 1) else idle
  | none => idle
where
  idle : Option Flt :=
    match cons.find? (fun t => c.tok t == .idle) with
    | some t => some (9, BitVec.ofNat 64 t.val, 2)
    | none => none

/-- Hold the context in focus (02 R28). -/
def State.hold (s : State) (h : Hold) : State := s.mapCur fun c => { c with holds := c.holds ++ [h] }

/-- A free value is drawn: the counter moves on (DESIGN CHOICE, assumption log 6). -/
def State.draw (s : State) : State := { s with freeCount := s.freeCount + 1 }

end Machine
end Sys2Proof
end

