-- ==== Sys2Proof/Machine/Operands.lean ====
section
/-! DEFINITION. Operand forms: predicates and their rotation, scalar, vector, pair, tile and group operands, special
registers, address operands, and the placing of results (03 R47 to R65, 04 R76, 07 R147, 08 R170, 09 R195 to R197). -/
namespace Sys2Proof

/-- The registers that a B operand reads. -/
def SrcB.regs : SrcB → List SReg
  | .reg r => [r]
  | .imm _ => []

/-- The register `k` places after a register; a bypass has none and reads as itself. -/
def VReg.plus (r : VReg) (k : Nat) : VReg :=
  match r with
  | .v n => .v (Fin.ofNat 640 (n.val + k))
  | x => x

def SReg.writes (d : SReg) (v : Word64) : List Machine.RegWrite :=
  match d with
  | .s n => if n = 0 then [] else [.sreg n v]
  | .a n => [.aBase n v]
  | _ => []

/-- The destination of an interlocked scalar value. -/
def SReg.dst : SReg → Machine.SDst
  | .s n => .s n
  | .a n => .a n
  | _ => .none

/-- Bytes of a scalar access (08 R171). -/
def Size.bytes : Size → Nat
  | .b | .sb => 1
  | .h | .sh => 2
  | .w | .sw => 4
  | .d => 8

/-- The loaded value of a scalar access (08 R171). -/
def Size.load (z : Size) (bs : List Byte) : Word64 :=
  let v := Machine.leNat bs
  match z with
  | .sb => (BitVec.ofNat 8 v).signExtend 64
  | .sh => (BitVec.ofNat 16 v).signExtend 64
  | .sw => (BitVec.ofNat 32 v).signExtend 64
  | _ => BitVec.ofNat 64 v

/-- Bytes of a gathered element, and the loaded lane (08 R176). -/
def GathSize.bytes : GathSize → Nat
  | .b | .sb => 1
  | .h | .sh => 2
  | .w => 4

def GathSize.load (z : GathSize) (bs : List Byte) : Word32 :=
  let v := Machine.leNat bs
  match z with
  | .sb => (BitVec.ofNat 8 v).signExtend 32
  | .sh => (BitVec.ofNat 16 v).signExtend 32
  | _ => BitVec.ofNat 32 v

namespace Machine

/-! ### The loop registers (03 R48 R50) -/

/-- `$lck` (03 R50). -/
def Ctx.lc (c : Ctx) (k : Fin 6) : Nat :=
  match c.loop.nest with
  | some n => n.lc.get k
  | none => 0

/-- The count of level k of the running nest, for a level that a LOOP has set up. -/
def Ctx.levelCount (c : Ctx) (k : Fin 6) : Option Nat :=
  match c.loop.nest with
  | some n => if k = 0 then some n.c0 else c.loop.armed.get k
  | none => none

def allLanes (b : Bool) : Mask := if b then BitVec.allOnes 64 else 0

/-- p1 to p12: first and last iteration of level k (03 R49 R50). -/
def Ctx.loopPred (c : Ctx) (n : Nat) : Mask :=
  let k : Fin 6 := Fin.ofNat 6 ((n - 1) / 2)
  match c.levelCount k with
  | none => 0
  | some m => allLanes (if n % 2 = 1 then c.lc k == 0 else c.lc k + 1 == m)

/-- The physical register of a rotating predicate name (03 R65). -/
def Ctx.physP (c : Ctx) (n : Fin 64) : Fin 64 :=
  if n.val < 32 then n else Fin.ofNat 64 (32 + (n.val - 32 + c.sp.rotp.toNat) % 32)

/-- The physical register of a rotating vector name (03 R65). -/
def Ctx.physV (c : Ctx) (n : Fin 640) : Fin 640 :=
  if n.val < 512 then n else Fin.ofNat 640 (512 + (n.val - 512 + c.sp.rotv.toNat) % 128)

/-- The lanes of a predicate register as the program reads it (03 R49). -/
def Ctx.pred (c : Ctx) (n : Fin 64) : Mask :=
  if n.val = 0 then BitVec.allOnes 64
  else if n.val ≤ 12 then c.loopPred n.val
  else c.regs.p.get (c.physP n)

/-- The effective value of a stream register: base plus Σ `$lck` × stride (03 R48). -/
def Ctx.aVal (c : Ctx) (n : Fin 16) : Word64 :=
  (List.finRange 6).foldl (fun v k => v + BitVec.ofNat 64 (c.lc k) * (c.regs.aStride.get n).get k) (c.regs.aBase.get n)

/-! ### Guards (03 R57) -/

/-- The lanes in which a guard lets a syllable act. -/
def State.lanes (s : State) (g : Guard) : Mask := if g.sense then ~~~(s.cur.pred g.pred) else s.cur.pred g.pred

/-- The test of an S, L or M syllable and of a whole-vector operation: lane 0. -/
def State.on (s : State) (g : Guard) : Bool := (s.lanes g).getLsbD 0

/-- A syllable that its guard turns off does nothing. -/
def State.when (s : State) (g : Guard) (k : Out) : Out := if s.on g then k else .next s

/-! ### Scalar operands (07 R147) -/

def State.rs (s : State) (r : SReg) : Word64 :=
  match r with
  | .s n => if n = 0 then 0 else s.cur.regs.s.get n
  | .a n => s.cur.aVal n
  | .bpS => s.cur.bp.s.getD 0
  | .bpL => s.cur.bp.l.getD 0

def State.srcB (s : State) (b : SrcB) : Word64 :=
  match b with
  | .reg r => s.rs r
  | .imm v => v.signExtend 64

/-- A bypass specifier on which nothing lands in this tick (03 R63). -/
def State.emptyS (s : State) : SReg → Bool
  | .bpS => s.cur.bp.s.isNone
  | .bpL => s.cur.bp.l.isNone
  | _ => false

def State.emptyV (s : State) : VReg → Bool
  | .bpV0 => s.cur.bp.v0.isNone
  | .bpV1 => s.cur.bp.v1.isNone
  | .bpL => s.cur.bp.lv.isNone
  | .bpM => s.cur.bp.m.isNone
  | .v _ => false

/-- Reading an empty bypass raises the empty-bypass event (03 R63). -/
def State.ebp (s : State) (ss : List SReg) (vs : List VReg := []) : State :=
  if ss.any s.emptyS || vs.any s.emptyV then s.raise Ev.ebp else s

/-! ### Vector operands (03 R51 R52, 09 R195) -/

def State.rv (s : State) (r : VReg) : Vec :=
  match r with
  | .v n => s.cur.regs.v.get (s.cur.physV n)
  | .bpV0 => s.cur.bp.v0.getD Vec.zero
  | .bpV1 => s.cur.bp.v1.getD Vec.zero
  | .bpL => s.cur.bp.lv.getD Vec.zero
  | .bpM => s.cur.bp.m.getD Vec.zero

/-- One 64-bit value for each lane. -/
abbrev Vec64 := Vector Word64 64

/-- The lanes of an operand: a pair's halves joined, else zero-extended. -/
def State.rv64 (s : State) (pair : Bool) (r : VReg) : Vec64 :=
  let lo := s.rv r
  if pair then
    let hi := s.rv (r.plus 1)
    Vector.ofFn fun i => (hi.get i) ++ (lo.get i)
  else Vector.ofFn fun i => (lo.get i).setWidth 64

/-- The 16 rows of a tile (03 R51). -/
def State.rtile (s : State) (r : VReg) : Vector Vec 16 := Vector.ofFn fun i => s.rv (r.plus i.val)

/-! ### Placing results (03 R58 R60 R63, 09 R197) -/

/-- A scalar result of the S unit. -/
def State.putS (s : State) (d : SReg) (lat : Nat) (v : Word64) (ev : Ev := 0) : State :=
  s.put lat (d.writes v) (some (.s v)) ev

/-- A scalar result of the L unit at a fixed latency. -/
def State.putL (s : State) (d : SReg) (lat : Nat) (v : Word64) : State := s.put lat (d.writes v) (some (.l v))

/-- Predicate lanes; a predicate result reaches no bypass. -/
def State.putP (s : State) (pd : Fin 64) (lat : Nat) (m v : Mask) (ev : Ev := 0) : State :=
  s.put lat [.pred (s.cur.physP pd) m v] none ev

def maskVec (m : Mask) (v : Vec) : Vec := Vec.ofLanes fun i => if m.getLsbD i.val then v.get i else 0

/-- The bypass of the V unit that the syllable takes (04 R82). -/
def State.unitBp (s : State) (v : Vec) : BpVal := if s.issue.unit1 then .v1 v else .v0 v

/-- The destination registers of consecutive values from `d` up. -/
def State.vWrites (s : State) (d : VReg) (m : Mask) (vs : List Vec) : List RegWrite :=
  match d with
  | .v n => (vs.zipIdx).map fun (v, i) => .vec (s.cur.physV (Fin.ofNat 640 (n.val + i))) m v
  | _ => []

/-- A vector result of a V unit in one register; masked lanes of the bypass are zero. -/
def State.putV (s : State) (d : VReg) (lat : Nat) (m : Mask) (v : Vec) (ev : Ev := 0) : State :=
  s.put lat (s.vWrites d m [v]) (some (s.unitBp (maskVec m v))) ev

/-- A result of a V unit in several registers: the bypass carries the last (09 R197). -/
def State.putVs (s : State) (d : VReg) (lat : Nat) (vs : List Vec) (ev : Ev := 0) (more : List RegWrite := []) : State :=
  s.put lat (s.vWrites d (BitVec.allOnes 64) vs ++ more) (some (s.unitBp (vs.getLastD Vec.zero))) ev

def loHalf (v : Vec64) : Vec := Vec.ofLanes fun i => (v.get i).setWidth 32

def hiHalf (v : Vec64) : Vec := Vec.ofLanes fun i => (v.get i).extractLsb' 32 32

/-- A lane result, in one register or a pair: a pair's bypass carries the even register (09 R197). -/
def State.putV64 (s : State) (pair : Bool) (d : VReg) (lat : Nat) (m : Mask) (v : Vec64) (ev : Ev := 0) : State :=
  if pair then s.put lat (s.vWrites d m [loHalf v, hiHalf v]) (some (s.unitBp (maskVec m (loHalf v)))) ev
  else s.putV d lat m (loHalf v) ev

/-- A vector result of the L unit at a fixed latency. -/
def State.putLV (s : State) (d : VReg) (lat : Nat) (v : Vec) : State :=
  s.put lat (s.vWrites d (BitVec.allOnes 64) [v]) (some (.lv v))

/-- The physical destination of an interlocked vector value. -/
def State.vDst (s : State) : VReg → Option (Fin 640)
  | .v n => some (s.cur.physV n)
  | _ => none

/-- An interlocked value is written when it arrives (03 R61). -/
def SDst.write (d : SDst) (v : Word64) (c : Ctx) : Ctx :=
  match d with
  | .s n => (RegWrite.sreg n v).apply c
  | .a n => (RegWrite.aBase n v).apply c
  | .none => c

/-! ### Special registers (03 R53 R54, 15 R297) -/

/-- A reserved special number (03 R53, 15 R297). -/
def specialReserved (kiosk : Bool) (n : Nat) : Bool :=
  !(n ≤ 0x019 || (kiosk && 0x020 ≤ n && n ≤ 0x025) || (0x040 ≤ n && n ≤ 0x0BF) || 0x100 ≤ n)

/-- Read-only specials (03 R53, 15 R297). -/
def specialRO (n : Nat) : Bool :=
  n ≤ 0x00F || n == 0x018 || n == 0x019 || n == 0x024 || n == 0x025 || (0x040 ≤ n && n ≤ 0x0BF)

/-- Specials that a kiosk core lacks: they read 0 and ignore writes (15 R297). -/
def specialKioskAbsent (n : Nat) : Bool := (0x002 ≤ n && n ≤ 0x00D) || (0x014 ≤ n && n ≤ 0x019)

def State.isKiosk (s : State) : Bool := s.cur.kind != .compute

/-- The value of a special register in the issue tick (03 R53, 07 R154). -/
def State.special (s : State) (n : Nat) : Word64 :=
  let c := s.cur
  let sp := c.sp
  if s.isKiosk && specialKioskAbsent n then 0
  else if 0x040 ≤ n ∧ n ≤ 0x07F then (s.ctxRegs c.ctxId.toNat).bytes.get (Fin.ofNat 64 (n - 0x40))
  else if 0x080 ≤ n ∧ n ≤ 0x0BF then (s.ctxRegs c.ctxId.toNat).stalls.get (Fin.ofNat 64 (n - 0x80))
  else if 0x002 ≤ n ∧ n ≤ 0x007 then sp.crd.get (Fin.ofNat 6 (n - 2))
  else if 0x008 ≤ n ∧ n ≤ 0x00D then BitVec.ofNat 64 (c.lc (Fin.ofNat 6 (n - 8)))
  else match n with
    | 0x000 => (s.dies.get (Fin.ofNat 4 c.die)).tick
    | 0x001 => sp.scnt
    | 0x00E => BitVec.ofNat 64 c.coreId
    | 0x00F => BitVec.ofNat 64 c.ctxWord
    | 0x010 => sp.fel
    | 0x011 => sp.fflags.setWidth 64
    | 0x012 => sp.rmode.setWidth 64
    | 0x013 => sp.rngk
    | 0x014 => sp.rotv.setWidth 64
    | 0x015 => sp.rotp.setWidth 64
    | 0x016 => sp.rnorm
    | 0x017 => sp.rbnorm
    | 0x018 => sp.rexit.setWidth 64
    | 0x019 => sp.rlevel.setWidth 64
    | 0x020 => c.kiosk.khnd.setWidth 64
    | 0x021 => c.kiosk.kthr.setWidth 64
    | 0x022 => c.kiosk.krtb.setWidth 64
    | 0x023 => c.kiosk.krtn.setWidth 64
    | 0x024 => BitVec.ofNat 64 c.kiosk.pend.length
    | 0x025 => if c.kiosk.kintr then 1 else 0
    | _ => 0

/-- DYN takes `$rmode`, which always holds a valid code (03 R53, 04 R74). -/
def State.rmode (s : State) (rm : Rm) : Rm :=
  match rm with
  | .dyn =>
    match s.cur.sp.rmode.toNat with
    | 1 => .rtz
    | 2 => .rup
    | 3 => .rdn
    | 4 => .rsto
    | _ => .rne
  | r => r

/-! ### Address operands (04 R76, 08 R170) -/

/-- The LS offset of modes 0, 1, 2 and 5, mod 2^64. -/
def State.lsAddr (s : State) (a : Addr) : Word64 :=
  match a with
  | .lsA n off => s.cur.aVal n + off.signExtend 64
  | .lsS n off => s.rs (.s n) + off.signExtend 64
  | .lsAS n m => s.cur.aVal n + s.rs (.s m)
  | .remote n off _ => s.cur.aVal n + off.signExtend 64
  | .ltt _ off => off.signExtend 64
  | .handle _ off => off.signExtend 64

/-- The virtual address of modes 3 and 4: a handle's base is its page's virtual base (06 R139). -/
def State.vaddr (s : State) (a : Addr) : Word64 :=
  match a with
  | .ltt n off => s.rs (.s n) + off.signExtend 64
  | .handle h off =>
    BitVec.ofNat 64 (match s.cur.regs.h.get h with | some x => x.va | none => 0) + off.signExtend 64
  | x => s.lsAddr x

/-- Translation of one global access at a virtual address, by the mode of its operand, with the checks of the target. -/
def State.gxlate (s : State) (a : Addr) (va : Word64) (len al acc : Nat) (add : Bool := false) : Except Flt Pa :=
  let perm := acc + 1
  let t := match a with
    | .handle h _ => handleXlate (s.cur.regs.h.get h) va len al acc perm
    | _ => lttXlate s.cur.ltt va len al acc perm
  match t with
  | .error f => .error f
  | .ok p =>
    match s.physFault s.cur.master s.cur.ctxId va p.1 len acc add with
    | some f => .error f
    | none => .ok p

/-- Profile A pads the F32 and BF16 arithmetic group by one tick (03 R67 R68). -/
def State.fpLat (s : State) (lat : Nat) : Nat := if s.cur.profA then lat + 1 else lat

end Machine
end Sys2Proof
end

