-- ==== Sys2Proof/Machine/Fetch.lean ====
section
/-! DEFINITION. Fetching a bundle: translation, the instruction cache of a context, and the run of syllables up to the stop
bit (04 R69, 06 R138, 07 R156 R157). -/
namespace Sys2Proof.Machine

/-- Why a fetch gives no syllable: a fault, or a line that is not in the instruction cache. -/
inductive NoFetch where
  | fault (f : Flt)
  | miss (line : Nat)
  deriving DecidableEq, Repr

/-- The line of the context's instruction cache that holds a virtual address. -/
def State.line? (s : State) (va : Nat) : Option (Vector Word64 8) := (s.icache.get? s.focus).bind (·.get? (va / 64))

/-- What stops a fetch: its translation. Firmware stands in the management core's own memory (27 R382) (DESIGN CHOICE, assumption log 58). -/
def Ctx.fetchFault (c : Ctx) (a : Word64) (len : Nat) : Except Flt Pa :=
  if c.firmware then .ok (a.toNat, 0) else lttXlate c.ltt a len 8 3 4

def State.fetchWord (s : State) (a : Word64) : Except NoFetch Word64 :=
  match s.cur.fetchFault a 8 with
  | .error f => .error (.fault f)
  | .ok _ =>
    match s.line? a.toNat with
    | none => .error (.miss (a.toNat / 64))
    | some v => .ok (v.get (Fin.ofNat 8 (a.toNat / 8 % 8)))

/-- Syllables from `a` on, up to the stop bit and at most `n`; with the failure that ended the run early. -/
def State.fetchRun (s : State) (a : Word64) : Nat → List Word64 × Option NoFetch
  | 0 => ([], none)
  | n + 1 =>
    match s.fetchWord a with
    | .error e => ([], some e)
    | .ok w =>
      if w.getLsbD 63 then ([w], none)
      else
        let (l, e) := s.fetchRun (a + 8) n
        (w :: l, e)

/-- The bundle at an address (04 R69). -/
def State.fetchBundle (s : State) (a : Word64) : Bundle × Option NoFetch :=
  let (l, e) := s.fetchRun a 8
  (⟨a, l⟩, e)

/-- The address of the bundle that follows in memory. -/
def Bundle.after (b : Bundle) : Word64 := b.addr + BitVec.ofNat 64 (8 * b.words.length)

/-- The `n` bundles from `a` on, as a LOOP captures them, and the address after them (07 R159). A bundle that cannot be
fetched is captured without its missing syllables and is fetched again when it issues. -/
def State.capture (s : State) (a : Word64) : Nat → List Bundle × Word64 × Option Nat
  | 0 => ([], a, none)
  | n + 1 =>
    let (b, e) := s.fetchBundle a
    let (l, z, m) := s.capture b.after n
    (b :: l, z, match e with | some (.miss k) => some k | _ => m)

/-- A line that the body of a level-0 LOOP of the bundle lacks: the LOOP waits for it (07 R159). -/
def State.loopMiss (s : State) (b : Bundle) : Option Nat :=
  b.words.findSome? fun w =>
    let n := w.toNat
    if cls n = 0 ∧ opc n = 0x64 ∧ bits n 41 3 = 0 ∧ s.on (guardOf n) then (s.capture b.after (bits n 18 6 + 1)).2.2 else none

/-- A bundle with its stop, or of eight syllables. -/
def Bundle.whole (b : Bundle) : Bool :=
  b.words.length == 8 || (match b.words.getLast? with
    | some w => w.getLsbD 63
    | none => false)

/-- The bundle that the context in focus issues next: from the loop buffer while a nest runs (07 R159). -/
def State.heldBundle (s : State) : Bundle × Option NoFetch :=
  match s.cur.loop.nest.bind (fun n => n.body[n.idx]?) with
  | some b => if b.whole then (b, none) else s.fetchBundle b.addr
  | none => s.fetchBundle s.cur.pc

/-- Lines of a core's 64 KiB instruction cache (01 R11). -/
def icacheLines : Nat := 1024

/-- Lines that a context has in its cache. -/
def State.cached (s : State) (key : Nat) : Tab (Vector Word64 8) := (s.icache.get? key).getD []

/-- The other context of a compute core shares its cache. -/
def coMate (key : Nat) : Option Nat := if key < 2048 then some (if key % 2 = 0 then key + 1 else key - 1) else none

/-- Room for one more line: with the cache full, the first line listed leaves it, of the context itself if it has one. -/
def State.makeRoom (s : State) (key : Nat) : State :=
  let mate := (coMate key).getD key
  let n := (s.cached key).length + (if mate = key then 0 else (s.cached mate).length)
  if n < icacheLines then s
  else
    let k := if (s.cached key).isEmpty then mate else key
    { s with icache := s.icache.set k (s.cached k).tail }

/-- A line arrives in the instruction cache of a context (DESIGN CHOICE, assumption log 35). -/
def State.fillLine (s : State) (key line : Nat) (ws : Vector Word64 8) : State :=
  let s1 := if ((s.cached key).get? line).isSome then s else s.makeRoom key
  { s1 with icache := s1.icache.set key ((s1.cached key).set line ws) }

/-- Lines of a virtual range leave the caches of the contexts that `who` names (08 R186) (DESIGN CHOICE, assumption log 35). -/
def State.invalidate (s : State) (who : Nat → Bool) (lo len : Nat) : State :=
  if len = 0 then s
  else { s with
    icache := s.icache.map fun (e : Nat × Tab (Vector Word64 8)) =>
      (e.1, if who e.1 then e.2.filter (fun l => !(decide (lo / 64 ≤ l.1) && decide (l.1 ≤ (lo + len - 1) / 64))) else e.2) }

end Sys2Proof.Machine
end

