-- ==== Sys2Proof/Machine/Float.lean ====
section
/-! DEFINITION. Binary floating point: exact results and their one rounding (05 R99 to R106, R126). -/
namespace Sys2Proof.Machine

/-! ### Formats and values (05 R99) -/

/-- A format: precision with the hidden bit, exponent bits. -/
structure FFmt where
  p  : Nat
  eb : Nat

def FFmt.f32 : FFmt := ⟨24, 8⟩
def FFmt.f64 : FFmt := ⟨53, 11⟩
def FFmt.bf16 : FFmt := ⟨8, 8⟩

def FFmt.bias (f : FFmt) : Nat := 2 ^ (f.eb - 1) - 1

/-- Exponent of the last bit of a subnormal. -/
def FFmt.qmin (f : FFmt) : Int := 2 - (f.bias : Int) - f.p

/-- A value read from a format: a finite one is m × 2^e. -/
inductive Fl where
  | nan (sig : Bool)
  | inf (neg : Bool)
  | fin (neg : Bool) (m : Nat) (e : Int)
  deriving DecidableEq, Repr

def FFmt.signBit (f : FFmt) : Nat := 2 ^ (f.p - 1 + f.eb)

def FFmt.sgn (f : FFmt) (neg : Bool) : Nat := if neg then f.signBit else 0

def FFmt.infBits (f : FFmt) (neg : Bool) : Nat := (2 ^ f.eb - 1) * 2 ^ (f.p - 1) + f.sgn neg

def FFmt.maxBits (f : FFmt) (neg : Bool) : Nat := (2 ^ f.eb - 1) * 2 ^ (f.p - 1) - 1 + f.sgn neg

/-- The canonical NaN (05 R99 R100). -/
def FFmt.nanBits (f : FFmt) : Nat := (2 ^ f.eb - 1) * 2 ^ (f.p - 1) + 2 ^ (f.p - 2)

/-- Reading a format's low bits. -/
def FFmt.unpack (f : FFmt) (w : Nat) : Fl :=
  let frac := w % 2 ^ (f.p - 1)
  let ex := w / 2 ^ (f.p - 1) % 2 ^ f.eb
  let neg := w.testBit (f.p - 1 + f.eb)
  if ex = 2 ^ f.eb - 1 then
    if frac = 0 then .inf neg else .nan (!frac.testBit (f.p - 2))
  else if ex = 0 then .fin neg frac f.qmin
  else .fin neg (frac + 2 ^ (f.p - 1)) (f.qmin + ex - 1)

/-! ### Rounding (05 R101 R102 R106) -/

/-- A resolved mode with the element's 16-bit random word, of use under RSTO only. -/
structure Rnd where
  rm : Rm
  r  : Nat
  deriving DecidableEq, Repr

def Rnd.rne : Rnd := ⟨.rne, 0⟩

/-- The magnitude m (with a `sticky` remainder below its last bit) loses its low `w` bits: the kept part, whether bits are
lost, and whether the mode rounds away from zero. -/
def roundAt (q : Rnd) (neg : Bool) (m w : Nat) (sticky : Bool) : Nat × Bool × Bool :=
  let kept := m >>> w
  let f := m - kept <<< w
  let inexact := f != 0 || sticky
  let away := match q.rm with
    | .rne | .dyn =>
      let half := if w = 0 then false else f.testBit (w - 1)
      let below := sticky || (if w = 0 then false else f % 2 ^ (w - 1) != 0)
      half && (below || kept % 2 == 1)
    | .rtz => false
    | .rup => inexact && !neg
    | .rdn => inexact && neg
    | .rsto =>
      let t := if w ≥ 16 then f >>> (w - 16) else f <<< (16 - w)
      let rest := sticky || (w > 16 && f % 2 ^ (w - 16) != 0)
      t > q.r || (t == q.r && rest)
  (kept, inexact, away)

/-- The number of bits of a natural number. -/
def bitLen (m : Nat) : Nat := if m = 0 then 0 else m.log2 + 1

/-- Rounding of the non-zero exact value ±(m + ε) × 2^e, 0 ≤ ε < 1 and ε ≠ 0 iff `sticky`, to a format, with the events of
05 R126. Where `sticky` holds, m has at least p + 18 bits. -/
def FFmt.round (f : FFmt) (q : Rnd) (neg : Bool) (m : Nat) (e : Int) (sticky : Bool) : Nat × Ev :=
  -- the exponent of the last kept bit, with an unbounded exponent and in the format
  let q1 : Int := bitLen m + e - f.p
  let q2 := max q1 f.qmin
  -- enough bits that nothing is shifted in from below
  let m' := if q1 < e then m <<< (e - q1).toNat else m
  let e' := if q1 < e then q1 else e
  let (k2, inexact, away) := roundAt q neg m' (q2 - e').toNat sticky
  let r := k2 + (if away then 1 else 0)
  -- rounded with an unbounded exponent: tininess and overflow
  let (k1, _, away1) := roundAt q neg m' (q1 - e').toNat sticky
  let r1 := k1 + (if away1 then 1 else 0)
  let lead : Int := bitLen r1 + q1
  let emax1 : Int := f.bias + 1
  if lead > emax1 then
    let toInf := match q.rm with
      | .rne | .dyn => true
      | .rtz => false
      | .rup => !neg
      | .rdn => neg
      | .rsto => away1
    (if toInf then f.infBits neg else f.maxBits neg, Ev.of ||| Ev.nx)
  else
    let tiny := lead ≤ f.qmin + f.p - 1
    let ev := (if inexact then Ev.nx else 0) ||| (if inexact && tiny then Ev.uf else 0)
    -- the biased exponent field and fraction add up, carries included
    let base : Nat := (q2 - f.qmin).toNat * 2 ^ (f.p - 1)
    (base + r + f.sgn neg, ev)

/-- A finite exact value, zero included. -/
def FFmt.roundFin (f : FFmt) (q : Rnd) (neg : Bool) (m : Nat) (e : Int) : Nat × Ev :=
  if m = 0 then (f.sgn neg, 0) else f.round q neg m e false

/-! ### Operations -/

def nvIf (b : Bool) : Ev := if b then Ev.nv else 0

def Fl.isSig : Fl → Bool
  | .nan s => s
  | _ => false

def Fl.isNan : Fl → Bool
  | .nan _ => true
  | _ => false

def Fl.neg : Fl → Fl
  | .nan s => .nan s
  | .inf n => .inf (!n)
  | .fin n m e => .fin (!n) m e

/-- The exact sum of two finite values, its sign where it is zero as 05 R101 gives. -/
def addFin (q : Rnd) (n1 : Bool) (m1 : Nat) (e1 : Int) (n2 : Bool) (m2 : Nat) (e2 : Int) : Bool × Nat × Int :=
  let e := min e1 e2
  let a := m1 <<< (e1 - e).toNat
  let b := m2 <<< (e2 - e).toNat
  if n1 = n2 then (n1, a + b, e)
  else if a = b then (q.rm == .rdn, 0, e)
  else if a > b then (n1, a - b, e)
  else (n2, b - a, e)

def FFmt.add (f : FFmt) (q : Rnd) (a b : Fl) : Nat × Ev :=
  match a, b with
  | .nan s, y => (f.nanBits, nvIf (s || y.isSig))
  | _, .nan s => (f.nanBits, nvIf s)
  | .inf n1, .inf n2 => if n1 = n2 then (f.infBits n1, 0) else (f.nanBits, Ev.nv)
  | .inf n, .fin .. => (f.infBits n, 0)
  | .fin .., .inf n => (f.infBits n, 0)
  | .fin n1 m1 e1, .fin n2 m2 e2 =>
    let (n, m, e) := addFin q n1 m1 e1 n2 m2 e2
    f.roundFin q n m e

def FFmt.mul (f : FFmt) (q : Rnd) (a b : Fl) : Nat × Ev :=
  match a, b with
  | .nan s, y => (f.nanBits, nvIf (s || y.isSig))
  | _, .nan s => (f.nanBits, nvIf s)
  | .inf n1, .inf n2 => (f.infBits (n1 != n2), 0)
  | .inf n1, .fin n2 m _ | .fin n2 m _, .inf n1 =>
    if m = 0 then (f.nanBits, Ev.nv) else (f.infBits (n1 != n2), 0)
  | .fin n1 m1 e1, .fin n2 m2 e2 => f.roundFin q (n1 != n2) (m1 * m2) (e1 + e2)

/-- a × b + c with one rounding; an invalid product raises invalid whatever c is (05 R100 R101 R126). -/
def FFmt.fma (f : FFmt) (q : Rnd) (a b c : Fl) : Nat × Ev :=
  let prod : Option (Option Fl) := match a, b with
    | .nan _, _ | _, .nan _ => some none
    | .inf n1, .inf n2 => some (some (.inf (n1 != n2)))
    | .inf n1, .fin n2 m _ | .fin n2 m _, .inf n1 => if m = 0 then none else some (some (.inf (n1 != n2)))
    | .fin n1 m1 e1, .fin n2 m2 e2 => some (some (.fin (n1 != n2) (m1 * m2) (e1 + e2)))
  match prod with
  | none => (f.nanBits, Ev.nv)
  | some none => (f.nanBits, nvIf (a.isSig || b.isSig || c.isSig))
  | some (some p) => f.add q p c

def FFmt.div (f : FFmt) (q : Rnd) (a b : Fl) : Nat × Ev :=
  match a, b with
  | .nan s, y => (f.nanBits, nvIf (s || y.isSig))
  | _, .nan s => (f.nanBits, nvIf s)
  | .inf _, .inf _ => (f.nanBits, Ev.nv)
  | .inf n1, .fin n2 _ _ => (f.infBits (n1 != n2), 0)
  | .fin n1 _ _, .inf n2 => (f.sgn (n1 != n2), 0)
  | .fin n1 m1 e1, .fin n2 m2 e2 =>
    let n := n1 != n2
    if m2 = 0 then (if m1 = 0 then (f.nanBits, Ev.nv) else (f.infBits n, Ev.dz))
    else if m1 = 0 then (f.sgn n, 0)
    else
      let k := f.p + 20 + bitLen m2 - bitLen m1
      let x := m1 <<< k
      f.round q n (x / m2) (e1 - e2 - k) (x % m2 != 0)

/-- The integer square root of a number below 4^k, from its top bit down. -/
def isqrtAux (n : Nat) : Nat → Nat → Nat
  | 0, r => r
  | k + 1, r => if (r + 2 ^ k) * (r + 2 ^ k) ≤ n then isqrtAux n k (r + 2 ^ k) else isqrtAux n k r

def isqrt (n : Nat) : Nat := isqrtAux n ((bitLen n + 1) / 2) 0

/-- m × 2^e with an even exponent. -/
def evenExp (m : Nat) (e : Int) : Nat × Int := if e % 2 = 0 then (m, e) else (2 * m, e - 1)

def FFmt.sqrt (f : FFmt) (q : Rnd) (a : Fl) : Nat × Ev :=
  match a with
  | .nan s => (f.nanBits, nvIf s)
  | .inf n => if n then (f.nanBits, Ev.nv) else (f.infBits false, 0)
  | .fin n m e =>
    if m = 0 then (f.sgn n, 0)
    else if n then (f.nanBits, Ev.nv)
    else
      let (m, e) := evenExp m e
      let k := f.p + 20
      let x := m <<< (2 * k)
      let r := isqrt x
      f.round q false r (e / 2 - k) (r * r != x)

def FFmt.rsq (f : FFmt) (q : Rnd) (a : Fl) : Nat × Ev :=
  match a with
  | .nan s => (f.nanBits, nvIf s)
  | .inf n => if n then (f.nanBits, Ev.nv) else (0, 0)
  | .fin n m e =>
    if m = 0 then (f.infBits n, Ev.dz)
    else if n then (f.nanBits, Ev.nv)
    else
      let (m, e) := evenExp m e
      let k := f.p + 20 + bitLen m
      let x := 2 ^ (2 * k)
      let r := isqrt (x / m)
      f.round q false r (-(e / 2) - k) (r * r * m != x)

def FFmt.rcp (f : FFmt) (q : Rnd) (a : Fl) : Nat × Ev := f.div q (.fin false 1 0) a

/-! ### 2^x and log2 x, to 220 bits (05 R105; DEDUCED, assumption log 11) -/

/-- Fixed point with 256 fraction bits. -/
def fxOne : Nat := 2 ^ 256

/-- Σ 1 / (k 2^k), from k on: ln 2. -/
def ln2Sum : Nat → Nat → Nat
  | 0, _ => 0
  | n + 1, k => fxOne / (k * 2 ^ k) + ln2Sum n (k + 1)

def fxLn2 : Nat := ln2Sum 264 1

/-- Σ y^k / k!, from term `t` at k on. -/
def expSum (y : Nat) : Nat → Nat → Nat → Nat
  | 0, _, _ => 0
  | n + 1, k, t => t + expSum y n (k + 1) (t * y / fxOne / k)

/-- 2^x for x = x / 2^256 in [0, 1). -/
def fxExp2 (x : Nat) : Nat := expSum (x * fxLn2 / fxOne) 64 1 fxOne

/-- Σ t^(2k+1) / (2k+1), from the power `p` with k on. -/
def atanhSum (t2 : Nat) : Nat → Nat → Nat → Nat
  | 0, _, _ => 0
  | n + 1, k, p => p / k + atanhSum t2 n (k + 2) (p * t2 / fxOne)

/-- log2 z for z = z / 2^256 in [1, 2). -/
def fxLog2 (z : Nat) : Nat :=
  let t := (z - fxOne) * fxOne / (z + fxOne)
  2 * atanhSum (t * t / fxOne) 90 1 t * fxOne / fxLn2

def FFmt.exp2 (f : FFmt) (q : Rnd) (a : Fl) : Nat × Ev :=
  match a with
  | .nan s => (f.nanBits, nvIf s)
  | .inf n => if n then (0, 0) else (f.infBits false, 0)
  | .fin n m e =>
    if m = 0 then f.round q false 1 0 false
    else
      let clamp (k : Int) : Int := max (-5000) (min 5000 k)
      let len : Int := bitLen m + e
      if len < -120 then
        -- 2^x lies next to 1, strictly above or below it
        if n then f.round q false (2 ^ 200 - 1) (-200) true else f.round q false (2 ^ 200) (-200) true
      else if e ≥ 0 then
        let k : Int := if len > 20 then 5000 else m <<< e.toNat
        f.round q false 1 (clamp (if n then -k else k)) false
      else
        let x : Int := if n then -(m : Int) else m
        let d : Nat := 2 ^ (-e).toNat
        let k := x.fdiv d
        let frac := x.fmod d
        if frac = 0 then f.round q false 1 (clamp k) false
        else
          let y := frac.toNat * fxOne / d
          f.round q false (fxExp2 y >>> 32) (clamp k - 224) true

def FFmt.log2 (f : FFmt) (q : Rnd) (a : Fl) : Nat × Ev :=
  match a with
  | .nan s => (f.nanBits, nvIf s)
  | .inf n => if n then (f.nanBits, Ev.nv) else (f.infBits false, 0)
  | .fin n m e =>
    if m = 0 then (f.infBits true, Ev.dz)
    else if n then (f.nanBits, Ev.nv)
    else
      let len := bitLen m
      let k : Int := len - 1 + e
      if m = 2 ^ (len - 1) then f.roundFin q (decide (k < 0)) k.natAbs 0
      else
        let z := m * fxOne / 2 ^ (len - 1)
        let l : Int := k * fxOne + fxLog2 z
        f.round q (decide (l < 0)) (l.natAbs >>> 32) (-224) true

/-! ### Order (05 R103, 07 R152) -/

/-- Comparison of two values, none of them a NaN, zeros equal. -/
def Fl.cmp (a b : Fl) : Ordering :=
  match a, b with
  | .inf n, .inf k => if n = k then .eq else if n then .lt else .gt
  | .inf n, _ => if n then .lt else .gt
  | _, .inf n => if n then .gt else .lt
  | .fin n1 m1 e1, .fin n2 m2 e2 =>
    let (n, m, _) := addFin Rnd.rne n1 m1 e1 (!n2) m2 e2
    if m = 0 then .eq else if n then .lt else .gt
  | _, _ => .eq

def Fl.isNeg : Fl → Bool
  | .inf n => n
  | .fin n _ _ => n
  | .nan _ => false

/-- Strictly below, with −0 below +0. -/
def Fl.below (a b : Fl) : Bool :=
  match a.cmp b with
  | .lt => true
  | .gt => false
  | .eq => a.isNeg && !b.isNeg

/-- Minimum and maximum over the operands' own bit patterns. -/
def FFmt.minMax (f : FFmt) (mx : Bool) (x y : Nat) : Nat × Ev :=
  let a := f.unpack x
  let b := f.unpack y
  if a.isNan || b.isNan then (f.nanBits, nvIf (a.isSig || b.isSig))
  else (if (if mx then b.below a else a.below b) then x else y, 0)

/-- The comparisons of FCMP and VCMP, with their invalid events. -/
def fcmpHolds (cc : FCc) (a b : Fl) : Bool × Ev :=
  let un := a.isNan || b.isNan
  let sig := nvIf (a.isSig || b.isSig)
  let o := a.cmp b
  match cc with
  | .eq => (!un && o == .eq, sig)
  | .ne => (un || o != .eq, sig)
  | .lt => (!un && o == .lt, nvIf un)
  | .le => (!un && o != .gt, nvIf un)
  | .gt => (!un && o == .gt, nvIf un)
  | .ge => (!un && o != .lt, nvIf un)
  | .un => (un, sig)

/-! ### Conversions (05 R104) -/

/-- Rounding of ±m × 2^e to an integer: the magnitude, and whether it changed. -/
def roundInt (q : Rnd) (neg : Bool) (m : Nat) (e : Int) : Nat × Bool :=
  if e ≥ 0 then (m <<< e.toNat, false)
  else
    let (k, inexact, away) := roundAt q neg m (-e).toNat false
    (k + (if away then 1 else 0), inexact)

/-- To an integer between `lo` and `hi`. -/
def Fl.toInt (q : Rnd) (lo hi : Int) (a : Fl) : Int × Ev :=
  match a with
  | .nan _ => (0, Ev.nv)
  | .inf n => (if n then lo else hi, Ev.nv)
  | .fin n m e =>
    let (k, inexact) := roundInt q n m e
    let v : Int := if n then -(k : Int) else k
    if v < lo then (lo, Ev.nv) else if v > hi then (hi, Ev.nv) else (v, if inexact then Ev.nx else 0)

/-- From an integer. -/
def FFmt.ofInt (f : FFmt) (q : Rnd) (v : Int) : Nat × Ev := f.roundFin q (decide (v < 0)) v.natAbs 0

/-- Between floating-point formats. -/
def FFmt.ofFl (f : FFmt) (q : Rnd) (a : Fl) : Nat × Ev :=
  match a with
  | .nan s => (f.nanBits, nvIf s)
  | .inf n => (f.infBits n, 0)
  | .fin n m e => f.roundFin q n m e

/-- Rounding to an integral value of the format. -/
def FFmt.rint (f : FFmt) (q : Rnd) (a : Fl) : Nat × Ev :=
  match a with
  | .nan s => (f.nanBits, nvIf s)
  | .inf n => (f.infBits n, 0)
  | .fin n m e =>
    let (k, inexact) := roundInt q n m e
    ((f.roundFin Rnd.rne n k 0).1, if inexact then Ev.nx else 0)

end Sys2Proof.Machine
end

