-- ==== Sys2Proof/Machine/Requests.lean ====
section
/-! DEFINITION. The request queue of a core: global loads, stores and atomics, and the order in which those to one line perform
(13 R271 R272 R274, 08 R173 R180 R181, 06 R145). Every request performs at once for every observer (DESIGN CHOICE, assumption log 8). -/
namespace Sys2Proof.Machine

/-! ### The requests of a core -/

/-- What stands in a request queue: a store or lane-atomic, or, with `key`, an operation of that context whose value is
awaited. -/
structure Req where
  seq   : Nat
  key   : Option Nat
  parts : List (Nat × Nat)
  load  : Bool
  plain : Bool
  group : Nat

/-- Physical ranges of an interlocked operation, with their buffers. -/
def OutOp.parts (o : OutOp) : List (Nat × Nat × Fin 64) :=
  match o with
  | .ldg _ pa sz buf => [(pa, sz.bytes, buf)]
  | .ldgv _ pa buf => [(pa, 256, buf)]
  | .gath _ pas sz => pas.map fun p => (p.1, sz.bytes, p.2)
  | .atomic _ _ pa buf => [(pa, 8, buf)]
  | .vamor _ _ pas _ => pas.map fun p => (p.1, 4, p.2)
  | .xlt .. | .chnk _ | .land .. => []

def OutOp.isLoad (o : OutOp) : Bool :=
  match o with
  | .ldg .. | .ldgv .. | .gath .. => true
  | _ => false

/-- A load may be given the bytes of a plain store early; it waits for a strong one, which performs for every observer at once
(13 R271, 08 R173). -/
def Store.req (u : Store) : Req := ⟨u.seq, none, [(u.pa, u.bytes.length)], false, u.op.isNone && !u.strong, u.group⟩

/-- The request of an operation that has not performed. -/
def Outst.req? (o : Outst) (key : Nat) : Option Req :=
  match o.op.parts, o.data with
  | p :: l, none => some ⟨o.seq, some key, (p :: l).map fun x => (x.1, x.2.1), o.op.isLoad, false, o.seq⟩
  | _, _ => none

/-- Insertion, the latest first. -/
def insertReq (r : Req) : List Req → List Req
  | [] => [r]
  | x :: l => if x.seq < r.seq then r :: x :: l else x :: insertReq r l

/-- Requests of a core that have not performed, the latest first: its two contexts share the queue. -/
def State.requests (s : State) (core : Nat) : List Req :=
  let stores := (s.reqq.filter (·.core == core)).map Store.req
  let outs := (s.allCtxs.filter fun e => e.2.reqCore == core).flatMap fun e => e.2.outst.filterMap (·.req? e.1)
  (stores ++ outs).foldl (fun l r => insertReq r l) []

/-- Two byte ranges share a 64-byte line (DEDUCED, assumption log 41). -/
def sameLine (a n b m : Nat) : Bool := decide (a / 64 ≤ (b + m - 1) / 64) && decide (b / 64 ≤ (a + n - 1) / 64)

/-- The queue keeps the order of two requests to one line, and of the lanes of one syllable (08 R176); a load is given an earlier
plain store's bytes instead of waiting for it (DEDUCED, assumption log 41). -/
def Req.follows (x r : Req) : Bool :=
  x.group == r.group || !(x.load && r.plain) && x.parts.any fun a => r.parts.any fun b => sameLine a.1 a.2 b.1 b.2

/-- What performs before the requests of `acc`, in order, out of earlier requests, the latest first. -/
def Req.needs : List Req → List Req → List Req
  | acc, [] => acc
  | acc, r :: l => if acc.any (·.follows r) then Req.needs (r :: acc) l else Req.needs acc l

/-! ### Performing -/

/-- The byte an outstanding store holds for a physical address. -/
def Store.byte? (t : Store) (pa : Nat) : Option Byte :=
  if t.pa ≤ pa ∧ pa < t.pa + t.bytes.length then t.bytes[pa - t.pa]? else none

/-- What a load returns: its core's latest earlier outstanding store to the byte, else memory (13 R272). -/
def State.gbyte (s : State) (core seq pa : Nat) : Byte :=
  ((s.reqq.filter (fun t => t.core == core && decide (t.seq < seq))).foldl
    (fun b t => match t.byte? pa with | some x => x | none => b) (s.pbyte pa))

def State.gread (s : State) (core seq pa n : Nat) : List Byte := (List.range n).map fun i => s.gbyte core seq (pa + i)

/-- A store performs, or a 32-bit lane-atomic. -/
def State.perform (s : State) (u : Store) : State :=
  match u.op with
  | none => (s.pwrite u.pa u.bytes).countBytes u.ctx u.buf u.bytes.length
  | some op =>
    let old : BitVec 32 := BitVec.ofNat 32 (leNat (s.pread u.pa 4))
    (s.pwrite u.pa (bytesOfNat 4 (amoOp op old (BitVec.ofNat 32 (leNat u.bytes))).toNat)).countBytes u.ctx u.buf 4

/-- The bytes of the parts of a load, counted under their buffers. -/
def State.readParts (s : State) (core seq : Nat) (ctx : BitVec 8) (ps : List (Nat × Nat × Fin 64)) : State × List Byte :=
  (ps.foldl (fun s p => s.countBytes ctx p.2.2 p.2.1) s, ps.flatMap fun p => s.gread core seq p.1 p.2.1)

/-- Lane-atomics in ascending lanes, with the old words. -/
def State.lanes64 (s : State) (ctx : BitVec 8) (op : AmoOp) (pas : List Pa) (c : Vec) : State × List Byte :=
  let (s1, bs) := pas.zipIdx.foldl (fun (r : State × List (List Byte)) (p, i) =>
    let old := r.1.pread p.1 4
    let new := amoOp op (BitVec.ofNat 32 (leNat old)) (c.get (Fin.ofNat 64 i))
    ((r.1.pwrite p.1 (bytesOfNat 4 new.toNat)).countBytes ctx p.2 4, old :: r.2)) (s, [])
  (s1, bs.reverse.flatten)

/-- An interlocked operation performs: the state after it, and the bytes it returns. -/
def State.performOut (s : State) (core : Nat) (ctx : BitVec 8) (o : Outst) : State × List Byte :=
  match o.op with
  | .atomic _ op pa buf =>
    let old := s.pread pa 8
    ((s.pwrite pa (bytesOf 8 (op.apply (BitVec.ofNat 64 (leNat old))))).countBytes ctx buf 8, old)
  | .vamor _ op pas c => s.lanes64 ctx op pas c
  | op => s.readParts core o.seq ctx op.parts

/-- One request performs by itself. -/
def State.performReq (s : State) (r : Req) : State :=
  match r.key with
  | none => match s.reqq.find? (·.seq == r.seq) with
    | some u => ({ s with reqq := s.reqq.filter (·.seq != r.seq) } : State).perform u
    | none => s
  | some k =>
    let c := s.ctx k
    match c.outst.find? (·.seq == r.seq) with
    | none => s
    | some o =>
      let (s1, bs) := s.performOut c.reqCore c.ctxId o
      s1.updCtx k fun c => { c with outst := c.outst.map fun o => if o.seq == r.seq then { o with data := some bs } else o }

/-- What stands before a request in its core's queue performs. -/
def State.performBefore (s : State) (core : Nat) (r : Req) : State :=
  ((Req.needs [r] ((s.requests core).filter (·.seq < r.seq))).filter (·.seq != r.seq)).foldl State.performReq s

/-- Request `seq` of a core performs, after those it follows. -/
def State.performTo (s : State) (core seq : Nat) : State :=
  match (s.requests core).find? (·.seq == seq) with
  | none => s
  | some r => (s.performBefore core r).performReq r

/-- The stores that `hit` picks perform in issue order. -/
def State.performAll (s : State) (hit : Store → Bool) : State :=
  (s.reqq.filter hit).foldl (fun s u => s.performTo u.core u.seq) s

/-- The store at position `n` of the queues performs. -/
def State.performStore (s : State) (n : Nat) : State :=
  match s.reqq[n]? with
  | none => s
  | some u => s.performTo u.core u.seq

/-- Every store of a core performs, in issue order. -/
def State.drainCore (s : State) (core : Nat) : State := s.performAll fun u => u.core == core

/-! ### Issuing requests -/

/-- A global store enters the core's request queue (13 R272, 08 R173). -/
def State.pushStore (s : State) (sc : Scope) (pa : Nat) (bs : List Byte) (buf : Fin 64) (op : Option AmoOp := none)
    (first : Option Nat := none) : State :=
  { s with
    reqq := s.reqq ++ [⟨s.reqs, s.cur.reqCore, s.focus, op, pa, bs, buf, s.cur.ctxId, sc != .c, first.getD s.reqs⟩]
    reqs := s.reqs + 1 }

/-- An interlocked operation leaves the core. -/
def State.out (s : State) (o : OutOp) : State :=
  { s.mapCur fun c => { c with outst := c.outst ++ [⟨o, s.issue.addr, s.issue.pos, s.reqs, none⟩] } with reqs := s.reqs + 1 }

/-- A load that performs at once, as the youngest request of its core. -/
def State.gload (s : State) (pa n : Nat) (buf : Fin 64) : State × List Byte :=
  let s1 := s.performBefore s.cur.reqCore ⟨s.reqs, none, [(pa, n)], true, false, s.reqs⟩
  (s1.countBytes s.cur.ctxId buf n, s1.gread s.cur.reqCore s.reqs pa n)

end Sys2Proof.Machine
end

