-- ==== Sys2Proof/Machine/Control.lean ====
section
/-! DEFINITION. Branches, the loop sequencer, grid instructions, TKALN and the refinement sequencer (07 R156 to R167,
12 R264 to R269, 14 R284 to R287, 15 R298). -/
namespace Sys2Proof.Machine

/-! ### Branches (07 R156 R157 R162) -/

def Ctx.inNest (c : Ctx) : Bool := c.loop.nest.isSome

/-- The transfer to `a` after the bundle, with `idle` idle ticks. -/
def State.jump (s : State) (a : Word64) (idle : Nat) : State := s.mapCur fun c => { c with next := a, idle := idle }

def branchTarget (s : State) (off : BitVec 24) : Word64 := s.issue.addr + 8 * off.signExtend 64

/-- BR and CALL: illegal while a nest runs. -/
def State.branch (s : State) (g : Guard) (off : BitVec 24) (link : Bool) : Out :=
  s.when g
    (if s.cur.inNest then s.illegal
     else
      let s1 := s.jump (branchTarget s off) 1
      .next (if link then s1.putS (.s 63) 1 s.issue.after else s1))

/-- BRI and RET: a misaligned target is a misalignment fault (DEDUCED, assumption log 18). -/
def State.branchReg (s : State) (g : Guard) (a : SReg) : Out :=
  s.when g
    (if s.cur.inNest then s.illegal
     else
      let t := s.rs a
      if t.toNat % 8 ≠ 0 then s.fault 7 t 3 else .next ((s.ebp [a]).jump t 3))

def execBr (g : Guard) (off : BitVec 24) (s : State) : Out := s.branch g off false

def execCall (g : Guard) (off : BitVec 24) (s : State) : Out := s.branch g off true

def execBri (g : Guard) (a : SReg) (s : State) : Out := s.branchReg g a

def execRet (g : Guard) (a : SReg) (s : State) : Out := s.branchReg g a

/-! ### The loop sequencer (07 R158 to R161) -/

def State.loopCount (s : State) : LoopCount → Nat
  | .imm n => n.toNat
  | .sreg n => (s.rs (.s n)).toNat
  | .areg n => (s.rs (.a n)).toNat

/-- The iterations of level k: those of level 0 include the drain iterations of a rotating nest. -/
def loopLimit (armed : Vector (Option Nat) 6) (n : Nest) (k : Fin 6) : Option Nat :=
  if k = 0 then some (n.c0 + (if n.rot then n.drain else 0)) else armed.get k

/-- A rotating nest clears p33 to p63 and sets p32 (07 R159, 03 R65). -/
def Ctx.rotEntry (c : Ctx) : List RegWrite :=
  (List.range 32).map fun i =>
    .pred (c.physP (Fin.ofNat 64 (32 + i))) (BitVec.allOnes 64) (if i = 0 then BitVec.allOnes 64 else 0)

/-- The level-0 LOOP: every count that is 0 skips the body. -/
def State.startNest (s : State) (o : LoopOp) (c0 : Nat) : State :=
  let (body, after, _) := s.capture s.issue.after (o.body.val + 1)
  let armed := s.cur.loop.armed
  if c0 = 0 ∨ armed.toList.any (· == some 0) then
    (s.jump after 0).mapCur fun c => { c with loop := LoopState.none }
  else
    let n : Nest := ⟨c0, o.rot, o.drain.val, Vector.replicate 6 0, body, 0, after⟩
    let s1 := s.mapCur fun c => { c with loop := { c.loop with nest := some n, lexit := none } }
    if o.rot then s1.put 1 s.cur.rotEntry none else s1

def execLoop (o : LoopOp) (s : State) : Out :=
  s.when o.g
    (if s.cur.inNest ∨ s.loopCount o.count > 65535 then s.illegal
     else
      let n := s.loopCount o.count
      if o.level = 0 then .next (s.startNest o n)
      else .next (s.mapCur fun c => { c with loop := { c.loop with armed := c.loop.armed.set o.level (some n) } }))

/-- The nest ends: every level is disarmed and the bundle after the body follows. -/
def Ctx.endNest (c : Ctx) (n : Nest) : Ctx := { c with loop := LoopState.none, pc := n.after, next := n.after }

/-- The lowest level at or above `j` with an iteration left. -/
def Ctx.nextLevel (c : Ctx) (n : Nest) (j : Nat) : Option (Fin 6) :=
  (List.finRange 6).find? fun k =>
    decide (j ≤ k.val) && (match loopLimit c.loop.armed n k with
      | some m => decide (n.lc.get k + 1 < m)
      | none => false)

/-- The counters after level k advances: those below it restart. -/
def stepCounters (lc : Vector Nat 6) (k : Fin 6) : Vector Nat 6 :=
  Vector.ofFn fun i => if i = k then lc.get i + 1 else if i < k then 0 else lc.get i

/-- A write of the rotating bases (07 R161, 03 R53). -/
def RegWrite.rotates (w : RegWrite) : Bool :=
  match w with
  | .rotate _ => true
  | .special n _ => n == 0x014 || n == 0x015
  | _ => false

/-- The steps of ROTX and the writes of the bases in the bundle that ends act before its back-edge (07 R161). -/
def Ctx.rotateNow (c : Ctx) : Ctx :=
  let (now, later) := c.flight.partition fun r => r.writes.any RegWrite.rotates
  now.foldl Ctx.landOne { c with flight := later }

/-- One innermost back-edge that gives levels below `j` up (07 R159 R160): the next iteration, or the end of the nest. The new
p32 is written first, and a result that lands for the same bundle overwrites it (DEDUCED, assumption log 53). -/
def Ctx.backEdge (c : Ctx) (n : Nest) (j : Nat) : Ctx :=
  match c.nextLevel n j with
  | none => c.endNest n
  | some k =>
    let lc := stepCounters n.lc k
    let pc := match n.body.head? with
      | some b => b.addr
      | none => n.after
    let c := { c with pc := pc, next := pc
                      loop := { c.loop with nest := some { n with lc := lc, idx := 0 }, lexit := none } }
    if n.rot then (RegWrite.rotate (decide (lc.get 0 < n.c0))).apply c.rotateNow else c

/-- The back-edge after the last bundle of a body that has issued in full (07 R159). -/
def execLoopBackEdge (s : State) : Out :=
  match s.cur.loop.nest with
  | none => .next s
  | some n => if n.idx < n.body.length then .next s else .next (s.mapCur fun c => c.backEdge n 0)

/-- LEXIT acts after its bundle; outside a nest it does nothing. -/
def execLexit (g : Guard) (k : Fin 6) (s : State) : Out :=
  s.when g
    (if s.cur.inNest then .next (s.mapCur fun c => { c with loop := { c.loop with lexit := some k } }) else .next s)

def execRotx (g : Guard) (off : Bool) (s : State) : Out := s.when g (.next (s.put 1 [.rotate (!off)] none))

/-! ### Waiting for a drain (08 R182) -/

/-- A remote LS store that an elastic request still holds. -/
def LsOp.isRemoteStore : LsOp → Bool
  | .remoteStore .. => true
  | _ => false

/-- An access of a strand. -/
def ElReq.isAccess (e : ElReq) : Bool :=
  match e.job with
  | .access _ => true
  | _ => false

def ElReq.isStore (e : ElReq) : Bool :=
  match e.job with
  | .access p => p.op.isRemoteStore
  | _ => false

/-- An access that brings an exposed result. -/
def LsOp.isLoad (o : LsOp) : Bool :=
  match o with
  | .loadRows .. | .remoteLoad .. | .witTail .. => true
  | _ => false

/-- The access of a request, where it brings a result. -/
def ElReq.load? (e : ElReq) : Option LsPend :=
  match e.job with
  | .access p => if p.op.isLoad then some p else none
  | _ => none

/-- Nothing that a DRAIN of the context covers is outstanding. -/
def State.drained (s : State) : Bool :=
  s.reqq.all (fun t => t.key != s.focus)
    && s.elReqs.all (fun e => !(e.owner == some s.focus && e.isStore))
    && !(s.cur.elastic && s.cur.lsPend.any (fun p => p.op.isRemoteStore))

/-- Place of a barrier: the cluster or the die. -/
def Ctx.place (c : Ctx) (die : Bool) : Nat := if die then c.die else c.cluster

/-- A strand counts towards the early trigger once; one that ends without ETRIG owes its writes (02 R37). -/
def State.countTrigger (s : State) (owes : Bool) : State :=
  if s.cur.triggered then s
  else match s.cur.grid with
    | none => s
    | some g =>
      (s.updGrid g fun x => { x with
        triggered := x.triggered + 1
        owed := if owes then x.owed ++ [(s.focus, s.reqs, s.cur.strand)] else x.owed }).mapCur fun c =>
          { c with triggered := true }

/-- ETRIG counts its strand in a launch that allows the early trigger, until it has fired (02 R37). -/
def State.etrig (s : State) : State :=
  match s.grid? with
  | some g => if g.early && !g.trig then s.countTrigger false else s
  | none => s

/-- ICINV's invalidation: the issuing die, or every die of the cohort (08 R186). -/
def State.icinv (s : State) (cohort : Bool) (lo len : Word64) : State :=
  let die := s.cur.die
  let dies := match s.grid? with
    | some g => if g.kcb.elastic then [0, 1, 2, 3] else g.members.map Member.die
    | none => [die]
  s.invalidate (fun k => if cohort then dies.contains (s.ctx k).die else (s.ctx k).die == die) lo.toNat len.toNat

/-- Every LS access that the context has issued has performed (07 R164). -/
def State.lsQuiet (s : State) : Bool :=
  s.cur.lsPend.isEmpty && s.elReqs.all fun e => !(e.owner == some s.focus && e.isAccess)

/-- The context arrives at a barrier and waits there. -/
def State.arriveBar (s : State) (die : Bool) (b : Fin 16) : State :=
  let s1 := match s.cur.grid with
    | some g => s.updGrid g fun x => { x with arrived := x.arrived ++ [(die, s.cur.place die, b.val, s.focus)] }
    | none => s
  s1.hold (.bar die b)

/-- A BAR that has drained arrives once its LS accesses have performed (07 R164). -/
def State.reachBar (s : State) (die : Bool) (b : Fin 16) : State :=
  if s.lsQuiet then s.arriveBar die b else s.hold (.lsWait die b)

/-- What follows once the drain has completed. -/
def State.afterDrain (s : State) (n : DrainNext) : State :=
  match n with
  | .none => s
  | .bar die b => s.reachBar die b
  | .etrig => s.etrig
  | .icinv co lo len => s.icinv co lo len

/-- Freeze until everything issued earlier has performed, then go on. -/
def State.drainThen (s : State) (sc : Scope) (n : DrainNext) : State :=
  if s.drained then s.afterDrain n else s.hold (.drain sc n)

/-! ### Grid instructions (07 R163 to R167, 15 R298) -/

/-- END retires the strand; a kiosk core halts. A refinement run is discarded (12 R269). -/
def execEndStrand (g : Guard) (s : State) : Out :=
  s.when g (.next ((s.countTrigger true).mapCur fun c => { c with run := .ended, rf := none, loop := LoopState.none }))

def execBar (g : Guard) (die : Bool) (n : Fin 16) (s : State) : Out :=
  if s.isKiosk && die then s.illegal else s.when g (.next (s.drainThen (if die then .d else .k) (.bar die n)))

/-- On a kiosk core ETRIG is DRAIN.y (15 R298). -/
def execEtrig (g : Guard) (s : State) : Out :=
  s.when g (.next (s.drainThen .y (if s.isKiosk then .none else .etrig)))

def execTrap (g : Guard) (n : BitVec 16) (s : State) : Out :=
  s.when g (s.fault 1 (BitVec.ofNat 64 (2 ^ 63 + n.toNat)) 0)

/-- CHNK asks the bazaar and freezes until it answers; illegal in a timetabled grid (07 R167, 02 R25). -/
def execChnk (g : Guard) (d : Fin 64) (s : State) : Out :=
  s.when g
    (if s.isKiosk ∨ !s.cur.elastic then s.illegal
     else .next ((s.out (.chnk d)).hold .chnk))

/-! ### TKALN (14 R284 to R287) -/

/-- The window an immediate names. -/
def windowOf (w : BitVec 16) : Nat := if w = 0 then 65536 else w.toNat

/-- Whether the domain's arrival at schedule count t overruns the window of its last point, which opened at the count that
stood at its release (14 R287). -/
def Grid.overrun (g : Grid) (cl : Nat) (scnt : Nat) : Bool :=
  let (w, rel) := (g.window.get? cl).getD (65536, 0)
  decide (scnt - rel > w)

/-- The domain of a cluster arrives; several arrivals in one tick are one, and the smallest window governs. -/
def Grid.arrive (g : Grid) (cl w scnt : Nat) : Grid :=
  let w' := match g.point.get? cl with
    | some x => min x w
    | none => w
  { g with point := g.point.set cl w', aovr := g.aovr || g.overrun cl scnt }

def execTkaln (g : Guard) (d : SReg) (w : BitVec 16) (s : State) : Out :=
  s.when g
    (if s.isKiosk ∨ s.cur.elastic then s.illegal
     else match s.cur.grid, s.grid? with
      | some gid, some x =>
        let cl := s.cur.cluster
        let t := s.cur.sp.scnt.toNat
        let s1 := s.updGrid gid fun y => y.arrive cl (windowOf w) t
        .next ((s1.putS d 1 (if x.overrun cl t then 1 else 0)).hold (.tkaln d))
      | _, _ => .next ((s.putS d 1 0).hold (.tkaln d)))

/-! ### The refinement sequencer (12 R264 to R269) -/

/-- The first reserved code or value out of range of the command block (12 R264 R269). -/
def rfBad (b : List Word64) : Bool :=
  let nlev := blk b 4 0 3
  nlev == 0 || decide (nlev > 4) || (List.range nlev).any (fun k => blk b 5 (16 * k) 16 == 0)

/-- A routine address that is not 8-byte aligned. -/
def rfMisaligned (b : List Word64) : Option Nat := ((List.range 4).map (fun i => blk b i 0 48)).find? (· % 8 ≠ 0)

/-- Detail word 0 of a bad command block (08 R188). -/
def badBlock (a : Nat) : Word64 := BitVec.ofNat 64 (2 ^ 62 + a % 2 ^ 20)

/-- The sequencer calls a routine. -/
def State.rfCall (s : State) (r : Refine) (ph : RfPhase) (word idle : Nat) : State :=
  (s.mapCur fun c => { c with rf := some { r with phase := ph, normed := false } }).jump
    (BitVec.ofNat 64 (blk r.blk word 0 48)) idle

/-- An LS access of a later tick. -/
def State.later (s : State) (due : Nat) (op : LsOp) : State :=
  s.mapCur fun c => { c with lsPend := c.lsPend ++ [⟨due, op, s.issue.addr, s.issue.pos, c.sp.scnt.toNat⟩] }

def execRfrun (g : Guard) (a : SReg) (s : State) : Out :=
  s.when g
    (if s.cur.rf.isSome ∨ s.cur.inNest then s.illegal
     else
      let addr := s.rs a
      match lsFault s.cur.foot addr 128 128 0 with
      | some f => s.fail f
      | none =>
        let b := wordsOfBytes 16 (s.lsRead addr.toNat 128)
        let s1 := (s.ebp [a]).lsReq reqL s.focus addr.toNat 128 false
        if rfBad b then s.fault 1 (badBlock addr.toNat) 0
        else match rfMisaligned b with
          | some t => s.fault 7 (BitVec.ofNat 64 t) 3
          | none =>
            let s2 := s1.mapCur fun c => { c with sp := { c.sp with rexit := 0, rlevel := 0 } }
            .next ((s2.rfCall ⟨b, .refac, 0, 0, 0, false, s.issue.after⟩ .refac 2 3).later 1 .rfNorm))

/-- Why a run leaves its level: 1 stagnated, 2 diverged, 3 converged; with the stagnation count (12 R267). -/
def rfTest (r : Refine) (n rbnorm : Word64) (lev : Nat) : Option Nat × Nat :=
  let op (c : FCc) (a b : Word64) : Bool := (fcmpHolds c (f64 a) (f64 b)).1
  let bound := BitVec.ofNat 64 (FFmt.f64.mul Rnd.rne (f64 (blkWord r.blk 6)) (f64 rbnorm)).1
  let finite := match f64 n with
    | .fin .. => true
    | _ => false
  if !r.normed || !finite then (some 2, r.stag)
  else if op .le n bound then (some 3, r.stag)
  else
    let ratio := BitVec.ofNat 64 (FFmt.f64.div Rnd.rne (f64 n) (f64 r.prev)).1
    let div := decide (r.k ≥ 1) && op .gt ratio (blkWord r.blk 8)
    let stag := if r.k ≥ 1 then (if op .gt ratio (blkWord r.blk 7) then r.stag + 1 else 0) else r.stag
    if div then (some 2, stag)
    else if stag = 2 ∨ r.k + 1 = blk r.blk 5 (16 * lev) 16 then (some 1, stag)
    else (none, stag)
where
  f64 (w : Word64) : Fl := FFmt.f64.unpack w.toNat

def State.rfEnd (s : State) (r : Refine) (idle : Nat) : State :=
  (s.mapCur fun c => { c with rf := none }).jump r.ret idle

def State.setExit (s : State) (e l : Nat) : State :=
  s.mapCur fun c => { c with sp := { c.sp with rexit := BitVec.ofNat 2 e, rlevel := BitVec.ofNat 2 l } }

/-- The test after RESID, and the exit (12 R267 R268) (DEDUCED, assumption log 25). -/
def State.rfJudge (s : State) (r : Refine) : Out :=
  let n := s.cur.sp.rnorm
  let lev := s.cur.sp.rlevel.toNat
  let (ex, stag) := rfTest r n s.cur.sp.rbnorm lev
  let r := { r with prev := n, k := r.k + 1, stag := stag }
  match ex with
  | none => .next (s.rfCall r .solve 0 27)
  | some 3 => .next ((s.setExit 0 lev).rfEnd r 27)
  | some e =>
    let esc := (blkWord r.blk 4).getLsbD (15 + e)
    if esc ∧ lev + 1 < blk r.blk 4 0 3 then
      .next ((s.setExit e (lev + 1)).rfCall { r with k := 0, stag := 0 } .refac 2 27)
    else
      let x := if esc then 3 else e
      let s1 := s.setExit x lev
      if blk r.blk 3 0 48 ≠ 0 then .next (s1.rfCall r .handler 3 27)
      else if (blkWord r.blk 4).getLsbD 18 then
        s1.fault 11 (BitVec.ofNat 64 (x + 4 * lev + 2 ^ 16 * (r.k % 2 ^ 16))) n
      else .next (s1.rfEnd r 27)

def execRfret (g : Guard) (s : State) : Out :=
  s.when g
    (match s.cur.rf with
     | none => s.illegal
     | some r =>
       if s.cur.inNest then s.illegal
       else match r.phase with
        | .refac => .next (s.rfCall r .solve 0 3)
        | .solve => .next (s.rfCall r .resid 1 3)
        | .resid => s.rfJudge r
        | .handler => .next (s.rfEnd r 3))

def execRfnorm (g : Guard) (a : SReg) (s : State) : Out :=
  s.when g (.next ((s.ebp [a]).put 1 [.norm (s.rs a)] none))

end Sys2Proof.Machine
end

