-- ==== Sys2Proof/Machine/Lanes.lean ====
section
/-! DEFINITION. The Philox generator, stochastic state, and the lane-wise shape of a vector operation (05 R107 to R109,
09 R195 to R198 R215). -/
namespace Sys2Proof.Machine

/-! ### Philox-4x32-10 (05 R108 R109) -/

structure Ctr where
  c0 : Nat
  c1 : Nat
  c2 : Nat
  c3 : Nat

def philoxRound (c : Ctr) (k0 k1 : Nat) : Ctr :=
  let p0 := 0xD2511F53 * c.c0
  let p1 := 0xCD9E8D57 * c.c2
  ⟨(p1 / 2 ^ 32) ^^^ c.c1 ^^^ k0, p1 % 2 ^ 32, (p0 / 2 ^ 32) ^^^ c.c3 ^^^ k1, p0 % 2 ^ 32⟩

def philoxRounds : Nat → Ctr → Nat → Nat → Ctr
  | 0, c, _, _ => c
  | n + 1, c, k0, k1 =>
    philoxRounds n (philoxRound c k0 k1) ((k0 + 0x9E3779B9) % 2 ^ 32) ((k1 + 0xBB67AE85) % 2 ^ 32)

/-- The output for an element of the stochastic state of a context. -/
def Specials.philox (sp : Specials) (pos : Nat) : Ctr :=
  let i := (sp.base.toNat + pos) % 2 ^ 64
  philoxRounds 10 ⟨i % 2 ^ 32, i / 2 ^ 32, sp.tid.toNat, sp.draw.toNat⟩ (sp.rngk.toNat % 2 ^ 32) (sp.rngk.toNat / 2 ^ 32)

/-- The rounding of the element at position `pos`, under a resolved mode (05 R107). -/
def State.rnd (s : State) (rm : Rm) (pos : Nat) : Rnd :=
  match rm with
  | .rsto => ⟨.rsto, (s.cur.sp.philox pos).c0 % 2 ^ 16⟩
  | r => ⟨r, 0⟩

/-- A syllable whose mode resolves to RSTO advances the draw number (05 R107). -/
def State.drew (s : State) (rm : Rm) : State :=
  match rm with
  | .rsto => s.mapCur fun c => { c with sp := { c.sp with draw := c.sp.draw + 1 } }
  | _ => s

/-! ### Formats in lanes (05 R97 R99, 09 R195) -/

def fpf (f : FpFmt) : FFmt :=
  match f with
  | .f32 => .f32
  | .f64 => .f64
  | .bf16 => .bf16

def fpPair (f : FpFmt) : Bool := f == .f64

def intPair (f : IntFmt) : Bool := f == .i64

def numPair (f : NumFmt) : Bool :=
  match f with
  | .fp f => fpPair f
  | .int f => intPair f

def intBits (f : IntFmt) : Nat :=
  match f with
  | .i32 | .ui32 => 32
  | .i16 | .ui16 => 16
  | .i8 | .ui8 => 8
  | .i64 => 64

def intSigned (f : IntFmt) : Bool :=
  match f with
  | .ui32 | .ui16 | .ui8 => false
  | _ => true

/-- The unsigned value of the low bits of a lane. -/
def intRaw (f : IntFmt) (w : Word64) : Nat := w.toNat % 2 ^ intBits f

/-- The element of a lane, by its format's signedness. -/
def intVal (f : IntFmt) (w : Word64) : Int :=
  let x := intRaw f w
  if intSigned f && x.testBit (intBits f - 1) then (x : Int) - (2 ^ intBits f : Nat) else x

/-- An element written to a lane: extended by its format's signedness (05 R97). -/
def intPut (f : IntFmt) (v : Int) : Word64 :=
  let x := (v.emod (2 ^ intBits f : Nat)).toNat
  if intSigned f && x.testBit (intBits f - 1) then BitVec.ofInt 64 ((x : Int) - (2 ^ intBits f : Nat)) else BitVec.ofNat 64 x

def intMin (f : IntFmt) : Int := if intSigned f then -(2 ^ (intBits f - 1) : Nat) else 0

def intMax (f : IntFmt) : Int := if intSigned f then (2 ^ (intBits f - 1) : Nat) - 1 else (2 ^ intBits f : Nat) - 1

/-- SatI and SatU (05 R98). -/
def intSat (f : IntFmt) (v : Int) : Int × Ev :=
  if v < intMin f then (intMin f, Ev.sat) else if v > intMax f then (intMax f, Ev.sat) else (v, 0)

def flOf (f : FpFmt) (w : Word64) : Fl := (fpf f).unpack w.toNat

/-! ### Shapes -/

def bypassIfRead (s : State) (m : Mask) (srcs : List VReg) : State := if m = 0 then s else s.ebp [] srcs

/-- A lane-wise operation: executed lanes get `f`, masked lanes keep their value; the events of the executed lanes
(09 R196 R198). -/
def State.vLanes (s : State) (g : Guard) (pair : Bool) (d : VReg) (lat : Nat) (srcs : List VReg)
    (f : Fin 64 → Word64 × Ev) : State :=
  let m := s.lanes g
  let r : Vector (Word64 × Ev) 64 := Vector.ofFn fun i => if m.getLsbD i.val then f i else (0, 0)
  (bypassIfRead s m srcs).putV64 pair d lat m (r.map Prod.fst) (Ev.union (r.toList.map Prod.snd))

/-- A lane-wise comparison: executed lanes get their bit (09 R201 R204). -/
def State.vCmp (s : State) (g : Guard) (pd : Fin 64) (srcs : List VReg) (f : Fin 64 → Bool × Ev) : State :=
  let m := s.lanes g
  let r : Vector (Bool × Ev) 64 := Vector.ofFn fun i => if m.getLsbD i.val then f i else (false, 0)
  let bits : Mask := BitVec.ofNat 64 ((List.range 64).foldl
    (fun n i => n + (if (r.toArray.getD i (false, 0)).1 then 2 ^ i else 0)) 0)
  (bypassIfRead s m srcs).putP pd 2 m bits (Ev.union (r.toList.map Prod.snd))

/-- A rounded lane result. -/
def fbits (x : Nat × Ev) : Word64 × Ev := (BitVec.ofNat 64 x.1, x.2)

end Sys2Proof.Machine
end

