-- ==== Sys2Proof/Machine/Mx.lean ====
section
/-! DEFINITION. Microscaling formats, quantisation and dequantisation (05 R111 to R115, 09 R206). -/
namespace Sys2Proof.Machine

/-- Element width in bits (05 R112). -/
def mxBits (f : MxFmt) : Nat :=
  match f with
  | .mxint8 => 8
  | .mxint6 => 6
  | .mxint4 => 4

/-- Fraction bits k of an element. -/
def mxK (f : MxFmt) : Nat :=
  match f with
  | .mxint8 => 6
  | .mxint6 => 4
  | .mxint4 => 2

/-- Registers of the wide operand. -/
def mxN (f : MxFmt) : Nat :=
  match f with
  | .mxint4 => 8
  | _ => 4

/-- The two's-complement value of an n-bit code. -/
def signedCode (n x : Nat) : Int := let y := x % 2 ^ n; if y.testBit (n - 1) then (y : Int) - (2 ^ n : Nat) else y

/-- Element j of packed bytes. -/
def mxGet (f : MxFmt) (bs : Array Byte) (j : Nat) : Int :=
  match f with
  | .mxint4 => signedCode 4 ((bs.getD (j / 2) 0).toNat / 16 ^ (j % 2))
  | f => signedCode (mxBits f) (bs.getD j 0).toNat

/-- Packed bytes of element codes (05 R112). -/
def mxPack (f : MxFmt) (q : Array Int) : List Byte :=
  match f with
  | .mxint4 => (List.range (q.size / 2)).map fun i =>
      BitVec.ofNat 8 (((q.getD (2 * i) 0).emod 16).toNat + 16 * ((q.getD (2 * i + 1) 0).emod 16).toNat)
  | _ => q.toList.map fun v => BitVec.ofInt 8 v

/-- Whether 2^e ≥ amax / fmax, for amax = m × 2^x. -/
def mxCovers (f : MxFmt) (m : Nat) (x e : Int) : Bool :=
  let a := e - mxK f
  let lo := min a x
  decide ((2 ^ (mxBits f - 1) - 1) <<< (a - lo).toNat ≥ m <<< (x - lo).toNat)

/-- The smallest e with 2^e ≥ amax / fmax (05 R113). -/
def mxExp (f : MxFmt) (m : Nat) (x : Int) : Int :=
  let base : Int := bitLen m - (mxBits f - 1) + x + mxK f
  if mxCovers f m x (base - 1) then base - 1 else if mxCovers f m x base then base else base + 1

/-- The larger of two magnitudes m × 2^e. -/
def magMax (a b : Nat × Int) : Nat × Int :=
  let lo := min a.2 b.2
  if a.1 <<< (a.2 - lo).toNat < b.1 <<< (b.2 - lo).toNat then b else a

/-- Quantisation of one block: the scale code, the element codes and the events (05 R113 R114). -/
def mxQuant (f : MxFmt) (q : Nat → Rnd) (xs : List Fl) : Nat × List Int × Ev :=
  let mags := xs.map fun x => match x with
    | .fin _ m e => some (m, e)
    | _ => none
  if mags.any Option.isNone then (0xFF, xs.map fun _ => 0, Ev.nv)
  else
    let amax := (mags.filterMap id).foldl magMax (0, 0)
    if amax.1 = 0 then (0, xs.map fun _ => 0, 0)
    else
      let e := max (-127) (min 127 (mxExp f amax.1 amax.2))
      let top : Int := 2 ^ (mxBits f - 1) - 1
      let one (j : Nat) (x : Fl) : Int × Ev := match x with
        | .fin n m ex =>
          let (k, inexact) := roundInt (q j) n m (ex + mxK f - e)
          let v : Int := if n then -(k : Int) else k
          if v > top then (top, Ev.sat ||| Ev.nx)
          else if v < -top - 1 then (-top - 1, Ev.sat ||| Ev.nx)
          else (v, if inexact then Ev.nx else 0)
        | _ => (0, 0)
      let r := xs.zipIdx.map fun (x, j) => one j x
      ((e + 127).toNat, r.map Prod.fst, Ev.union (r.map Prod.snd))

/-- The value of an element: exact in F32 and BF16; code 0xFF is a NaN (05 R115). The one element beyond the
formats' range, −2^128, is the lowest code under scale 254: its value is free (DESIGN CHOICE, assumption log 12). -/
def mxDeq (f : MxFmt) (w : FFmt) (q : Int) (c : Nat) : Nat :=
  if c = 0xFF then w.nanBits
  else if q = 0 then 0
  else if c = 254 ∧ q = -(2 ^ (mxBits f - 1)) then (Config.mxBeyond (w.p == 8)).toNat % 2 ^ (w.p + w.eb)
  else (w.round Rnd.rne (decide (q < 0)) q.natAbs ((c : Int) - 127 - mxK f) false).1

def wideFmt (bf16 : Bool) : FFmt := if bf16 then .bf16 else .f32

/-- VQNT: whole-vector (09 R206). -/
def execVqnt (rm : Rm) (o : VQ) (s : State) : Out :=
  s.when o.g
    (let n := mxN o.mx
     let m := s.rmode rm
     let wide : Array Vec := ((List.range n).map fun i => s.rv (o.a.plus i)).toArray
     let elem (j : Nat) : Fl :=
       (wideFmt o.bf16).unpack ((wide.getD (j / 64) Vec.zero).get (Fin.ofNat 64 (j % 64))).toNat
     let blocks := (List.range (2 * n)).map fun b =>
       mxQuant o.mx (fun j => s.rnd m (32 * b + j)) ((List.range 32).map fun j => elem (32 * b + j))
     let q := (blocks.flatMap fun x => x.2.1).toArray
     let codes := (blocks.map fun x => x.1).toArray
     let base := 2 * n * o.grp.val
     let mask : Mask := BitVec.ofNat 64 ((2 ^ (2 * n) - 1) * 2 ^ base)
     let scale : RegWrite := .scale o.e mask (Vector.ofFn fun i => BitVec.ofNat 8 (codes.getD (i.val - base) 0))
     .next (((s.ebp [] [o.a]).drew m).putVs o.d 6 [vecOfBytes (mxPack o.mx q)] (Ev.union (blocks.map fun x => x.2.2))
       [scale]))

/-- VDQNT: whole-vector (09 R206). -/
def execVdqnt (o : VQ) (s : State) : Out :=
  s.when o.g
    (let n := mxN o.mx
     let bs := (vecBytes (s.rv o.a)).toArray
     let e := s.cur.regs.e.get o.e
     let base := 2 * n * o.grp.val
     let val (j : Nat) : Word32 :=
       BitVec.ofNat 32 (mxDeq o.mx (wideFmt o.bf16) (mxGet o.mx bs j) (e.get (Fin.ofNat 64 (base + j / 32))).toNat)
     .next ((s.ebp [] [o.a]).putVs o.d 3 ((List.range n).map fun i => Vec.ofLanes fun l => val (64 * i + l.val))))

end Sys2Proof.Machine
end

