-- ==== Sys2Proof/Machine/Matrix.lean ====
section
/-! DEFINITION. Matrix steps and accumulator moves (10 R216 to R226, 05 R121 R122). -/
namespace Sys2Proof.Machine

/-! ### Formats and operand slices (10 R216 R217) -/

/-- Dense positions along K of one step. -/
def mfK (f : MFmt) : Nat :=
  match f with
  | .mx8 | .mx6 | .bf16 => 1
  | .mx4 => 4
  | .mx8x4 | .mx4x8 => 2

/-- The element format of A and of B; none for BF16. -/
def mfA (f : MFmt) : Option MxFmt :=
  match f with
  | .mx8 | .mx8x4 => some .mxint8
  | .mx6 => some .mxint6
  | .mx4 | .mx4x8 => some .mxint4
  | .bf16 => none

def mfB (f : MFmt) : Option MxFmt :=
  match f with
  | .mx8 | .mx4x8 => some .mxint8
  | .mx6 => some .mxint6
  | .mx4 | .mx8x4 => some .mxint4
  | .bf16 => none

/-- Bytes of a slice of p positions. -/
def sliceBytes (f : Option MxFmt) (p : Nat) : Nat :=
  match f with
  | none => 128 * p
  | some .mxint4 => 32 * p
  | some _ => 64 * p

/-- An LS stream of a step: the context whose LS it reads, its kind, offset and length (10 R218). -/
structure Stream where
  at_  : LsAt
  kind : Nat
  addr : Nat
  len  : Nat

/-- The stream of a source, with the faults of its address; none for a register (DEDUCED, assumption log 29). -/
def State.stream (s : State) (src : MSrc) (kind len : Nat) : Except Flt (Option Stream) :=
  match src with
  | .vec _ => .ok none
  | .ls a =>
    match lsFault s.cur.foot (s.cur.aVal a) len 64 0 with
    | some f => .error f
    | none => .ok (some ⟨⟨s.focus, none⟩, kind, (s.cur.aVal a).toNat, len⟩)
  | .remote a core =>
    match s.remote core (s.cur.aVal a) len 0 with
    | .error f => .error f
    | .ok k => .ok (some ⟨k, reqRemote, (s.cur.aVal a).toNat, len⟩)

/-- The bytes of a source. -/
def State.srcBytes (s : State) (src : MSrc) (st : Option Stream) : Array Byte :=
  match src, st with
  | .vec v, _ => (vecBytes (s.rv v)).toArray
  | .ls _, some t => (s.lsRead t.addr t.len).toArray
  | .remote _ _, some t => ((s.lsCtx t.at_).ls.readN t.addr t.len).toArray
  | _, none => #[]

/-- The bank request of a stream; a saved LS has no banks (DEDUCED, assumption log 29). -/
def State.reqStream (s : State) (st : Option Stream) : State :=
  match st with
  | some t => if t.at_.saved.isSome then s else s.lsReq t.kind t.at_.key t.addr t.len false
  | none => s

def srcRegs : MSrc → List VReg
  | .vec v => [v]
  | _ => []

/-! ### The step (10 R220 R222) -/

/-- For each kept position, its dense position, from the line's select byte (10 R222). -/
def selPos (k : Nat) (sel : Byte) (x : Nat) : Nat :=
  match k with
  | 1 => sel.toNat % 2
  | 2 => sel.toNat / 4 ^ x % 4
  | _ => 4 * (x / 2) + sel.toNat / 4 ^ x % 4

/-- The pairs of positions that cell (i, j) multiplies: of A and of B. -/
def stepPairs (k : Nat) (sparse : Option (Bool × Array Byte)) (i j : Nat) : List (Nat × Nat) :=
  (List.range k).map fun x =>
    match sparse with
    | none => (x, x)
    | some (false, sel) => (x, selPos k (sel.getD i 0) x)
    | some (true, sel) => (selPos k (sel.getD j 0) x, x)

/-- Element e of a BF16 slice. -/
def bfAt (bs : Array Byte) (e : Nat) : Fl :=
  FFmt.bf16.unpack ((bs.getD (2 * e) 0).toNat + 256 * (bs.getD (2 * e + 1) 0).toNat)

/-- One BF16 cell: each product is added with one rounding (05 R122). -/
def bfCell (a b : Array Fl) (i j : Nat) (ps : List (Nat × Nat)) (m : Word32) : Word32 × Ev :=
  ps.foldl (fun (acc : Word32 × Ev) p =>
    let r := FFmt.f32.fma Rnd.rne (a.getD (64 * p.1 + i) (.fin false 0 0)) (b.getD (64 * p.2 + j) (.fin false 0 0))
      (FFmt.f32.unpack acc.1.toNat)
    (BitVec.ofNat 32 r.1, acc.2 ||| r.2)) (m, 0)

/-- One MXINT cell's new partial (05 R121). -/
def mxCell (a b : Array Int) (i j : Nat) (ps : List (Nat × Nat)) (part : Word32) : Word32 :=
  BitVec.ofInt 32 (ps.foldl (fun v p => v + a.getD (64 * p.1 + i) 0 * b.getD (64 * p.2 + j) 0) part.toInt)

/-- A block closes: the scaled partial is added with one rounding; a scale of 0xFF makes the cell NaN quietly. -/
def closeCell (cA cB kk : Nat) (m part : Word32) : Word32 × Ev :=
  if cA = 0xFF ∨ cB = 0xFF then (BitVec.ofNat 32 FFmt.f32.nanBits, 0)
  else
    let r := FFmt.f32.add Rnd.rne (FFmt.f32.unpack m.toNat)
      (.fin (part.toInt < 0) part.toInt.natAbs ((cA : Int) + cB - 254 - kk))
    (BitVec.ofNat 32 r.1, r.2)

def mapCells {α β : Type} (c : Vector (Vector α 64) 64) (f : Nat → Nat → α → β) : Vector (Vector β 64) 64 :=
  Vector.ofFn fun i => Vector.ofFn fun j => f i.val j.val ((c.get i).get j)

def cellEvents (c : Vector (Vector (Word32 × Ev) 64) 64) : Ev :=
  c.toList.foldl (fun e r => r.toList.foldl (fun e x => e ||| x.2) e) 0

/-- The accumulator after a step, with its events. -/
def Acc.step (m : Acc) (o : MStepOp) (sparse : Option (Bool × Array Byte)) (a b : Array Byte)
    (eA eB : Vector Byte 64) : Acc × Ev :=
  let k := mfK o.fmt
  let m := if o.ovw then { Acc.zero with seen := m.seen } else m
  let ps := stepPairs k sparse
  match mfA o.fmt, mfB o.fmt with
  | some fa, some fb =>
    let p := if sparse.isSome then 2 * k else k
    let qa := ((List.range (64 * p)).map fun e => mxGet fa a e).toArray
    let qb := ((List.range (64 * p)).map fun e => mxGet fb b e).toArray
    let part := mapCells m.part fun i j x => mxCell qa qb i j (ps i j) x
    let kc := m.kcount + p
    if kc = 32 then
      let kk := mxK fa + mxK fb
      let c : Vector (Vector (Word32 × Ev) 64) 64 := mapCells m.cells fun i j x =>
        closeCell (eA.get (Fin.ofNat 64 i)).toNat (eB.get (Fin.ofNat 64 j)).toNat kk x
          ((part.get (Fin.ofNat 64 i)).get (Fin.ofNat 64 j))
      ({ m with cells := c.map fun r => r.map Prod.fst, part := Cells.zero, kcount := 0, tag := some o.fmt }, cellEvents c)
    else ({ m with part := part, kcount := kc, tag := some o.fmt }, 0)
  | _, _ =>
    let p := if sparse.isSome then 2 else 1
    let fa := ((List.range (64 * p)).map (bfAt a)).toArray
    let fb := ((List.range (64 * p)).map (bfAt b)).toArray
    let c := mapCells m.cells fun i j x => bfCell fa fb i j (ps i j) x
    ({ m with cells := c.map fun r => r.map Prod.fst }, cellEvents c)

/-- Whether the step breaks an open block (10 R221). -/
def Acc.breaks (m : Acc) (o : MStepOp) (sparse : Bool) : Bool :=
  o.fmt != .bf16 && !o.ovw && m.kcount != 0
    && (m.tag != some o.fmt || decide (m.kcount + (if sparse then 2 * mfK o.fmt else mfK o.fmt) > 32))

/-- The step closes its block: it alone reads the scale registers (10 R220). -/
def Acc.closes (m : Acc) (o : MStepOp) (sparse : Bool) : Bool :=
  o.fmt != .bf16 && (if o.ovw then 0 else m.kcount) + (if sparse then 2 * mfK o.fmt else mfK o.fmt) == 32

def Ctx.withAcc (c : Ctx) (n : Fin 4) (m : Acc) : Ctx := { c with regs := { c.regs with m := c.regs.m.set n m } }

/-- An accumulator changes in issue order, and its cells land as a result (10 R223). -/
def State.putAcc (s : State) (n : Fin 4) (lat : Nat) (m : Acc) (ev : Ev := 0) : State :=
  let s1 := s.mapCur (·.withAcc n m)
  { s1 with cur := s1.cur.put s.issue s.cur.sp.scnt.toNat lat [.acc n m.cells] none ev false (some n) }

/-- A stream that the context waits for: a remote one of an elastic grid (10 R218). -/
def State.farStream (s : State) (st : Option Stream) : Bool := s.cur.elastic && st.any fun t => t.kind == reqRemote

/-- The step of an elastic grid with a remote stream issues: its streams are asked for in this tick's LS accesses, and it waits for
their bytes (10 R218). -/
def State.matWait (s : State) (o : MStepOp) (sel : Option (Bool × Array Byte)) (sa sb : Option Stream) : State :=
  let part (src : MSrc) (st : Option Stream) : Option (List Byte) :=
    if s.farStream st then none else some (s.srcBytes src st).toList
  let ask (s : State) (right : Bool) (src : MSrc) (st : Option Stream) : State := match src, st with
    | .remote _ core, some t => s.later 0 (.stream right core (BitVec.ofNat 64 t.addr) t.len)
    | _, _ => s.reqStream st
  let m : MPend :=
    ⟨o, sel.map fun x => (x.1, x.2.toList), part o.a sa, part o.b sb, s.cur.regs.e.get o.eA, s.cur.regs.e.get o.eB,
      s.issue.addr, s.issue.pos, s.cur.sp.scnt.toNat⟩
  ask (ask (s.mapCur fun c => { c with mstep := some m }) false o.a sa) true o.b sb

/-- A step: the break of an open block is checked first, then the address of A, then that of B (DEDUCED, assumption log 61). -/
def State.matStep (s : State) (o : MStepOp) (sparse : Option (Bool × VReg)) : Out :=
  s.when o.g
    (let m := s.cur.regs.m.get o.acc
     let k := mfK o.fmt
     let pa := match sparse with
       | some (true, _) => 2 * k
       | _ => k
     let pb := match sparse with
       | some (false, _) => 2 * k
       | _ => k
     if m.breaks o sparse.isSome then s.fault 1 (BitVec.ofNat 64 (2 ^ 61 + o.acc.val)) 0
     else match s.stream o.a reqA (sliceBytes (mfA o.fmt) pa), s.stream o.b reqB (sliceBytes (mfB o.fmt) pb) with
      | .error f, _ => s.fail f
      | _, .error f => s.fail f
      | .ok sa, .ok sb =>
        let regs := srcRegs o.a ++ srcRegs o.b ++ (match sparse with | some (_, v) => [v] | none => [])
        let sel := sparse.map fun x => (x.1, (vecBytes (s.rv x.2)).toArray)
        if s.farStream sa || s.farStream sb then .next ((s.ebp [] regs).matWait o sel sa sb)
        else
        let r := m.step o sel (s.srcBytes o.a sa) (s.srcBytes o.b sb) (s.cur.regs.e.get o.eA) (s.cur.regs.e.get o.eB)
        .next ((((s.ebp [] regs).reqStream sa).reqStream sb).putAcc o.acc 8 r.1 r.2))

def execMstep (o : MStepOp) (s : State) : Out := s.matStep o none

def execMsteps (sparseB : Bool) (o : MStepOp) (vsel : VReg) (s : State) : Out := s.matStep o (some (sparseB, vsel))

/-! ### Accumulator moves (10 R224 R225) -/

def execMzero (g : Guard) (acc : Fin 4) (s : State) : Out :=
  s.when g (.next (s.putAcc acc 1 { Acc.zero with seen := (s.cur.regs.m.get acc).seen }))

def State.mrow (s : State) (r : MRow) : Fin 64 :=
  match r with
  | .imm n => n
  | .areg a => Fin.ofNat 64 (s.cur.aVal a).toNat

/-- A result of the M unit with a vector destination. -/
def State.putM (s : State) (d : VReg) (lat : Nat) (v : Vec) (ev : Ev := 0) (more : List RegWrite := []) : State :=
  s.put lat (s.vWrites d (BitVec.allOnes 64) [v] ++ more) (some (.m v)) ev

def execMrd (g : Guard) (d : VReg) (acc : Fin 4) (row : MRow) (s : State) : Out :=
  s.when g (.next (s.putM d 3 ((s.cur.regs.m.get acc).seen.get (s.mrow row))))

def execMwr (g : Guard) (acc : Fin 4) (row : MRow) (a : VReg) (s : State) : Out :=
  s.when g
    (let m := s.cur.regs.m.get acc
     .next ((s.ebp [] [a]).putAcc acc 2 { m with cells := m.cells.set (s.mrow row) (s.rv a) }))

def execMrdq (g : Guard) (mx : Bool) (rm : Rm) (d : VReg) (acc : Fin 4) (row : MRow) (e : Fin 8) (s : State) : Out :=
  s.when g
    (let m := s.rmode rm
     let r := s.mrow row
     let x := (s.cur.regs.m.get acc).seen.get r
     if mx then
      let blocks := (List.range 2).map fun b =>
        mxQuant .mxint8 (fun j => s.rnd m (32 * b + j))
          ((List.range 32).map fun j => FFmt.f32.unpack (x.get (Fin.ofNat 64 (32 * b + j))).toNat)
      let g2 := 2 * (r.val % 32)
      let codes := (blocks.map Prod.fst).toArray
      let scale : RegWrite := .scale e (BitVec.ofNat 64 (3 * 2 ^ g2))
        (Vector.ofFn fun i => BitVec.ofNat 8 (codes.getD (i.val - g2) 0))
      .next ((s.drew m).putM d 5 (vecOfBytes (mxPack .mxint8 (blocks.flatMap fun b => b.2.1).toArray))
        (Ev.union (blocks.map fun b => b.2.2)) [scale])
     else
      let v : Vector (Nat × Ev) 64 := Vector.ofFn fun j =>
        FFmt.bf16.ofFl (s.rnd m j.val) (FFmt.f32.unpack (x.get j).toNat)
      .next ((s.drew m).putM d 5 (Vec.ofLanes fun j => BitVec.ofNat 32 (v.get j).1) (Ev.union (v.toList.map Prod.snd))))

end Sys2Proof.Machine
end

