-- ==== Sys2Proof/Machine/Bundle.lean ====
section
/-! DEFINITION. Whole bundles: their owners and X syllables, legality, the registers that a syllable names, the checks syllable
by syllable, and the interlocks (04 R78 to R86, 03 R57 R61 R64 R68, 15 R296 to R298, 28). -/
namespace Sys2Proof

/-! ### Registers by number

A part of a register is a number: a scalar specifier as it is encoded (0 to 97), 100 + 8n + k stride k of an, 300 + n a
predicate, 400 + n an accumulator, 410 + n a scale, 420 + n a witness, 430 + n a handle, 440 the stochastic state, 500 + n a
special, and 1024 + a vector specifier. -/

def keyScale (n : Nat) : Nat := 410 + n
def keyHandle (n : Nat) : Nat := 430 + n
def keyVec (n : Nat) : Nat := 1024 + n

/-- The scalar register of a specifier; a bypass and a reserved specifier name none (03 R47). -/
def keyS (d : Nat) : List Nat := if d < 80 then [d] else []

/-- The predicate register of a field; a number above 63 is reserved and names none (04 R72). -/
def keyP (d : Nat) : List Nat := if d < 64 then [300 + d] else []

/-- Stride `k` of the stream register of a specifier; another specifier names none (07 R155). -/
def keyStride (d k : Nat) : List Nat := if 64 ≤ d ∧ d < 80 ∧ k < 6 then [100 + 8 * (d - 64) + k] else []

/-- `n` registers from a vector specifier up. -/
def vecKeys (spec n : Nat) : List Nat := if spec < 640 then (List.range n).map fun i => keyVec (spec + i) else [keyVec spec]

/-- Registers that an element format takes: two for F64, SEF and I64 (03 R52). -/
def fmtRegs (f : Nat) : Nat := if f = 1 ∨ f = 9 ∨ f = 13 then 2 else 1

/-- Registers of a packed group (09 R206). -/
def mxRegs (f : Nat) : Nat := if f = 12 then 8 else 4

def inR (a lo hi : Nat) : Bool := decide (lo ≤ a) && decide (a ≤ hi)

/-- Destinations of an S syllable, as encoded (04 R84, 07 R155 R162 R167). -/
def destS (w : Nat) : List Nat :=
  let op := opc w
  let d := bits w 36 7
  if inR op 0x10 0x27 || op == 0x32 || op == 0x34 || op == 0x35 || inR op 0x40 0x45 || inR op 0x47 0x49 || op == 0x50
      || op == 0x71 || op == 0x58 then keyS d
  else if op == 0x30 || op == 0x31 || op == 0x33 || op == 0x46 then keyP d
  else if op == 0x51 then [500 + bits w 13 9]
  else if op == 0x59 then keyStride d (sFn w)
  else if op == 0x5A then (List.range 6).flatMap (keyStride d)
  else if op == 0x62 then [63]
  else if op == 0x74 then (if d < 64 then [d] else []) ++ (if d + 1 < 64 then [d + 1] else [])
  else []

/-- Destinations of a V syllable. -/
def destV (w : Nat) : List Nat :=
  let op := opc w
  let d := bits w 34 10
  let k := 420 + bits w 0 3
  let one := vecKeys d 1
  let byFmt := vecKeys d (fmtRegs (vFmt w))
  let n := bits w 14 4
  if op == 0x20 || op == 0x36 then keyP d
  else if op == 0x21 || op == 0x3B || op == 0x4A || op == 0x5A then one
  else if op == 0x39 then one ++ [keyScale (bits w 14 3)]
  else if op == 0x3A then vecKeys d (mxRegs (vFmt w))
  else if inR op 0x40 0x43 then vecKeys d 2
  else if op == 0x44 then vecKeys d (if vFn w < 2 then 2 else 1)
  else if op == 0x49 || op == 0x4B || op == 0x4C then vecKeys d (if bits w 0 1 = 1 then 2 else 1)
  else if op == 0x58 || op == 0x59 || op == 0x5B then vecKeys d 16
  else if op == 0x60 then (if vFn w = 0 then [440] else one)
  else if op == 0x68 || op == 0x69 then (if vFn w = 0 then vecKeys d 16 else one) ++ [k]
  else if op == 0x6A || op == 0x6B then vecKeys d 16 ++ [k]
  else if op == 0x6C then one ++ [k]
  else if op == 0x6D then
    vecKeys d (if bits w 18 2 = 0 ∧ vFn w ≠ 3 then 16 * n else 16) ++ (if bits w 3 1 = 1 then [k] else [])
  else if op == 0x6E then (if vFn w = 0 then vecKeys d 4 else one)
  else if op == 0x6F then [k]
  else byFmt

/-- Destinations of an M syllable. -/
def destM (w : Nat) : List Nat :=
  let op := opc w
  if op == 0x13 then [keyVec (bits w 29 10)]
  else if op == 0x15 then keyVec (bits w 29 10) :: (if bits w 12 4 = 1 then [keyScale (bits w 9 3)] else [])
  else [400 + bits w 42 2]

/-- Destinations of an L syllable. -/
def destL (w : Nat) : List Nat :=
  let op := opc w
  let v := bits w 34 10
  if op == 0x10 || op == 0x20 || op == 0x29 || op == 0x30 || op == 0x31 || op == 0x3B || op == 0x3C || op == 0x40 then
    keyS (bits w 37 7)
  else if op == 0x12 || op == 0x16 || op == 0x18 || op == 0x22 || op == 0x24 || op == 0x33 || op == 0x4D then vecKeys v 1
  else if op == 0x14 then vecKeys v 16
  else if op == 0x5B || op == 0x5E then vecKeys v (if bits w 0 1 = 1 then 1 else 2)
  else if op == 0x28 then [keyHandle (bits w 34 3)]
  else if op == 0x2C then [keyScale (bits w 34 3)]
  else if op == 0x51 then [420 + bits w 34 3]
  else []

/-- Destinations of a K syllable (15). -/
def destK (w : Nat) : List Nat :=
  let op := opc w
  if op == 0x10 || op == 0x11 || op == 0x13 || op == 0x16 || op == 0x18 || op == 0x19 || op == 0x1A
      || (op == 0x1B && kFn w != 3) then keyS (bits w 37 7)
  else []

/-- Whether a number names part of a register: writes to s0 and to a vector bypass do not count (04 R84). -/
def isReg (k : Nat) : Bool := k != 0 && decide (k < 1664)

/-- The parts of registers that a syllable names as destinations, whatever its predicate holds (DEDUCED, assumption log 26). -/
def destKeys (w : Nat) : List Nat :=
  (match cls w with
   | 0 => destS w
   | 1 => destV w
   | 2 => destM w
   | 3 => destL w
   | 5 => destK w
   | _ => []).filter isReg

/-! ### Registers that a syllable reads (03 R56 R61) -/

def readS (w : Nat) : List Nat :=
  let op := opc w
  let a := bits w 29 7
  let b := if bits w 43 1 = 0 then [bits w 22 7] else []
  let only := if bits w 43 1 = 0 then [a] else []
  if op == 0x23 || op == 0x27 then [a, bits w 36 7] ++ b
  else if op == 0x24 || op == 0x33 || op == 0x58 || op == 0x59 then only
  else if inR op 0x20 0x22 || op == 0x45 || op == 0x47 || op == 0x51 || op == 0x61 || op == 0x63 || op == 0x78 || op == 0x7A then
    [a]
  else if op == 0x43 then [a, bits w 22 7, bits w 36 7]
  else if inR op 0x10 0x27 || op == 0x30 || inR op 0x40 0x49 then a :: b
  else if op == 0x64 && bits w 40 1 == 1 then [bits w 24 7]
  else []

def readV (w : Nat) (x : Option Nat) : List Nat :=
  let op := opc w
  let a := bits w 24 10
  let b := bits w 14 10
  let n := fmtRegs (vFmt w)
  if op == 0x4A || op == 0x4C || (op == 0x60 && vFn w != 0) || op == 0x6E || op == 0x6F then []
  else if inR op 0x13 0x15 then
    vecKeys a n ++ vecKeys b n ++ vecKeys (match x with | some p => p % 1024 | none => bits w 34 10) n
  else if op == 0x38 then vecKeys a (fmtRegs (vMod w))
  else if op == 0x39 then vecKeys a (mxRegs (vFmt w))
  else if op == 0x3A then vecKeys a 1 ++ [keyScale (bits w 14 3)]
  else if op == 0x3C || op == 0x54 then vecKeys a n ++ vecKeys b 1
  else if inR op 0x40 0x42 then vecKeys a 2 ++ vecKeys b 2
  else if op == 0x43 then vecKeys a 2
  else if op == 0x44 then vecKeys a (if vFn w < 2 then 1 else 2)
  else if op == 0x49 || op == 0x4B then
    let m := if bits w 0 1 = 1 then 2 else 1
    vecKeys a m ++ vecKeys b m
  else if inR op 0x58 0x5B then vecKeys a 16
  else if op == 0x60 then vecKeys a 1
  else if op == 0x68 || op == 0x69 then vecKeys a (if vFn w = 0 then 16 * bits w 14 4 else 16)
  else if op == 0x6A then vecKeys a 16 ++ vecKeys b 1
  else if op == 0x6B then vecKeys a (16 * bits w 14 4)
  else if op == 0x6C then vecKeys a 16
  else if op == 0x6D then vecKeys a (if bits w 18 2 = 0 then 16 else 1)
  else if inR op 0x10 0x12 || op == 0x16 || op == 0x17 || op == 0x1A || op == 0x20 || inR op 0x28 0x33 || op == 0x36 then
    vecKeys a n ++ vecKeys b n
  else vecKeys a n

/-- The register of a matrix source (04 R75). -/
def readMSrc (kind spec : Nat) : List Nat := if kind = 0 then vecKeys spec 1 else [spec % 128]

def readM (w : Nat) (x : Option Nat) : List Nat :=
  let op := opc w
  let row := if bits w 26 3 = 1 then [bits w 16 7] else []
  if op == 0x10 || op == 0x11 then
    readMSrc (bits w 39 3) (bits w 29 10) ++ readMSrc (bits w 26 3) (bits w 16 10)
      ++ (if bits w 12 4 = 5 then [] else [keyScale (bits w 9 3), keyScale (bits w 6 3)])
      ++ (if op == 0x11 then vecKeys (bits (x.getD 0) 8 10) 1 else [])
  else if op == 0x14 then vecKeys (bits w 29 10) 1 ++ row
  else if op == 0x12 then []
  else row

/-- The registers of an address operand (04 R76). -/
def readAddr (w : Nat) (x : Option Nat) : List Nat :=
  match bits w 30 4 with
  | 4 => [keyHandle (bits w 23 3)]
  | 2 => [bits w 23 7, bits (x.getD 0) 0 7]
  | _ => [bits w 23 7]

def readL (w : Nat) (x : Option Nat) : List Nat :=
  let op := opc w
  let v := bits w 34 10
  let d := bits w 37 7
  let p := x.getD 0
  let data :=
    if op == 0x11 || op == 0x21 || op == 0x31 || op == 0x39 || op == 0x3D || op == 0x41 || op == 0x42
        || (op == 0x59 && 2 ≤ lFn w % 4) then [d]
    else if op == 0x13 || op == 0x17 || op == 0x19 || op == 0x23 || op == 0x25 then vecKeys v 1
    else if op == 0x15 then vecKeys v 16
    else if op == 0x59 then vecKeys v (if lFn w % 4 = 0 then 1 else 2)
    else if op == 0x2D then [keyScale (bits w 34 3)]
    else []
  let ext :=
    if op == 0x24 || op == 0x25 then vecKeys (bits p 0 10) 1
    else if op == 0x30 || op == 0x31 then [bits p 0 7]
    else if op == 0x32 || op == 0x33 then vecKeys (bits p 0 10) 1 ++ vecKeys (bits p 10 10) 1
    else []
  let base :=
    if inR op 0x10 0x19 || inR op 0x20 0x25 || op == 0x2C || op == 0x2D || inR op 0x30 0x33 || op == 0x39 || op == 0x3D
        || op == 0x4D || op == 0x50 || op == 0x51 || op == 0x59 || op == 0x5B || op == 0x5C || op == 0x5E then readAddr w x
    else if op == 0x28 || inR op 0x40 0x42 then [bits w 23 7]
    else if inR op 0x48 0x4C || op == 0x4E || op == 0x58 || op == 0x5A then [bits w 13 7]
    else []
  data ++ ext ++ base

def readK (w : Nat) : List Nat :=
  let op := opc w
  let y := bits w 30 7
  if (op == 0x16 && kFn w == 1) || (op == 0x1B && kFn w == 3) then []
  else if inR op 0x12 0x14 || op == 0x17 || op == 0x1A || (op == 0x1B && kFn w == 0) then [y, bits w 23 7]
  else [y]

def readKeys (w : Nat) (x : Option Nat) : List Nat :=
  match cls w with
  | 0 => readS w
  | 1 => readV w x
  | 2 => readM w x
  | 3 => readL w x
  | 5 => readK w
  | _ => []

/-- A V syllable that acts lane by lane (03 R57, 09 R196). -/
def laneWise (w : Nat) : Bool :=
  let op := opc w
  cls w == 1 && (inR op 0x10 0x38 || inR op 0x3B 0x44 || op == 0x48 || op == 0x4C || (op == 0x60 && vFn w == 1))

/-! ### Owners and their X (04 R78 R82) -/

/-- A syllable of a bundle that is no X: its position, its bits, its X, and whether it is the second V syllable. -/
structure Slot where
  pos   : Fin 8
  w     : Nat
  x     : Option Nat
  unit1 : Bool
  deriving DecidableEq, Repr

/-- Syllables in stream order, each owner with the X after it; `v` counts the V syllables before. -/
def slotsFrom : Nat → Nat → List Nat → List Slot
  | _, _, [] => []
  | i, v, w :: l =>
    let x := match l with
      | y :: _ => if cls y = 4 then some (y % 2 ^ 60) else none
      | [] => none
    let isV := cls w = 1
    let rest := slotsFrom (i + 1) (if isV then v + 1 else v) l
    if cls w = 4 then rest else ⟨Fin.ofNat 8 i, w, x, isV && v == 1⟩ :: rest

def slotsOf (ws : List Nat) : List Slot := slotsFrom 0 0 ws

/-! ### Legality (04 R81 R83 R84) -/

/-- Classes that a core executes (04 R71). -/
def executes (kiosk : Bool) (c : Nat) : Bool := if kiosk then c == 0 || c == 3 || c == 5 else decide (c ≤ 3)

/-- A syllable that counts in the limits, takes an X and names destinations. -/
def counts (kiosk : Bool) (w : Nat) : Bool := executes kiosk (cls w) && assigned (cls w) (opc w)

def maskOf (ps : List Nat) : BitVec 8 := ps.foldl (fun m i => m ||| BitVec.twoPow 8 i) 0

/-- Positions of an X without an owner. -/
def badX (kiosk : Bool) (ws : List Nat) : List Nat :=
  ws.zipIdx.filterMap fun (w, i) =>
    if cls w ≠ 4 then none
    else match (if i = 0 then none else ws[i - 1]?) with
      | none => some i
      | some p => if counts kiosk p && takesX p then none else some i

/-- Positions of the syllables of an over-full class. -/
def overfull (kiosk : Bool) (ws : List Nat) : List Nat :=
  [(0, 1), (1, 2), (2, 1), (3, 1), (5, 1)].flatMap fun (c, lim) =>
    let ps := (ws.zipIdx.filter fun (w, _) => cls w == c && counts kiosk w).map Prod.snd
    if ps.length > lim then ps else []

/-- Positions of syllables that write a part of a register which another one writes. -/
def clashing (kiosk : Bool) (ws : List Nat) : List Nat :=
  let ds := ws.zipIdx.filterMap fun (w, i) => if counts kiosk w then some (i, destKeys w) else none
  (ds.filter fun (i, k) => ds.any fun (j, l) => i != j && k.any l.contains).map Prod.fst

/-- The mask of an illegal bundle; 0 where the bundle is legal. -/
def legality (kiosk : Bool) (ws : List Nat) : BitVec 8 :=
  if ws.length = 8 ∧ bits (ws.getD 7 0) 63 1 = 0 then 0xFF
  else maskOf (badX kiosk ws) ||| maskOf (overfull kiosk ws) ||| maskOf (clashing kiosk ws)

/-! ### The checks syllable by syllable (04 R71 R85, 03 R53 R64, 28, 15 R296 R298) -/

/-- Opcodes of the kiosk subset. -/
def kioskOp (w : Nat) : Bool :=
  let op := opc w
  match cls w with
  | 0 => op == 0 || inR op 0x10 0x27 || inR op 0x30 0x35 || op == 0x50 || op == 0x51 || inR op 0x58 0x5A || inR op 0x60 0x63
    || op == 0x67 || (op == 0x70 && bits w 9 4 != 2) || op == 0x72 || op == 0x73
  | 3 => op == 0x10 || op == 0x11 || inR op 0x20 0x23 || op == 0x30 || op == 0x31 || op == 0x38 || op == 0x39
  | 5 => true
  | 7 => true
  | _ => false

/-- A kiosk core has v0 to v63 for LDGV and STGV, and no handles. -/
def kioskReg (w : Nat) : Bool :=
  cls w != 3 || ((!(opc w == 0x22 || opc w == 0x23) || decide (bits w 34 10 < 64))
    && (!(inR (opc w) 0x20 0x23 || inR (opc w) 0x30 0x31) || bits w 30 4 != 4))

/-- A special that MOVX or MOVS names is not reserved on this core. -/
def specialOk (kiosk : Bool) (w : Nat) : Bool :=
  !(cls w == 0 && (opc w == 0x50 || opc w == 0x51)) || !Machine.specialReserved kiosk (bits w 13 9)

/-- A V syllable whose vector destination is the other unit's bypass (DEDUCED, assumption log 38). -/
def wrongUnit (sl : Slot) : Bool :=
  let op := opc sl.w
  cls sl.w == 1 && !(op == 0x60 && vFn sl.w == 0) && op != 0x6F && bits sl.w 34 10 == (if sl.unit1 then 1008 else 1009)

/-- A syllable that is an instruction of this core (DEDUCED, assumption log 38). -/
def slotOk (kiosk : Bool) (sl : Slot) : Bool :=
  (match decodeSyl sl.w sl.x with
   | .ok _ => true
   | .error _ => false)
    && (cls sl.w == 7 || executes kiosk (cls sl.w)) && (!kiosk || (kioskOp sl.w && kioskReg sl.w))
    && specialOk kiosk sl.w && !wrongUnit sl

/-- The mask of the illegal syllables. -/
def illegalMask (kiosk : Bool) (ws : List Nat) : BitVec 8 :=
  maskOf (((slotsOf ws).filter fun sl => !slotOk kiosk sl).map fun sl => sl.pos.val)

/-- The fault that a bundle meets at decode: illegal bundle, code 2, before illegal instruction, code 1 (04 R85). -/
def bundleFault (kiosk : Bool) (addr : Word64) (ws : List Nat) : Option FaultWords :=
  let m := legality kiosk ws
  if m ≠ 0 then some ⟨2, m, addr, 0, 0⟩
  else
    let n := illegalMask kiosk ws
    if n ≠ 0 then some ⟨1, n, addr, 0, 0⟩ else none

namespace Machine

/-- The bundle that the context in focus issues next; a level-0 LOOP waits for the lines of its body, if the bundle is one that
issues (07 R159, 04 R85). -/
def State.nextBundle (s : State) : Bundle × Option NoFetch :=
  match s.heldBundle with
  | (b, none) =>
    match (if s.cur.inNest ∨ (bundleFault s.isKiosk b.addr (b.words.map BitVec.toNat)).isSome then none else s.loopMiss b) with
    | some l => (b, some (.miss l))
    | none => (b, none)
  | x => x

/-! ### Interlocks (03 R61 R68) -/

/-- Whether a syllable acts at all, under its predicate (DEDUCED, assumption log 26). -/
def State.acts (s : State) (w : Nat) : Bool :=
  let m := s.lanes (guardOf w)
  if cls w = 1 ∧ opc w = 0x49 then true else if laneWise w then m != 0 else m.getLsbD 0

/-- The physical register of a number. -/
def Ctx.physKey (c : Ctx) (k : Nat) : Nat := if inR k 1536 1663 then keyVec (c.physV (Fin.ofNat 640 (k - 1024))).val else k

/-- A matrix step that closes no block: it reads no scale register (10 R220). -/
def State.keepsOpen (s : State) (sl : Slot) : Bool :=
  match decodeSyl sl.w sl.x with
  | .ok (.mstep o) => !(s.cur.regs.m.get o.acc).closes o false
  | .ok (.msteps _ o _) => !(s.cur.regs.m.get o.acc).closes o true
  | _ => false

/-- Registers that a syllable reads or writes, physical. -/
def State.touched (s : State) (sl : Slot) : List Nat :=
  if s.acts sl.w then
    let ks := (readKeys sl.w sl.x).filter fun k => !(inR k 410 417 && s.keepsOpen sl)
    ((ks ++ destKeys sl.w).filter isReg).map s.cur.physKey
  else []

/-- The destination of an outstanding interlocked operation. -/
def OutOp.key? (o : OutOp) : Option Nat :=
  match o with
  | .ldg (.s n) _ _ _ => some n.val
  | .ldg (.a n) _ _ _ => some (64 + n.val)
  | .ldgv (some n) _ _ => some (keyVec n.val)
  | .gath (some n) _ _ => some (keyVec n.val)
  | .xlt h _ _ => some (keyHandle h.val)
  | .land (some n) _ _ => some (keyVec n.val)
  | _ => none

/-- The buffer under which an access counts (DEDUCED, assumption log 45). -/
def OutOp.buf (o : OutOp) : Fin 64 :=
  match o with
  | .ldg _ _ _ b => b
  | .ldgv _ _ b => b
  | .gath _ l _ => (l.head?.map Prod.snd).getD 0
  | .xlt _ _ b => b
  | .atomic _ _ _ b => b
  | .vamor _ _ l _ => (l.head?.map Prod.snd).getD 0
  | .chnk _ | .land .. => 0

/-- The oldest outstanding operation whose destination a bundle touches before its value has arrived. -/
def State.locked (s : State) (sls : List Slot) : Option Outst :=
  let ks := sls.flatMap s.touched
  s.cur.outst.find? fun o => match o.op.key? with
    | some k => ks.contains k
    | none => false

def RegWrite.key? (w : RegWrite) : Option Nat :=
  match w with
  | .sreg n _ => some n.val
  | .aBase n _ => some (64 + n.val)
  | .vec n _ _ => some (keyVec n.val)
  | .scale n _ _ => some (keyScale n.val)
  | _ => none

/-- The scalar or the vector bypass of the L unit that a load's value appears on. -/
def BpVal.spec (b : BpVal) : Nat :=
  match b with
  | .l _ => 97
  | .lv _ => keyVec 1010
  | _ => 0

/-- A profile-A load whose destination, or at four ticks whose bypass, the bundle touches (03 R68). An overwrite counts by the tick in
which its syllable issues (DEDUCED, assumption log 63). -/
def State.compat (s : State) (sls : List Slot) : Bool :=
  let t := s.cur.sp.scnt.toNat
  let ks := sls.flatMap s.touched
  let bs := sls.flatMap fun sl => if s.acts sl.w then readKeys sl.w sl.x else []
  s.cur.flight.any fun r =>
    r.compat && (((t == r.born + 4 || t == r.born + 5) && r.writes.any fun w => match w.key? with
        | some k => ks.contains k
        | none => false)
      || (t == r.born + 4 && (match r.bp with
        | some b => bs.contains b.spec
        | none => false)))

end Machine
end Sys2Proof
end

