-- ==== Sys2Proof/Machine/Elastic.lean ====
section
/-! DEFINITION. Elastic LS requests: which banks they take, and which of those that compete is granted (06 R129 R130 R131,
02 R33). -/
namespace Sys2Proof.Machine

def elKinds : List ElKind := [.secondL, .remote, .copy, .page, .deposit, .cword]

/-- The rotation of a bank of an LS (DEDUCED, assumption log 29). -/
def State.elOrderOf (s : State) (core bank : Nat) : List ElKind := (s.elOrder.get? (32 * core + bank)).getD elKinds

/-- A request of this tick, or an access granted in it, holds one of the banks. -/
def State.bankHeld (s : State) (core : Nat) (banks : List Nat) : Bool :=
  s.lsReqs.any fun r => lsCore r.key == core && (banksAt r.addr r.len).any banks.contains

/-- An access that is a stream of a matrix step: A and B of one step do not wait for each other (10 R218). -/
def LsOp.isStream (o : LsOp) : Bool :=
  match o with
  | .stream .. => true
  | _ => false

/-- Two accesses of a strand perform in their order (13 R273 R276). -/
def ElReq.inTurn (e x : ElReq) : Bool :=
  match e.job, x.job with
  | .access p, .access q => !(p.op.isStream && q.op.isStream)
  | _, _ => false

/-- A completion word comes after the bytes of its deposit (15 R301, 13 R279). -/
def ElReq.wordAfter (e x : ElReq) : Bool := e.kind == .cword && x.kind == .deposit && x.key == e.key && x.owner == e.owner

/-- A request that another of the same source goes before. -/
def ElReq.after (e x : ElReq) : Bool := e.wordAfter x || (x.owner == e.owner && e.inTurn x)

/-- No request made before this one, of its own source, goes before it. -/
def State.elFirst (s : State) (e : Nat × ElReq) : Bool := (s.elReqs.take e.1).all fun x => !e.2.after x

/-- A request may be granted before tick `upto` of its LS: it has been made, its turn has come, and each of its banks is free. -/
def State.elOpen (s : State) (upto : Nat) (e : Nat × ElReq) : Bool :=
  let core := lsCore e.2.key
  decide (e.2.age < upto) && s.elFirst e && !s.bankHeld core (banksAt e.2.addr e.2.len)

/-- The pending requests on an LS that may be granted, with their places in the list. -/
def State.elReady (s : State) (core upto : Nat) : List (Nat × ElReq) :=
  (s.elReqs.zipIdx.map fun (e, i) => (i, e)).filter fun e => lsCore e.2.key == core && s.elOpen upto e

/-- Whether `x` goes before `e` within a kind: the older, then the lower master, then the earlier made. -/
def elOlder (x e : Nat × ElReq) : Bool :=
  x.2.age < e.2.age || (x.2.age == e.2.age && (x.2.master < e.2.master || (x.2.master == e.2.master && x.1 < e.1)))

/-- Whether `x` takes a bank before `e`, which is of its LS. -/
def State.elBefore (s : State) (bank : Nat) (x e : Nat × ElReq) : Bool :=
  let o := s.elOrderOf (lsCore e.2.key) bank
  (banksAt x.2.addr x.2.len).contains bank
    && (o.idxOf x.2.kind < o.idxOf e.2.kind || (x.2.kind == e.2.kind && elOlder x e))

/-- No other of `cs` goes before `e` on a bank. -/
def State.elWins (s : State) (cs : List (Nat × ElReq)) (e : Nat × ElReq) : Bool :=
  (banksAt e.2.addr e.2.len).all fun b => cs.all fun x => x.1 == e.1 || !s.elBefore b x e

/-- Request `e` with its place may be granted: it is open, and none that competes goes before it on one of its banks. Where each of
those that compete waits for another, the earliest made is granted. -/
def State.elFree (s : State) (upto : Nat) (e : Nat × ElReq) : Bool :=
  let cs := s.elReady (lsCore e.2.key) upto
  s.elOpen upto e && (s.elWins cs e || (!s.elWins cs e && cs.all (fun x => !s.elWins cs x) && cs.all fun x => decide (e.1 ≤ x.1)))

/-- A request takes its banks: none of them is granted again in this tick, its kind goes to the back of their order, and a completion
word that has waited for it waits for the next tick. -/
def State.elTake (s : State) (e : ElReq) : State :=
  let core := lsCore e.key
  { s with
    lsReqs := s.lsReqs ++ [⟨e.key, 0, 0, e.addr, e.len, true, e.key, 0, 0, true⟩]
    elReqs := s.elReqs.map fun x => if x.wordAfter e then { x with age := s.elNow core } else x
    elOrder := (banksAt e.addr e.len).foldl (fun t b =>
      t.set (32 * core + b) ((s.elOrderOf core b).filter (· != e.kind) ++ [e.kind])) s.elOrder }

/-- A request joins the pending ones. -/
def State.elAsk (s : State) (kind : ElKind) (master key : Nat) (owner : Option Nat) (addr len : Nat) (job : ElJob) : State :=
  { s with elReqs := s.elReqs ++ [⟨kind, s.elNow (lsCore key), master, key, owner, addr, len, job⟩] }

/-- Bytes written to the LS of a context: an elastic request to a resident one, at once into a saved one (02 R42). -/
def State.elWrite (s : State) (kind : ElKind) (master : Nat) (owner : Option Nat) (at_ : LsAt) (addr : Nat) (bs : List Byte) :
    State :=
  if at_.saved.isSome then s.lsStore at_ addr bs else s.elAsk kind master at_.key owner addr bs.length (.write bs)

/-- A request on an LS that a secondary's bundle makes as it issues, in the form of a pending one. -/
def State.elOf (s : State) (r : LsReq) : Nat × ElReq :=
  (s.elReqs.length, ⟨.secondL, s.elNow (lsCore r.key), s.cur.master, r.key, some s.focus, r.addr, r.len, .write []⟩)

end Sys2Proof.Machine
end

