-- ==== Sys2Proof/Machine/Hash.lean ====
section
/-! DEFINITION. CRC-64/XZ (08 R191) and SHA-384 of FIPS 180-4 (15 R307 R308, 23 R341). -/
namespace Sys2Proof.Machine

/-! ### CRC-64/XZ -/

/-- The polynomial 0x42F0E1EBA9EA3693 with its bits reflected. -/
def crcPoly : Word64 := (0x42F0E1EBA9EA3693#64).reverse

def crcBit (c : Word64) : Word64 := if c.getLsbD 0 then (c >>> 1) ^^^ crcPoly else c >>> 1

def crcByte (c : Word64) (b : Byte) : Word64 :=
  let x := c ^^^ b.setWidth 64
  crcBit (crcBit (crcBit (crcBit (crcBit (crcBit (crcBit (crcBit x)))))))

def crc64 (bs : List Byte) : Word64 := ~~~(bs.foldl crcByte (BitVec.allOnes 64))

/-! ### SHA-384 -/

/-- Whether n has no divisor from 2 to d. -/
def noDivisor (n : Nat) : Nat → Bool
  | 0 | 1 => true
  | d + 2 => n % (d + 2) != 0 && noDivisor n (d + 1)

def primes (n : Nat) : List Nat := ((List.range 420).filter fun p => decide (p ≥ 2) && noDivisor p (p - 1)).take n

/-- The integer cube root of a number below 8^k, from its top bit down. -/
def icbrtAux (n : Nat) : Nat → Nat → Nat
  | 0, r => r
  | k + 1, r => if (r + 2 ^ k) ^ 3 ≤ n then icbrtAux n k (r + 2 ^ k) else icbrtAux n k r

/-- The first 64 fraction bits of the cube roots of the first 80 primes. -/
def shaK : Array Word64 := ((primes 80).map fun p => BitVec.ofNat 64 (icbrtAux (p * 2 ^ 192) 70 0)).toArray

/-- The first 64 fraction bits of the square roots of the ninth to sixteenth primes. -/
def shaInit : List Word64 := ((primes 16).drop 8).map fun p => BitVec.ofNat 64 (isqrt (p * 2 ^ 128))

/-- Big-endian words of a block of 128 bytes. -/
def beWords : Nat → List Byte → List Word64
  | 0, _ => []
  | n + 1, bs => BitVec.ofNat 64 (leNat (bs.take 8).reverse) :: beWords n (bs.drop 8)

/-- The message schedule, extended by n words. -/
def shaSchedule : Nat → Array Word64 → Array Word64
  | 0, w => w
  | n + 1, w =>
    let g (k : Nat) : Word64 := w.getD (w.size - k) 0
    let a := g 15
    let b := g 2
    let s0 := a.rotateRight 1 ^^^ a.rotateRight 8 ^^^ (a >>> 7)
    let s1 := b.rotateRight 19 ^^^ b.rotateRight 61 ^^^ (b >>> 6)
    shaSchedule n (w.push (g 16 + s0 + g 7 + s1))

structure ShaVars where
  a : Word64
  b : Word64
  c : Word64
  d : Word64
  e : Word64
  f : Word64
  g : Word64
  h : Word64

def shaRound (v : ShaVars) (k w : Word64) : ShaVars :=
  let s1 := v.e.rotateRight 14 ^^^ v.e.rotateRight 18 ^^^ v.e.rotateRight 41
  let ch := (v.e &&& v.f) ^^^ (~~~v.e &&& v.g)
  let t1 := v.h + s1 + ch + k + w
  let s0 := v.a.rotateRight 28 ^^^ v.a.rotateRight 34 ^^^ v.a.rotateRight 39
  let maj := (v.a &&& v.b) ^^^ (v.a &&& v.c) ^^^ (v.b &&& v.c)
  ⟨t1 + s0 + maj, v.a, v.b, v.c, v.d + t1, v.e, v.f, v.g⟩

def shaBlock (s : List Word64) (bs : List Byte) : List Word64 :=
  let w := shaSchedule 64 (beWords 16 bs).toArray
  let x (i : Nat) : Word64 := s.getD i 0
  let v := (List.range 80).foldl (fun v i => shaRound v (shaK.getD i 0) (w.getD i 0))
    ⟨x 0, x 1, x 2, x 3, x 4, x 5, x 6, x 7⟩
  s.zipWith (· + ·) [v.a, v.b, v.c, v.d, v.e, v.f, v.g, v.h]

def shaBlocks : Nat → List Word64 → List Byte → List Word64
  | 0, s, _ => s
  | n + 1, s, bs => shaBlocks n (shaBlock s (bs.take 128)) (bs.drop 128)

/-- The 48-byte digest. -/
def sha384 (msg : List Byte) : List Byte :=
  let n := msg.length
  let pad := (239 - n % 128) % 128
  let full := msg ++ [0x80#8] ++ List.replicate pad 0#8 ++ (bytesOfNat 16 (8 * n)).reverse
  ((shaBlocks (full.length / 128) shaInit full).take 6).flatMap fun w => (bytesOf 8 w).reverse

end Sys2Proof.Machine
end

