-- ==== Sys2Proof/Machine/Scalar.lean ====
section
/-! DEFINITION. Integer, bit, predicate, special-register and stream instructions of class S (07 R147 to R150, R154 R155). -/
namespace Sys2Proof.Machine

/-- An operation of two sources with its latency; the third argument of `f` is the old destination (07 R148). -/
def State.sOp (s : State) (o : SOp) (lat : Nat) (f : Word64 → Word64 → Word64 → Word64) : Out :=
  s.when o.g (.next ((s.ebp (o.a :: o.b.regs)).putS o.d lat (f (s.rs o.a) (s.srcB o.b) (s.rs o.d))))

/-- As `sOp`, for the operations that read their destination as a source. -/
def State.sOpD (s : State) (o : SOp) (lat : Nat) (f : Word64 → Word64 → Word64 → Word64) : Out :=
  s.when o.g (.next ((s.ebp (o.d :: o.a :: o.b.regs)).putS o.d lat (f (s.rs o.a) (s.srcB o.b) (s.rs o.d))))

def State.sUn (s : State) (o : SUn) (f : Word64 → Word64) : Out :=
  s.when o.g (.next ((s.ebp [o.a]).putS o.d 1 (f (s.rs o.a))))

/-- Bits [127:64] of the exact product (07 R148). -/
def mulHigh (u : Bool) (a b : Word64) : Word64 :=
  if u then BitVec.ofNat 64 (a.toNat * b.toNat / 2 ^ 64) else BitVec.ofInt 64 ((a.toInt * b.toInt).fdiv (2 ^ 64))

/-- Quotient rounded toward zero; all ones for a zero divisor (07 R148). -/
def divW (u : Bool) (a b : Word64) : Word64 :=
  if b = 0 then BitVec.allOnes 64
  else if u then BitVec.ofNat 64 (a.toNat / b.toNat)
  else BitVec.ofInt 64 (a.toInt.tdiv b.toInt)

/-- A − B × quotient; A for a zero divisor (07 R148). -/
def remW (u : Bool) (a b : Word64) : Word64 := if b = 0 then a else a - b * divW u a b

def clzNat (w : Nat) (n : Nat) : Nat := if n = 0 then w else w - 1 - n.log2

/-- Trailing zero bits of a non-zero number of at most `w` bits; `w` for zero. -/
def ctzNat (w : Nat) (n : Nat) : Nat := ((List.range w).find? (fun i => n.testBit i)).getD w

def popNat (w : Nat) (n : Nat) : Nat := ((List.range w).filter (fun i => n.testBit i)).length

/-- Field extract (07 R149). -/
def extract (sgn : Bool) (a b : Word64) : Word64 :=
  let pos := b.toNat % 64
  let len := b.toNat / 64 % 64 + 1
  let field := a.toNat / 2 ^ pos % 2 ^ len
  if sgn ∧ field.testBit (len - 1) then BitVec.ofInt 64 ((field : Int) - (2 ^ len : Nat)) else BitVec.ofNat 64 field

/-- Field insert (07 R149). -/
def insert (d a b : Word64) : Word64 :=
  let pos := b.toNat % 64
  let len := b.toNat / 64 % 64 + 1
  let mask := BitVec.ofNat 64 ((2 ^ len - 1) * 2 ^ pos)
  (d &&& ~~~mask) ||| ((a <<< pos) &&& mask)

def execNop (_g : Guard) (s : State) : Out := .next s

def execHSyllable (_payload : BitVec 60) (s : State) : Out := .next s

def execAdd (o : SOp) (s : State) : Out := s.sOp o 1 fun a b _ => a + b

def execSub (o : SOp) (s : State) : Out := s.sOp o 1 fun a b _ => a - b

def execMul (o : SOp) (s : State) : Out := s.sOp o 3 fun a b _ => a * b

def execMulh (u : Bool) (o : SOp) (s : State) : Out := s.sOp o 3 fun a b _ => mulHigh u a b

def execDiv (u : Bool) (o : SOp) (s : State) : Out := s.sOp o 24 fun a b _ => divW u a b

def execRem (u : Bool) (o : SOp) (s : State) : Out := s.sOp o 24 fun a b _ => remW u a b

def execAnd (o : SOp) (s : State) : Out := s.sOp o 1 fun a b _ => a &&& b

def execOr (o : SOp) (s : State) : Out := s.sOp o 1 fun a b _ => a ||| b

def execXor (o : SOp) (s : State) : Out := s.sOp o 1 fun a b _ => a ^^^ b

def execAndn (o : SOp) (s : State) : Out := s.sOp o 1 fun a b _ => a &&& ~~~b

def execShl (o : SOp) (s : State) : Out := s.sOp o 1 fun a b _ => a <<< (b.toNat % 64)

def execShr (o : SOp) (s : State) : Out := s.sOp o 1 fun a b _ => a >>> (b.toNat % 64)

def execSar (o : SOp) (s : State) : Out := s.sOp o 1 fun a b _ => a.sshiftRight (b.toNat % 64)

def execRotl (o : SOp) (s : State) : Out := s.sOp o 1 fun a b _ => a.rotateLeft (b.toNat % 64)

def execMin (u : Bool) (o : SOp) (s : State) : Out :=
  s.sOp o 1 fun a b _ => if (if u then a.ult b else a.slt b) then a else b

def execMax (u : Bool) (o : SOp) (s : State) : Out :=
  s.sOp o 1 fun a b _ => if (if u then a.ult b else a.slt b) then b else a

def execClz (o : SUn) (s : State) : Out := s.sUn o fun a => BitVec.ofNat 64 (clzNat 64 a.toNat)

def execCtz (o : SUn) (s : State) : Out := s.sUn o fun a => BitVec.ofNat 64 (ctzNat 64 a.toNat)

def execPopc (o : SUn) (s : State) : Out := s.sUn o fun a => BitVec.ofNat 64 (popNat 64 a.toNat)

def execSel (o : SOp) (s : State) : Out := s.sOpD o 1 fun a b d => if d ≠ 0 then a else b

def execMov (g : Guard) (d : SReg) (b : SrcB) (s : State) : Out :=
  s.when g (.next ((s.ebp b.regs).putS d 1 (s.srcB b)))

def execMovhi (o : SOp) (s : State) : Out :=
  s.sOp o 1 fun a b _ => BitVec.ofNat 64 (a.toNat % 2 ^ 32 + b.toNat % 2 ^ 32 * 2 ^ 32)

def execExtr (signed : Bool) (o : SOp) (s : State) : Out := s.sOp o 1 fun a b _ => extract signed a b

def execInsr (o : SOp) (s : State) : Out := s.sOpD o 1 fun a b d => insert d a b

/-! ### Predicates (07 R150) -/

/-- The comparisons of CMP and WAITA. -/
def ccHolds (cc : Cc) (a b : Word64) : Bool :=
  match cc with
  | .eq => a == b
  | .ne => a != b
  | .lt => a.slt b
  | .le => a.sle b
  | .gt => b.slt a
  | .ge => b.sle a
  | .ltu => a.ult b
  | .leu => a.ule b
  | .gtu => b.ult a
  | .geu => b.ule a

def plog (op : PlogOp) (a b : Mask) : Mask :=
  match op with
  | .and => a &&& b
  | .or => a ||| b
  | .xor => a ^^^ b
  | .andn => a &&& ~~~b
  | .not => ~~~a
  | .mov => a
  | .nand => ~~~(a &&& b)
  | .nor => ~~~(a ||| b)

def execCmp (g : Guard) (pd : Fin 64) (cc : Cc) (a : SReg) (b : SrcB) (s : State) : Out :=
  s.when g (.next ((s.ebp (a :: b.regs)).putP pd 1 (BitVec.allOnes 64) (allLanes (ccHolds cc (s.rs a) (s.srcB b)))))

def execPlog (g : Guard) (op : PlogOp) (pd pa pb : Fin 64) (s : State) : Out :=
  s.when g (.next (s.putP pd 1 (BitVec.allOnes 64) (plog op (s.cur.pred pa) (s.cur.pred pb))))

def execPcnt (g : Guard) (d : SReg) (pa : Fin 64) (s : State) : Out :=
  s.when g (.next (s.putS d 1 (BitVec.ofNat 64 (popNat 64 (s.cur.pred pa).toNat))))

def execPset (g : Guard) (pd : Fin 64) (b : SrcB) (s : State) : Out :=
  s.when g (.next ((s.ebp b.regs).putP pd 1 (BitVec.allOnes 64) (s.srcB b)))

def execPget (g : Guard) (d : SReg) (pa : Fin 64) (s : State) : Out := s.when g (.next (s.putS d 1 (s.cur.pred pa)))

def execPfirst (g : Guard) (d : SReg) (pa : Fin 64) (s : State) : Out :=
  s.when g (.next (s.putS d 1 (BitVec.ofNat 64 (ctzNat 64 (s.cur.pred pa).toNat))))

/-! ### Special and stream registers (07 R154 R155) -/

/-- SGUARD as it reads: until it is written, as 02 R34 gives it for the primary strands that the context runs. -/
def State.sguard (s : State) (ctx : BitVec 8) : Bool :=
  (s.ctxRegs ctx.toNat).sguard.getD (s.grids.any fun e => e.2.ctx == ctx && e.2.kcb.elastic)

/-- The privileged specials of a context (23 R336). -/
def State.privSpecial (s : State) (ctx : BitVec 8) (n : Nat) : Word64 :=
  let r := s.ctxRegs ctx.toNat
  match n with
  | 0x100 => if s.sguard ctx then 1 else 0
  | 0x101 => BitVec.ofNat 64 (r.ptroot.toNat * 2 ^ 12)
  | 0x102 => r.func.setWidth 64
  | 0x103 => ctx.setWidth 64
  | 0x104 => if r.alive then 1 else 0
  | _ => 0

/-- A write of a privileged special: SGUARD and PTROOT are RW (23 R336). -/
def State.setPriv (s : State) (ctx : Nat) (n : Nat) (v : Word64) : State :=
  let r := s.ctxRegs ctx
  match n with
  | 0x100 => { s with ctxs := s.ctxs.set ctx { r with sguard := some (v.getLsbD 0) } }
  | 0x101 => { s with ctxs := s.ctxs.set ctx { r with ptroot := v.extractLsb' 12 40 } }
  | _ => s

/-- A privileged special named by a strand or kiosk program: protection fault, reason 6 (03 R53). -/
def State.privFault (s : State) (n : Nat) : Out := s.fault 5 (BitVec.ofNat 64 n) 6

/-- Of the privileged specials the five of 23 R336 exist; firmware may name them, a strand may not. -/
def execMovx (g : Guard) (d : SReg) (n : Fin 512) (s : State) : Out :=
  if specialReserved s.isKiosk n.val ∨ (s.cur.firmware ∧ 0x104 < n.val) then s.illegal
  else s.when g
    (if 0x100 ≤ n.val then
      if s.cur.firmware then .next (s.putS d 1 (s.privSpecial s.cur.ctxId n.val)) else s.privFault n.val
    else .next (s.putS d 1 (s.special n.val)))

/-- A write of 5, 6 or 7 to `$rmode` raises invalid (03 R53). -/
def movsEv (n : Nat) (v : Word64) : Ev := if n = 0x012 ∧ 5 ≤ v.toNat % 8 then Ev.nv else 0

/-- A MOVS that is ignored still reads its source, and so raises empty bypass (DEDUCED, assumption log 64). -/
def execMovs (g : Guard) (n : Fin 512) (a : SReg) (s : State) : Out :=
  if specialReserved s.isKiosk n.val ∨ (s.cur.firmware ∧ 0x104 < n.val) then s.illegal
  else s.when g
    (if 0x100 ≤ n.val then
      if s.cur.firmware then .next ((s.ebp [a]).setPriv s.cur.ctxId.toNat n.val (s.rs a)) else s.privFault n.val
    else if specialRO n.val ∨ (s.isKiosk ∧ specialKioskAbsent n.val) then .next (s.ebp [a])
    else .next ((s.ebp [a]).put 1 [.special n (s.rs a)] none (movsEv n.val (s.rs a))))

def execStrb (g : Guard) (an : Fin 16) (b : SrcB) (s : State) : Out :=
  s.when g (.next ((s.ebp b.regs).putS (.a an) 1 (s.srcB b)))

/-- A stride is no 64-bit result on bp.s (DEDUCED, assumption log 54). -/
def execStrs (g : Guard) (an : Fin 16) (k : Fin 6) (b : SrcB) (s : State) : Out :=
  s.when g (.next ((s.ebp b.regs).put 1 [.aStride an k (s.srcB b)] none))

def execStrz (g : Guard) (an : Fin 16) (s : State) : Out := s.when g (.next (s.put 1 [.aZero an] none))

end Sys2Proof.Machine
end

