-- ==== Sys2Proof/Machine/Memory.lean ====
section
/-! DEFINITION. Loads, stores, translation, scales, atomics, waits and the tag table of class L (08 R169 to R187, 06). -/
namespace Sys2Proof.Machine

/-! ### Local store accesses (08 R172 R174) -/

/-- An LS access of the syllable: its checks, its bank request, then `k` at its offset. -/
def State.lsAccess (s : State) (a : Word64) (len al acc : Nat) (write : Bool) (k : State → Nat → Out) : Out :=
  match lsFault s.cur.foot a len al acc with
  | some f => s.fail f
  | none => k (s.lsReq reqL s.focus a.toNat len write) a.toNat

/-- A result at the latency of LDS, LDV and SCL: 6 ticks, in profile A counted as 03 R68 gives; 3 on a kiosk core. -/
def State.putLoad (s : State) (ws : List RegWrite) (bp : Option BpVal) : State :=
  { s with
    cur := s.cur.put s.issue s.cur.sp.scnt.toNat (if s.isKiosk then 3 else 6) ws bp 0 (compat := s.cur.profA) }

def execLds (o : LScalar) (s : State) : Out :=
  s.when o.g (s.lsAccess (s.lsAddr o.addr) o.sz.bytes o.sz.bytes 0 false fun s a =>
    let v := o.sz.load (s.lsRead a o.sz.bytes)
    .next (s.putLoad (o.d.writes v) (some (.l v))))

def execSts (o : LScalar) (s : State) : Out :=
  s.when o.g (s.lsAccess (s.lsAddr o.addr) o.sz.bytes o.sz.bytes 1 true fun s a =>
    .next ((s.ebp [o.d]).lsWrite a (bytesOf o.sz.bytes (s.rs o.d))))

def execLdv (o : LVec) (s : State) : Out :=
  s.when o.g (s.lsAccess (s.lsAddr o.addr) 256 64 0 false fun s a =>
    let v := vecOfBytes (s.lsRead a 256)
    .next (s.putLoad (s.vWrites o.d (BitVec.allOnes 64) [v]) (some (.lv v))))

def execStv (o : LVec) (s : State) : Out :=
  s.when o.g (s.lsAccess (s.lsAddr o.addr) 256 64 1 true fun s a =>
    .next ((s.ebp [] [o.d]).lsWrite a (vecBytes (s.rv o.d))))

/-- The L unit is busy for `n` ticks after this one (08 R172). -/
def State.busy (s : State) (n : Nat) : State := s.mapCur fun c => { c with lBusy := n + 1 }

/-- Four consecutive rows from LS. -/
def rowsOf (bs : List Byte) : List Vec := (List.range 4).map fun i => vecOfBytes ((bs.drop (256 * i)).take 256)

/-- The physical registers of four rows. -/
def tileRegs (d : VReg) (i : Nat) : List (Fin 640) :=
  match d with
  | .v n => (List.range 4).map fun k => Fin.ofNat 640 (n.val + 4 * i + k)
  | _ => []

def allVec (ds : List (Fin 640)) (vs : List Vec) : List RegWrite :=
  ds.zipWith (fun d v => .vec d (BitVec.allOnes 64) v) vs

/-- Rows 0 to 3 are read in the first LS tick, the others in the three that follow. -/
def execLdt (o : LVec) (s : State) : Out :=
  s.when o.g
    (let a := s.lsAddr o.addr
     match lsFault s.cur.foot a 4096 64 0 with
     | some f => s.fail f
     | none =>
       let n := a.toNat
       let s1 := (s.lsReq reqL s.focus n 1024 false).put 6 (allVec (tileRegs o.d 0) (rowsOf (s.lsRead n 1024))) none
       .next ((((s1.later 1 (.loadRows (n + 1024) (tileRegs o.d 1) 7 false)).later 2
         (.loadRows (n + 2048) (tileRegs o.d 2) 8 false)).later 3
         (.loadRows (n + 3072) (tileRegs o.d 3) 9 true)).busy 3))

def execStt (o : LVec) (s : State) : Out :=
  s.when o.g
    (let a := s.lsAddr o.addr
     match lsFault s.cur.foot a 4096 64 1 with
     | some f => s.fail f
     | none =>
       let n := a.toNat
       let rows (i : Nat) : List Vec := (List.range 4).map fun k => s.rv (o.d.plus (4 * i + k))
       let s1 := (s.lsReq reqL s.focus n 1024 true).lsWrite n ((rows 0).flatMap vecBytes)
       .next ((((s1.later 1 (.storeRows (n + 1024) (rows 1))).later 2
         (.storeRows (n + 2048) (rows 2))).later 3 (.storeRows (n + 3072) (rows 3))).busy 3))

/-- Bytes of a narrow element (08 R174). -/
def narrowBytes (f : NarrowFmt) : Nat :=
  match f with
  | .bf16 | .i16 | .ui16 => 2
  | .i8 | .ui8 => 1

def widen (f : NarrowFmt) (x : Nat) : Word32 :=
  match f with
  | .bf16 => BitVec.ofNat 32 (x * 2 ^ 16)
  | .i16 => (BitVec.ofNat 16 x).signExtend 32
  | .i8 => (BitVec.ofNat 8 x).signExtend 32
  | .ui16 | .ui8 => BitVec.ofNat 32 x

def execLdvx (fmt : NarrowFmt) (o : LVec) (s : State) : Out :=
  let w := narrowBytes fmt
  s.when o.g (s.lsAccess (s.lsAddr o.addr) (64 * w) 64 0 false fun s a =>
    let bs := (s.lsRead a (64 * w)).toArray
    .next (s.putLV o.d 8 (Vec.ofLanes fun i =>
      widen fmt (leNat ((List.range w).map fun k => bs.getD (w * i.val + k) 0)))))

/-- The stored number of a lane and its events. -/
def narrow (f : NarrowFmt) (q : Rnd) (x : Word32) : Nat × Ev :=
  let int (g : IntFmt) (n : Nat) : Nat × Ev :=
    let r := intSat g x.toInt
    ((r.1.emod (2 ^ n : Nat)).toNat, r.2)
  match f with
  | .bf16 => FFmt.bf16.ofFl q (FFmt.f32.unpack x.toNat)
  | .i16 => int .i16 16
  | .ui16 => int .ui16 16
  | .i8 => int .i8 8
  | .ui8 => int .ui8 8

def execStvx (fmt : NarrowFmt) (rm : Rm) (o : LVec) (s : State) : Out :=
  let w := narrowBytes fmt
  let m := if fmt = .bf16 then s.rmode rm else .rne
  s.when o.g (s.lsAccess (s.lsAddr o.addr) (64 * w) 64 1 true fun s a =>
    let v := s.rv o.d
    let r : Vector (Nat × Ev) 64 := Vector.ofFn fun i => narrow fmt (s.rnd m i.val) (v.get i)
    .next ((((s.ebp [] [o.d]).drew m).lsWrite a (r.toList.flatMap fun x => bytesOfNat w x.1)).raise
      (Ev.union (r.toList.map Prod.snd))))

/-! ### Remote local store (08 R175, 06 R135) -/

def remoteCore (a : Addr) : Fin 16 :=
  match a with
  | .remote _ _ c => c
  | _ => 0

def execLdrv (o : LVec) (s : State) : Out :=
  s.when o.g
    (let a := s.lsAddr o.addr
     let core := remoteCore o.addr
     match s.remote core a 256 0 with
     | .error f => s.fail f
     | .ok _ => .next (s.later 7 (.remoteLoad core a (s.vDst o.d))))

def execStrv (o : LVec) (s : State) : Out :=
  s.when o.g
    (let a := s.lsAddr o.addr
     let core := remoteCore o.addr
     match s.remote core a 256 1 with
     | .error f => s.fail f
     | .ok _ => .next ((s.ebp [] [o.d]).later 7 (.remoteStore core a (s.rv o.d))))

/-! ### Global memory (08 R172 R173 R176, 06 R141) -/

def execLdg (o : LScalar) (s : State) : Out :=
  s.when o.g
    (match s.gxlate o.addr (s.vaddr o.addr) o.sz.bytes o.sz.bytes 0 with
     | .error f => s.fail f
     | .ok p => .next (s.out (.ldg o.d.dst p.1 o.sz p.2)))

def execStg (sc : Scope) (o : LScalar) (s : State) : Out :=
  s.when o.g
    (match s.gxlate o.addr (s.vaddr o.addr) o.sz.bytes o.sz.bytes 1 with
     | .error f => s.fail f
     | .ok p => .next ((s.ebp [o.d]).pushStore sc p.1 (bytesOf o.sz.bytes (s.rs o.d)) p.2))

def execLdgv (o : LVec) (s : State) : Out :=
  s.when o.g
    (match s.gxlate o.addr (s.vaddr o.addr) 256 64 0 with
     | .error f => s.fail f
     | .ok p => .next (s.out (.ldgv (s.vDst o.d) p.1 p.2)))

def execStgv (sc : Scope) (o : LVec) (s : State) : Out :=
  s.when o.g
    (match s.gxlate o.addr (s.vaddr o.addr) 256 64 1 with
     | .error f => s.fail f
     | .ok p => .next ((s.ebp [] [o.d]).pushStore sc p.1 (vecBytes (s.rv o.d)) p.2))

/-- Lane addresses A + SignExtend(index) × size, each translated and checked alone, in ascending order. -/
def State.lanePas (s : State) (a : Addr) (x : Vec) (size acc : Nat) : List (Fin 64) → Except Flt (List Pa)
  | [] => .ok []
  | i :: l =>
    match s.gxlate a (s.vaddr a + (x.get i).signExtend 64 * BitVec.ofNat 64 size) size size acc with
    | .error f => .error f
    | .ok p =>
      match s.lanePas a x size acc l with
      | .error f => .error f
      | .ok ps => .ok (p :: ps)

def execGath (sz : GathSize) (x : VReg) (o : LVec) (s : State) : Out :=
  s.when o.g
    (match s.lanePas o.addr (s.rv x) sz.bytes 0 (List.finRange 64) with
     | .error f => s.fail f
     | .ok ps => .next ((s.ebp [] [x]).out (.gath (s.vDst o.d) ps sz)))

/-- The lanes of a SCAT or VAMO enter the request queue in ascending order, lanes that name distinct words too (DESIGN CHOICE,
assumption log 41). -/
def State.pushLanes (s : State) (sc : Scope) (ps : List Pa) (v : Vec) (n : Nat) (op : Option AmoOp) : State :=
  let first := s.reqs
  ps.zipIdx.foldl (fun s (p, i) => s.pushStore sc p.1 (bytesOfNat n (v.get (Fin.ofNat 64 i)).toNat) p.2 op (some first)) s

def execScat (sz : GathSize) (sc : Scope) (x : VReg) (o : LVec) (s : State) : Out :=
  s.when o.g
    (match s.lanePas o.addr (s.rv x) sz.bytes 1 (List.finRange 64) with
     | .error f => s.fail f
     | .ok ps => .next ((s.ebp [] [o.d, x]).pushLanes sc ps (s.rv o.d) sz.bytes none))

/-! ### Translation and scales (08 R177 to R179) -/

def execXlt (g : Guard) (h : Fin 8) (a : SReg) (buf : Fin 64) (s : State) : Out :=
  s.when g
    (let va := s.rs a
     if va.toNat ≥ 2 ^ 48 then s.fault 5 va 13 else .next ((s.ebp [a]).out (.xlt h va buf)))

def execLttq (g : Guard) (d : SReg) (entry : Fin 64) (word : Bool) (s : State) : Out :=
  s.when g
    (let e := s.cur.ltt.get entry
     .next (s.putL d 2 (if word then e.2 else e.1)))

def execScl (g : Guard) (e : Fin 8) (addr : Addr) (s : State) : Out :=
  s.when g (s.lsAccess (s.lsAddr addr) 64 64 0 false fun s a =>
    let bs := (s.lsRead a 64).toArray
    .next (s.putLoad [.scale e (BitVec.allOnes 64) (Vector.ofFn fun i => bs.getD i.val 0)] none))

def execScs (g : Guard) (e : Fin 8) (addr : Addr) (s : State) : Out :=
  s.when g (s.lsAccess (s.lsAddr addr) 64 64 1 true fun s a => .next (s.lsWrite a (s.cur.regs.e.get e).toList))

/-! ### Atomics (08 R180 R181) -/

def isGlobal (a : Addr) : Bool :=
  match a with
  | .ltt .. | .handle .. => true
  | _ => false

/-- AMO and CAS: on LS at once, delivering the old word on bp.l; on global memory by the atomic unit, freezing the context
until the old word has returned. -/
def State.atomic (s : State) (d : SReg) (addr : Addr) (op : AtomicOp) (reads : List SReg) (add : Bool) : Out :=
  if isGlobal addr then
    match s.gxlate addr (s.vaddr addr) 8 8 2 add with
    | .error f => s.fail f
    | .ok p => .next (((s.ebp reads).out (.atomic d.dst op p.1 p.2)).hold .atomic)
  else
    s.lsAccess (s.lsAddr addr) 8 8 2 true fun s a =>
      let old := BitVec.ofNat 64 (leNat (s.lsRead a 8))
      .next (((s.ebp reads).lsWrite a (bytesOf 8 (op.apply old))).putL d (if s.isKiosk then 3 else 6) old)

def execAmo (g : Guard) (op : AmoOp) (_sc : Scope) (d : SReg) (addr : Addr) (b : SReg) (s : State) : Out :=
  s.when g (s.atomic d addr (.amo op (s.rs b)) [b] (op == .add))

def execCas (g : Guard) (_sc : Scope) (d : SReg) (addr : Addr) (b : SReg) (s : State) : Out :=
  s.when g (s.atomic d addr (.cas (s.rs b) (s.rs d)) [b, d] false)

def execVamo (g : Guard) (op : AmoOp) (sc : Scope) (c : VReg) (addr : Addr) (x : VReg) (s : State) : Out :=
  s.when g
    (match s.lanePas addr (s.rv x) 4 2 (List.finRange 64) with
     | .error f => s.fail f
     | .ok ps => .next ((s.ebp [] [c, x]).pushLanes sc ps (s.rv c) 4 (some op)))

def execVamor (g : Guard) (op : AmoOp) (_sc : Scope) (d : VReg) (addr : Addr) (x c : VReg) (s : State) : Out :=
  s.when g
    (match s.lanePas addr (s.rv x) 4 2 (List.finRange 64) with
     | .error f => s.fail f
     | .ok ps => .next (((s.ebp [] [c, x]).out (.vamor (s.vDst d) op ps (s.rv c))).hold .atomic))

/-! ### Drains and waits (08 R182 to R186) -/

def execDrain (g : Guard) (sc : Scope) (s : State) : Out := s.when g (.next (s.drainThen sc .none))

/-- Every outstanding request of a core performs; waits for it end when they are next tested (08 R182, 26 R369). -/
def execDrainComplete (core : Nat) (s : State) : Out := .next (s.drainCore core)

/-- The first test reads the word in its LS tick; a wait watches the word from the next tick on (08 R183). -/
def execWaita (g : Guard) (cc : Cc) (d : SReg) (addr : Addr) (s : State) : Out :=
  s.when g (s.lsAccess (s.lsAddr addr) 8 8 0 false fun s a =>
    let v := s.rs d
    let s1 := s.ebp [d]
    .next (if ccHolds cc (BitVec.ofNat 64 (leNat (s.lsRead a 8))) v then s1 else s1.hold (.waita cc a v)))

/-- Whether a waiting word now satisfies its comparison. -/
def Ctx.waitMet (c : Ctx) : Hold → Bool
  | .waita cc a v => ccHolds cc (c.ls.word a) v
  | _ => false

/-- A waiting context whose comparison holds wakes. -/
def execWaitaWake (key : Nat) (s : State) : Out :=
  .next (s.updCtx key fun c => { c with holds := c.holds.filter fun h => !c.waitMet h })

def execTwait (g : Guard) (c0 c1 c2 : Option (Fin 63)) (s : State) : Out :=
  s.when g
    (let ts := c0.toList ++ c1.toList ++ c2.toList
     if ts.isEmpty then s.fault 9 63 3
     else match s.cur.tokFault none ts with
      | some f => s.fail f
      | none => .next (if s.cur.toksDone ts then s else s.hold (.twait ts)))

def execTpoll (g : Guard) (d : SReg) (t : Fin 63) (s : State) : Out :=
  s.when g (.next (s.putL d 2 (match s.cur.tok t with
    | .idle => 0
    | .pending => 1
    | .done => 2)))

/-- The physical LS byte at which a context's window begins (06 R128). -/
def Ctx.lsBase (c : Ctx) : Nat := if c.second then 2 ^ 20 - c.foot else 0

/-- A physical LS byte lies in the context's window, which is its footprint. -/
def Ctx.holdsByte (c : Ctx) (b : Nat) : Bool := decide (c.lsBase ≤ b) && decide (b < c.lsBase + c.foot)

/-- The LS offset that a physical address of an LS network names: the context of `ctx` on the core whose window holds the byte,
resident or saved (DESIGN CHOICE, assumption log 3). -/
def State.lsTarget (s : State) (ctx : BitVec 8) (pa : Nat) : Option (LsAt × Nat) :=
  match s.range? pa with
  | none => none
  | some r =>
    if r.target < 8 ∨ r.target > 11 then none
    else
      let n := 256 * (r.target - 8) + (pa - r.base) / 2 ^ 20
      let b := (pa - r.base) % 2 ^ 20
      let ks := [2 * n, 2 * n + 1]
      let here := (ks.find? fun k => (s.ctx k).grid.isSome && (s.ctx k).ctxId == ctx && (s.ctx k).holdsByte b).map
        fun k => (⟨k, none⟩ : LsAt)
      let saved := s.grids.findSome? fun e => if e.2.ctx = ctx then
          (ks.find? fun k => (e.2.saved.get? k).any (·.holdsByte b)).map fun k => (⟨k, some e.1⟩ : LsAt)
        else none
      (here.or saved).map fun a => (a, b - (s.lsCtx a).lsBase)

/-- A line of a host write performs (13 R280). -/
def State.hostPerform (s : State) (ctx : BitVec 8) (l : Nat × List Byte) : State :=
  if 8 ≤ s.target l.1 ∧ s.target l.1 ≤ 11 then
    match s.lsTarget ctx l.1 with
    | some (a, off) => if off + l.2.length ≤ (s.lsCtx a).foot then s.lsStore a off l.2 else s
    | none => s
  else s.pwrite l.1 l.2

/-- The first `n` waiting host writes of a context perform in arrival order (08 R185, 13 R280). -/
def State.applyIngress (s : State) (ctx n : Nat) : State :=
  let r := s.ctxRegs ctx
  (r.ingress.take n).foldl (fun s w => s.hostPerform (BitVec.ofNat 8 ctx) w)
    { s with ctxs := s.ctxs.set ctx { r with ingress := r.ingress.drop n } }

def execHwin (g : Guard) (d : SReg) (s : State) : Out :=
  s.when g
    (if s.cur.elastic then .next (s.put 1 (d.writes 0) none)
     else
      let c := s.cur.ctxId.toNat
      -- the buffer holds 64 lines; later ones still wait on the host link
      let n := min 64 (s.ctxRegs c).ingress.length
      .next ((s.applyIngress c n).put 1 (d.writes (BitVec.ofNat 64 n)) none))

def execIcinv (g : Guard) (cohort : Bool) (d : SReg) (base : Fin 64) (off : BitVec 16) (s : State) : Out :=
  s.when g (.next ((s.ebp [d]).drainThen (if cohort then .y else .d)
    (.icinv cohort (s.rs (.s base) + off.signExtend 64) (s.rs d))))

/-! ### The tag table (06 R133 R134, 08 R187) -/

def keySet (k : Word64) : Nat := bits k.toNat 10 6

def keyTag (k : Word64) : BitVec 48 := k.extractLsb' 16 48

/-- TLKP's answer for a key. -/
def Ctx.lookup (c : Ctx) (k : Word64) : Word64 :=
  let set := keySet k
  match (List.range 8).find? (fun w => c.tags.get? (8 * set + w) == some (keyTag k)) with
  | some w => BitVec.ofNat 64 (1024 * (8 * set + w))
  | none =>
    let valid := (List.range 8).foldl (fun n w => n + (if (c.tags.get? (8 * set + w)).isSome then 2 ^ w else 0)) 0
    BitVec.ofNat 64 (2 ^ 63 + 256 * valid + set)

def execTlkp (g : Guard) (d k : SReg) (s : State) : Out :=
  s.when g (.next ((s.ebp [k]).putL d 4 (s.cur.lookup (s.rs k))))

/-- TINS and TINV: a slot beyond the footprint is a protection fault. -/
def State.tagWrite (s : State) (g : Guard) (w k : SReg) (valid : Bool) : Out :=
  s.when g
    (let key := s.rs k
     let slot := 8 * keySet key + (s.rs w).toNat % 8
     if 1024 * (slot + 1) > s.cur.foot then s.fault 5 (BitVec.ofNat 64 (1024 * slot)) 2
     else .next ((s.ebp [w, k]).put 1 [.tag (Fin.ofNat 512 slot) valid (keyTag key)] none))

def execTins (g : Guard) (w k : SReg) (s : State) : Out := s.tagWrite g w k true

def execTinv (g : Guard) (w k : SReg) (s : State) : Out := s.tagWrite g w k false

end Sys2Proof.Machine
end

