-- ==== Sys2Proof/Machine/Witness.lean ====
section
/-! DEFINITION. Witness registers: headers, producers, the adjoint broadcast and moves (12 R248 to R261). -/
namespace Sys2Proof.Machine

/-! ### Headers (12 R249) -/

/-- The header; an empty witness shows its counter only (12 R248). -/
def Wit.header (w : Wit) : Word64 :=
  if w.live then
    BitVec.ofNat 64 (w.op.toNat + 2 ^ 4 * w.axis.toNat + 2 ^ 8 * w.cnt.toNat + 2 ^ 15 + 2 ^ 16 * w.gen.toNat
      + 2 ^ 32 * w.ctx.toNat)
  else BitVec.ofNat 64 (2 ^ 16 * w.gen.toNat)

/-- The shapes of each operator. -/
def witShape (op axis cnt : Nat) : Bool :=
  match op with
  | 1 | 2 => (axis == 0 && decide (2 ≤ cnt) && decide (cnt ≤ 8)) || (axis == 1 && cnt == 64) || (axis == 2 && cnt == 16)
  | 3 => axis == 0 && cnt == 1
  | 4 => axis == 0 && (cnt == 3 || cnt == 5 || cnt == 7)
  | 5 => (axis == 1 && cnt == 64) || (axis == 2 && cnt == 16)
  | _ => false

/-! ### Order (12 R251) -/

/-- Place of a lane's element in the order of its format; none for a NaN. -/
def ordKey (f : NumFmt) (w : Word32) : Option Int :=
  match f with
  | .fp f =>
    let x := w.toNat % 2 ^ ((fpf f).p + (fpf f).eb)
    if ((fpf f).unpack x).isNan then none
    else if x ≥ (fpf f).signBit then some (-(x - (fpf f).signBit : Nat) - 1) else some x
  | .int f => some (intVal f (w.setWidth 64))

def isSigLane (f : NumFmt) (w : Word32) : Bool :=
  match f with
  | .fp f => ((fpf f).unpack w.toNat).isSig
  | .int _ => false

/-- An element as a result of its format writes it. -/
def laneOut (f : NumFmt) (w : Word32) : Word32 :=
  match f with
  | .fp f => BitVec.ofNat 32 (w.toNat % 2 ^ ((fpf f).p + (fpf f).eb))
  | .int f => (intPut f (intVal f (w.setWidth 64))).setWidth 32

def laneNan (f : NumFmt) : Word32 :=
  match f with
  | .fp f => BitVec.ofNat 32 (fpf f).nanBits
  | .int _ => 0

/-- Which contributor a selection takes. -/
inductive Choice where
  | max | min | med

def insertKey (k : Int) : List Int → List Int
  | [] => [k]
  | x :: l => if k ≤ x then k :: x :: l else x :: insertKey k l

/-- The deciding value of a selection. -/
def deciding (ch : Choice) (ks : List Int) : Int :=
  match ch with
  | .max => ks.foldl (fun a b => if b > a then b else a) (ks.headD 0)
  | .min => ks.foldl (fun a b => if b < a then b else a) (ks.headD 0)
  | .med => (ks.foldl (fun l k => insertKey k l) []).getD ((ks.length - 1) / 2) 0

/-- The value, the entry and the events of a selection (12 R250 R251 R253). -/
def select (ch : Choice) (f : NumFmt) (cs : List Word32) : Word32 × Byte × Ev :=
  let keys := cs.map (ordKey f)
  let ev := nvIf (cs.any (isSigLane f))
  match keys.findIdx? (·.isNone) with
  | some i => (laneNan f, BitVec.ofNat 8 (i % 64 + 128), ev)
  | none =>
    let best := deciding ch (keys.filterMap id)
    let x := keys.findIdx (· == some best)
    let tie := decide ((keys.filter (· == some best)).length > 1)
    (laneOut f (cs.getD x 0), BitVec.ofNat 8 (x + (if tie then 64 else 0)), ev)

/-! ### Producers (12 R252 to R257) -/

/-- A producer's latency: that of its plain operation plus one. -/
def State.wLat (s : State) (fmt : NumFmt) (sh : WShape) : Nat :=
  match sh with
  | .row => 5
  | .col => 7
  | .elem =>
    match fmt with
    | .fp _ => s.fpLat 4 + 1
    | .int _ => 3

def witOf (s : State) (op axis cnt : Nat) (e : Vector (Vector Byte 64) 16) : Wit :=
  ⟨e, BitVec.ofNat 4 op, BitVec.ofNat 2 axis, BitVec.ofNat 7 cnt, s.cur.ctxId, true, 0⟩

/-- Tiles from `a` up. -/
def State.rtiles (s : State) (a : VReg) (n : Nat) : Array (Vector Vec 16) :=
  ((List.range n).map fun q => s.rtile (a.plus (16 * q))).toArray

/-- The element of row i and lane j of a tile of an array. -/
def tileEl (t : Array (Vector Vec 16)) (q : Nat) (i : Fin 16) (j : Fin 64) : Word32 :=
  ((t.getD q (Vector.replicate 16 Vec.zero)).get i).get j

abbrev Grid16 (α : Type) := Vector (Vector α 64) 16

def grid16 {α : Type} (f : Fin 16 → Fin 64 → α) : Grid16 α := Vector.ofFn fun i => Vector.ofFn fun j => f i j

/-- An element-wise producer: a tile and its witness land together. -/
def State.produceTile (s : State) (d : VReg) (lat : Nat) (op cnt : Nat) (k : Fin 8)
    (r : Grid16 (Word32 × Byte × Ev)) : State :=
  let wit := witOf s op 0 cnt (r.map fun row => row.map fun x => x.2.1)
  s.putVs d lat (r.toList.map fun row => row.map Prod.fst)
    (Ev.union (r.toList.flatMap fun row => row.toList.map fun x => x.2.2)) [.witness k wit]

/-- A row or column producer: a vector and its witness. -/
def State.produceVec (s : State) (d : VReg) (lat : Nat) (op : Nat) (row : Bool) (k : Fin 8)
    (r : Nat → Word32 × Byte × Ev) : State :=
  let n := if row then 16 else 64
  let a := ((List.range n).map r).toArray
  let at_ (i : Nat) : Word32 × Byte × Ev := a.getD i (0, 0, 0)
  let e : Grid16 Byte := grid16 fun i j =>
    if row then (if j = 0 then (at_ i.val).2.1 else 0) else (if i = 0 then (at_ j.val).2.1 else 0)
  s.putVs d lat [Vec.ofLanes fun i => (at_ i.val).1] (Ev.union (a.toList.map fun x => x.2.2))
    [.witness k (witOf s op (if row then 1 else 2) (if row then 64 else 16) e)]

/-- The contributors of a row or of a column of a tile. -/
def rowOf (t : Vector Vec 16) (i : Nat) : List Word32 := (t.get (Fin.ofNat 16 i)).toList

def colOf (t : Vector Vec 16) (j : Nat) : List Word32 := t.toList.map fun r => r.get (Fin.ofNat 64 j)

def State.extremumW (s : State) (o : WProd) (ch : Choice) (op : Nat) : Out :=
  let lat := s.wLat o.fmt o.shape
  s.when o.g
    (match o.shape with
     | .elem =>
       let t := s.rtiles o.a o.n.val
       .next (s.produceTile o.d lat op o.n.val o.k
         (grid16 fun i j => select ch o.fmt ((List.range o.n.val).map fun q => tileEl t q i j)))
     | .row => .next (s.produceVec o.d lat op true o.k fun i => select ch o.fmt (rowOf (s.rtile o.a) i))
     | .col => .next (s.produceVec o.d lat op false o.k fun j => select ch o.fmt (colOf (s.rtile o.a) j)))

def execVmaxw (o : WProd) (s : State) : Out := s.extremumW o .max 1

def execVminw (o : WProd) (s : State) : Out := s.extremumW o .min 2

/-- One clamp (12 R254). -/
def clampW (f : NumFmt) (x lo hi : Word32) : Word32 × Byte × Ev :=
  let ev := nvIf (isSigLane f x || isSigLane f lo || isSigLane f hi)
  match ordKey f x, ordKey f lo, ordKey f hi with
  | some kx, some kl, some kh =>
    if kx < kl then (laneOut f lo, 1, ev) else if kx > kh then (laneOut f hi, 2, ev) else (laneOut f x, 0, ev)
  | _, _, _ => (laneNan f, 3, ev)

def execVclmpw (g : Guard) (d a b : VReg) (k : Fin 8) (fmt : NumFmt) (s : State) : Out :=
  s.when g
    (let t := s.rtile a
     let v := s.rv b
     .next ((s.ebp [] [b]).produceTile d (s.wLat fmt .elem) 3 1 k
       (grid16 fun i j => clampW fmt ((t.get i).get j) (v.get 0) (v.get 1))))

def execVmedw (g : Guard) (d a : VReg) (n : Fin 16) (k : Fin 8) (fmt : NumFmt) (s : State) : Out :=
  s.when g
    (let t := s.rtiles a n.val
     .next (s.produceTile d (s.wLat fmt .elem) 4 n.val k
       (grid16 fun i j => select .med fmt ((List.range n.val).map fun q => tileEl t q i j))))

/-- The exact sum, saturated once, and its entry (12 R256). -/
def satSum (f : IntFmt) (cs : List Word32) : Word32 × Byte × Ev :=
  let v := (cs.map fun w => intVal f (w.setWidth 64)).foldl (· + ·) 0
  let r := intSat f v
  ((intPut f r.1).setWidth 32, if r.2 = 0 then 0 else if v < intMin f then 3 else 1, r.2)

def execVsatw (g : Guard) (d a : VReg) (col : Bool) (k : Fin 8) (fmt : IntFmt) (s : State) : Out :=
  let t := s.rtile a
  s.when g
    (.next (s.produceVec d (s.wLat (.int fmt) (if col then .col else .row)) 5 (!col) k fun i =>
      satSum fmt (if col then colOf t i else rowOf t i)))

/-! ### The adjoint broadcast (12 R258 R259) -/

def adjCode (op : AdjOp) : Nat :=
  match op with
  | .max => 1
  | .min => 2
  | .clamp => 3
  | .med => 4
  | .sat => 5

def shapeCode (sh : WShape) : Nat :=
  match sh with
  | .elem => 0
  | .row => 1
  | .col => 2

/-- The expected contributor count. -/
def adjCnt (o : AdjOpnd) : Nat :=
  match o.shape with
  | .row => 64
  | .col => 16
  | .elem => if o.op = .clamp then 1 else o.n.val

/-- The first check that fails: 1 empty, 2 operator, 3 shape (12 R259 R260). -/
def staleReason (w : Wit) (op axis cnt : Nat) : Option Nat :=
  if !w.live then some 1
  else if w.op.toNat ≠ op then some 2
  else if w.axis.toNat ≠ axis ∨ w.cnt.toNat ≠ cnt then some 3
  else none

/-- Detail words of a stale witness. -/
def staleWord (k : Fin 8) (load : Bool) (reason : Nat) : Word64 :=
  BitVec.ofNat 64 (k.val + (if load then 8 else 0) + 16 * reason)

/-- Where an entry routes. -/
def route (cnt : Nat) (e : Byte) : Option Nat :=
  let x := e.toNat % 64
  if e.getLsbD 7 ∨ x ≥ cnt then none else some x

/-- dx of contributor q, row i, lane j. -/
def adjEl (o : AdjOpnd) (w : Wit) (cnt : Nat) (t : Vector Vec 16) (v : Vec) (q : Nat) (i : Fin 16) (j : Fin 64) :
    Word32 :=
  let e := (w.e.get i).get j
  let rowE := (w.e.get i).get 0
  let colE := (w.e.get 0).get j
  let dyi := v.get (Fin.ofNat 64 i.val)
  let dyj := v.get j
  let dy := (t.get i).get j
  match o.op, o.shape with
  | .clamp, _ => if e.toNat % 4 = 0 then dy else 0
  | .sat, .col => if colE.getLsbD 0 then 0 else dyj
  | .sat, _ => if rowE.getLsbD 0 then 0 else dyi
  | _, .elem => if route cnt e = some q then dy else 0
  | _, .row => if route cnt rowE = some j.val then dyi else 0
  | _, .col => if route cnt colE = some i.val then dyj else 0

/-- Whether an entry that the operator reads marks a NaN. -/
def adjNan (o : AdjOpnd) (w : Wit) : Bool :=
  let es := match o.shape with
    | .elem => w.e.toList.flatMap Vector.toList
    | .row => w.e.toList.map fun (r : Vector Byte 64) => r.get 0
    | .col => (w.e.get 0).toList
  match o.op with
  | .clamp => es.any fun e => e.toNat % 4 == 3
  | .sat => false
  | _ => es.any fun e => e.getLsbD 7

def execVadj (o : AdjOpnd) (s : State) : Out :=
  s.when o.g
    (let w := s.cur.regs.w.get o.k
     let cnt := adjCnt o
     match staleReason w (adjCode o.op) (shapeCode o.shape) cnt with
     | some r => s.fault 8 (staleWord o.k false r) w.header
     | none =>
       let t := s.rtile o.a
       let v := s.rv o.a
       let tiles := if o.shape = .elem ∧ o.op ≠ .clamp then o.n.val else 1
       let s1 := if o.shape = .elem then s else s.ebp [] [o.a]
       .next (s1.putVs o.d 3
         ((List.range tiles).flatMap fun q => (List.finRange 16).map fun i => Vec.ofLanes fun j => adjEl o w cnt t v q i j)
         (if adjNan o w then Ev.wnan else 0) (if o.free then [.witFree o.k] else [])))

/-! ### Moves (12 R261) -/

/-- The 1,024 entry bytes, row by row. -/
def Wit.bytes (w : Wit) : List Byte := w.e.toList.flatMap Vector.toList

def execWmov (g : Guard) (hdr : Bool) (d : VReg) (k : Fin 8) (s : State) : Out :=
  s.when g
    (let w := s.cur.regs.w.get k
     if hdr then
      .next (s.putVs d 2 [Vec.ofLanes fun i =>
        if i = 0 then w.header.setWidth 32 else if i = 1 then w.header.extractLsb' 32 32 else 0])
     else .next (s.putVs d 2 ((List.range 4).map fun r => vecOfBytes ((w.bytes.drop (256 * r)).take 256))))

def execWclr (g : Guard) (k : Fin 8) (s : State) : Out := s.when g (.next (s.put 1 [.witFree k] none))

end Sys2Proof.Machine
end

