-- ==== Sys2Proof/Machine/Engine.lean ====
section
/-! DEFINITION. Engine commands and their events, payloads between cores, and witness spills (08 R188 to R194, 14 R289 to R291,
12 R262, 06 R142 to R144, 26 R375 R376). -/
namespace Sys2Proof.Machine

/-! ### Issue (08 R188) -/

/-- Commands of the context that have not completed. -/
def Ctx.engCount (c : Ctx) : Nat := c.queue.length + c.active.length

/-- The command block at an LS offset, after its alignment and footprint checks (DEDUCED, assumption log 24). -/
def State.readBlock (s : State) (a : Word64) (words : Nat) : Except Flt (List Word64) :=
  match lsFault s.cur.foot a (8 * words) (8 * words) 0 with
  | some f => .error f
  | none => .ok (wordsOfBytes words (s.lsRead a.toNat (8 * words)))

/-- A command enters the queue; a 17th freezes the context until one completes. -/
def State.enqueue (s : State) (c : EngCmd) : State :=
  if s.cur.engCount ≥ 16 then s.hold (.engFull c) else s.mapCur fun x => { x with queue := x.queue ++ [c] }

/-- An engine-form syllable: token checks, the block, its fields, then the queue. -/
def State.engine? (s : State) (o : EngOp) (kind : EngKind) (mask : Option (BitVec 16)) (words : Nat)
    (bad : List Word64 → Bool) (more : List Word64 → Option Flt) : Out :=
  s.when o.g
    (match s.cur.tokFault o.prod o.cons with
     | some f => s.fail f
     | none =>
       let a := s.rs o.cblk
       match s.readBlock a words with
       | .error f => s.fail f
       | .ok b =>
         if bad b then s.fault 1 (badBlock a.toNat) 0
         else match more b with
          | some f => s.fail f
          | none =>
            let s1 := ((s.ebp [o.cblk]).lsReq reqL s.focus a.toNat (8 * words) false).mapCur (·.setProd o.prod .pending)
            .next (s1.enqueue ⟨kind, s.cur.strand, b, a.toNat, o.prod, o.cons, mask, s.issue.addr, s.issue.pos,
              CopyProg.start 0⟩))

/-- Reserved values of a copy block (08 R189). -/
def copyBad (mask : Option (BitVec 16)) (b : List Word64) : Bool :=
  decide (blk b 0 0 2 > 1) || decide (blk b 0 2 2 > 1) || decide (blk b 0 5 3 > 4) || blk b 0 16 3 == 0
    || blk b 0 16 3 == 7 || (mask.isSome && blk b 0 2 2 != 0)

/-- The contexts of the grid on the masked cores, or the first masked core that has none (08 R189). -/
def State.maskKeys (s : State) (m : BitVec 16) : Except Flt (List LsAt) :=
  (List.finRange 16).foldl (fun r i =>
    match r with
    | .error f => .error f
    | .ok l =>
      if m.getLsbD i.val then
        match s.peerAt i with
        | some k => .ok (l ++ [k])
        | none => .error (5, BitVec.ofNat 64 i.val, 11)
      else .ok l) (.ok [])

def State.maskFault (s : State) (mask : Option (BitVec 16)) : Option Flt :=
  match mask with
  | none => none
  | some m =>
    match s.maskKeys m with
    | .error f => some f
    | .ok _ => none

def execCopy (mask : Option (BitVec 16)) (o : EngOp) (s : State) : Out :=
  s.engine? o .copy mask 16 (copyBad mask) fun _ => s.maskFault mask

def execCopyk (mask : Option (BitVec 16)) (o : EngOp) (s : State) : Out :=
  s.engine? o .copyk mask 16 (copyBad mask) fun _ => s.maskFault mask

def execKreq (kiosk : Fin 128) (o : EngOp) (s : State) : Out :=
  s.engine? o (.kreq kiosk) none 8 (fun _ => false) fun _ => none

/-- Key of a group-table entry of a context (26 R375). -/
def groupKey (ctx : BitVec 8) (g : Nat) : Nat := ctx.toNat * 4096 + g

/-- A valid group-table entry. -/
def State.group? (s : State) (g : Nat) : Option (Word64 × Word64) :=
  if g > 4095 then none else (s.groups.get? (groupKey s.cur.ctxId g)).filter fun e => e.1.getLsbD 12

/-- Reserved values of a collective block (08 R193, 26 R375). -/
def State.collBad (s : State) (b : List Word64) : Bool :=
  let op := blk b 0 0 2
  decide (blk b 0 2 4 > 3) || (decide (op ≤ 1) && blk b 0 6 2 == 3) || (blkWord b 1).toNat == 0
    || decide ((blkWord b 1).toNat > 2 ^ 40)
    || (match s.group? (blk b 0 32 32) with
        | none => true
        | some e => op == 3 && decide (blk b 4 0 32 > bits e.1.toNat 0 12))

def execColl (o : EngOp) (s : State) : Out := s.engine? o .coll none 8 s.collBad fun _ => none

def csigBad (b : List Word64) : Bool := blk b 0 0 2 == 3 || decide (blk b 0 4 3 > 4)

def execCsig (o : EngOp) (s : State) : Out := s.engine? o .csig none 4 csigBad fun _ => none

/-! ### Running commands (08 R188 R190 R191 R194) -/

def EngKind.isCopy : EngKind → Bool
  | .copy | .copyk => true
  | _ => false

/-- Act with another context in focus, then bring the old one back. -/
def State.onKey (s : State) (key : Nat) (f : State → State) : State :=
  if key = s.focus then f s else (f (s.focusOn key)).focusOn s.focus

/-- A command fails: its fault ends the grid (08 R188). One of the management core that its target turns away is over, and nothing of it
performs (23 R339). -/
def State.cmdFault (s : State) (c : EngCmd) (f : Flt) : State :=
  if s.cur.goesOn f then s.mapCur (·.tokDone c.strand c.prod)
  else s.takeFault ⟨f.1, posMask c.pos, c.addr, f.2.1, f.2.2⟩

/-- Command i of the running ones is over: its token is done. -/
def State.cmdDone (s : State) (i : Nat) (c : EngCmd) : State :=
  s.mapCur fun x => { (x.tokDone c.strand c.prod) with active := x.active.eraseIdx i }

def State.dropCmd (s : State) (i : Nat) : State := s.mapCur fun x => { x with active := x.active.eraseIdx i }

/-- The master of the context's engine commands: its copy engine (23 R337). -/
def Ctx.engMaster (c : Ctx) : Nat := if c.kind = .compute then 0x400 + c.gid else c.master

/-- Translation of an engine access: `perm` 1 read, 2 write, 3 atomics (DEDUCED, assumption log 24). -/
def State.engXlate (s : State) (va : Word64) (len al perm : Nat) (add : Bool := false) : Except Flt Pa :=
  match lttXlate s.cur.ltt va len al 4 perm with
  | .error f => .error f
  | .ok p =>
    match s.physFault s.cur.engMaster s.cur.ctxId va p.1 len (perm - 1) add with
    | some f => .error f
    | none => .ok p

/-- 32-bit field k of words packed two to a word. -/
def half (b : List Word64) (w k : Nat) : Nat := blk b (w + k / 2) (32 * (k % 2)) 32

/-- Counts and strides of the dimensions of a copy, dimension 0 first (08 R189). -/
def copyDims (b : List Word64) : List (Nat × Word64 × Word64) :=
  (List.range (blk b 0 16 3)).map fun k =>
    (half b 5 k, (BitVec.ofNat 32 (half b 8 k)).signExtend 64, (BitVec.ofNat 32 (half b 11 k)).signExtend 64)

/-- Elements that a copy moves. -/
def copyCount (b : List Word64) : Nat := (copyDims b).foldl (fun n d => n * d.1) 1

/-- Source and destination of the element with index `i`, dimension 0 fastest (08 R190). -/
def copyElem : List (Nat × Word64 × Word64) → Nat → Word64 → Word64 → Word64 × Word64
  | [], _, s, d => (s, d)
  | (n, ss, ds) :: r, i, s, d =>
    copyElem r (i / n) (s + BitVec.ofNat 64 (i % n) * ss) (d + BitVec.ofNat 64 (i % n) * ds)

/-- Bytes of an element, and whether its source and its destination are global. -/
def copyEsz (b : List Word64) : Nat := 2 ^ blk b 0 14 2
def srcGlobal (b : List Word64) : Bool := blk b 0 0 2 == 1
def dstGlobal (b : List Word64) : Bool := blk b 0 2 2 == 1

/-- A place an engine reaches: an LS offset or a physical address. -/
def State.engPlace (s : State) (glob : Bool) (a : Word64) (n perm : Nat) : Except Flt Nat :=
  if glob then
    match s.engXlate a n n perm with
    | .error f => .error f
    | .ok p => .ok p.1
  else
    match lsFault s.cur.foot a n n 4 with
    | some f => .error f
    | none => .ok a.toNat

/-- The places of element `i`, or the fault of its checks. -/
def State.copyAt (s : State) (b : List Word64) (i : Nat) : Except Flt (Nat × Nat) :=
  let e := copyElem (copyDims b) i (blkWord b 1) (blkWord b 2)
  match s.engPlace (srcGlobal b) e.1 (copyEsz b) 1 with
  | .error f => .error f
  | .ok src =>
    match s.engPlace (dstGlobal b) e.2 (copyEsz b) 2 with
    | .error f => .error f
    | .ok dst => .ok (src, dst)

/-- Element `p` moves with element `q`: one 64-byte line of each LS holds them (06 R129 R131). -/
def copyFits (b : List Word64) (q p : Nat × Nat) : Bool :=
  (srcGlobal b || p.1 / 64 == q.1 / 64) && (dstGlobal b || p.2 / 64 == q.2 / 64)

/-- Element `p` reads a byte that element `q` of the same command writes. -/
def copyReads (b : List Word64) (q p : Nat × Nat) : Bool :=
  srcGlobal b == dstGlobal b && decide (p.1 < q.2 + copyEsz b) && decide (q.2 < p.1 + copyEsz b)

/-- The places of the elements from `i` on that move together, `acc` the latest first. -/
def State.copyBatch (s : State) (b : List Word64) : Nat → Nat → List (Nat × Nat) → List (Nat × Nat)
  | 0, _, acc => acc.reverse
  | k + 1, i, acc =>
    if i ≥ copyCount b then acc.reverse
    else match s.copyAt b i with
      | .error _ => acc.reverse
      | .ok p =>
        if acc.all fun q => copyFits b q p && !copyReads b q p then s.copyBatch b k (i + 1) (p :: acc) else acc.reverse

def State.placeRead (s : State) (glob : Bool) (a n : Nat) : List Byte := if glob then s.pread a n else s.cur.ls.readN a n

/-- Bytes of one element: where the command has already written them, the old or the new value (08 R190). -/
def State.copyBytes (s : State) (b : List Word64) (g : CopyProg) (src : Nat) : State × List Byte :=
  let new := s.placeRead (srcGlobal b) src (copyEsz b)
  let old := new.zipIdx.map fun (x, k) => (g.old.get? (src + k)).getD x
  if new = old then (s, new) else (s.draw, if Config.copyReadsNew s.freeCount then new else old)

/-- The elements of a batch are read, each with its destination. -/
def State.copyIn (s : State) (b : List Word64) (g : CopyProg) (ps : List (Nat × Nat)) : State × List (Nat × List Byte) :=
  ps.foldl (fun (r : State × List (Nat × List Byte)) p =>
    let (t, bs) := r.1.copyBytes b g p.1
    (t, r.2 ++ [(p.2, bs)])) (s, [])

/-- What the bytes about to be overwritten hold, the first time. -/
def CopyProg.keep (g : CopyProg) (a : Nat) (bs : List Byte) : CopyProg :=
  { g with old := bs.zipIdx.foldl (fun t (x, k) => if (t.get? (a + k)).isSome then t else t.set (a + k) x) g.old }

/-- Old bytes are kept where a later element could read them. -/
def State.copyKeep (s : State) (b : List Word64) (g : CopyProg) : CopyProg :=
  if srcGlobal b = dstGlobal b then
    g.got.foldl (fun g e => g.keep e.1 (s.placeRead (dstGlobal b) e.1 e.2.length)) g
  else g

/-- The running copy with a number, and its place among the running commands. -/
def Ctx.copyOf (c : Ctx) (id : Nat) : Option (Nat × EngCmd) :=
  (c.active.zipIdx.find? fun x => x.1.kind.isCopy && x.1.prog.id == id).map fun x => (x.2, x.1)

def State.setProg (s : State) (i : Nat) (g : CopyProg) : State :=
  s.mapCur fun c => { c with active := c.active.modify i fun x => { x with prog := g } }

/-- The contexts that a copy writes. -/
def State.copyTargets (s : State) (c : EngCmd) : Except Flt (List LsAt) :=
  match c.mask with
  | none => .ok [⟨s.focus, none⟩]
  | some m => s.maskKeys m

/-- The elements in hand have performed: they are counted, and the copy goes on to the next (06 R145). -/
def State.copyPass (s : State) (i : Nat) (c : EngCmd) (g : CopyProg) : State :=
  let bs := g.got.flatMap Prod.snd
  (s.countBytes s.cur.ctxId (Fin.ofNat 64 (blk c.blk 0 8 6)) bs.length).setProg i { g with
    at_ := g.at_ + g.got.length
    got := []
    left := []
    moved := if c.kind = .copyk then g.moved ++ bs else [] }

/-- A request for one line of the copy's LS side. -/
def State.copyAsk (s : State) (key addr len : Nat) (job : ElJob) : State :=
  s.elAsk .copy s.cur.engMaster key (some s.focus) addr len job

/-- The elements in hand go to their places: at once to global memory and to a saved LS, line by line to a resident one. -/
def State.copyOut (s : State) (i : Nat) (c : EngCmd) (g : CopyProg) : State :=
  let g1 := s.copyKeep c.blk g
  if dstGlobal c.blk then (g.got.foldl (fun s e => s.pwrite e.1 e.2) s).copyPass i c g1
  else match s.copyTargets c with
    | .error f => (s.dropCmd i).cmdFault c f
    | .ok ts =>
      let line := (g.got.headD (0, [])).1 / 64 * 64
      let here := (ts.filter fun t => t.saved.isNone).map LsAt.key
      let s1 := (ts.filter fun t => t.saved.isSome).foldl (fun s t => g.got.foldl (fun s e => s.lsStore t e.1 e.2) s) s
      let s2 := here.foldl (fun s k => s.copyAsk k line 64 (.copyWrite g.id)) s1
      if here.isEmpty then s2.copyPass i c g1 else s2.setProg i { g1 with left := here }

/-- The next access of a copy: its next line, or its record (08 R191). -/
def State.copyNext (s : State) (i : Nat) (c : EngCmd) : State :=
  let g := c.prog
  if g.at_ ≥ copyCount c.blk then
    if c.kind = .copyk ∧ !g.rec_ then
      let a := BitVec.ofNat 64 (blk c.blk 4 32 20)
      match lsFault s.cur.foot a 16 16 4 with
      | some f => (s.dropCmd i).cmdFault c f
      | none => s.copyAsk s.focus a.toNat 16 (.copyRec g.id)
    else s
  else match s.copyAt c.blk g.at_ with
    | .error f => (s.dropCmd i).cmdFault c f
    | .ok p =>
      if !srcGlobal c.blk then s.copyAsk s.focus (p.1 / 64 * 64) 64 (.copyRead g.id)
      else
        let (s1, got) := s.copyIn c.blk g (s.copyBatch c.blk 64 g.at_ [])
        s1.copyOut i c { g with got := got }

/-- The copy goes on after an access. -/
def State.copyGoOn (s : State) (id : Nat) : State :=
  match s.cur.copyOf id with
  | some (i, c) => if c.prog.got.isEmpty && !(srcGlobal c.blk && dstGlobal c.blk) then s.copyNext i c else s
  | none => s

/-- A granted line of the source is read. -/
def State.copyRead (s : State) (id : Nat) : State :=
  match s.cur.copyOf id with
  | none => s
  | some (i, c) =>
    match s.copyAt c.blk c.prog.at_ with
    | .error f => (s.dropCmd i).cmdFault c f
    | .ok _ =>
      let (s1, got) := s.copyIn c.blk c.prog (s.copyBatch c.blk 64 c.prog.at_ [])
      (s1.copyOut i c { c.prog with got := got }).copyGoOn id

/-- A granted line of a destination is written. -/
def State.copyWrite (s : State) (id key : Nat) : State :=
  match s.cur.copyOf id with
  | none => s
  | some (i, c) =>
    let g := { c.prog with left := c.prog.left.filter (· != key) }
    let s1 := g.got.foldl (fun s e => s.lsWriteOf key e.1 e.2) s
    if g.left.isEmpty then (s1.copyPass i c g).copyGoOn id else s1.setProg i g

/-- The COPYK record: the CRC and the bytes moved (08 R191). -/
def copyRecord (bs : List Byte) : List Byte := bytesOfWords [crc64 bs, BitVec.ofNat 64 (bs.length % 2 ^ 48)]

def State.copyRec (s : State) (id : Nat) : State :=
  match s.cur.copyOf id with
  | none => s
  | some (i, c) =>
    (s.lsWrite (blk c.blk 4 32 20) (copyRecord c.prog.moved)).setProg i { c.prog with rec_ := true }

/-- A completion word: a 64-bit elastic write into LS, with its checks (06 R144). -/
def State.wordPut (s : State) (ts : List LsAt) (a : Word64) (v : Word64) : Except Flt State :=
  match lsFault s.cur.foot a 8 8 4 with
  | some f => .error f
  | none => .ok (ts.foldl (fun s t => s.elWrite .cword s.cur.engMaster (some s.focus) t a.toNat (bytesOf 8 v)) s)

/-- The payload and the record stand: the completion word is asked for in each resident LS that it reaches, and stands in a saved one at
once; a copy that waits for none is done, and its token with it (06 R144, 13 R278; DEDUCED, assumption log 29). -/
def State.copyFinish (s : State) (i : Nat) (c : EngCmd) : State :=
  if !(blkWord c.blk 0).getLsbD 4 then s.cmdDone i c
  else
    let a := blk c.blk 4 0 20
    let bs := bytesOf 8 (blkWord c.blk 3)
    match s.copyTargets c, lsFault s.cur.foot (BitVec.ofNat 64 a) 8 8 4 with
    | .error f, _ | .ok _, some f => (s.dropCmd i).cmdFault c f
    | .ok ts, none =>
      let s1 := (ts.filter fun t => t.saved.isSome).foldl (fun s t => s.lsStore t a bs) s
      match ts.filter fun t => t.saved.isNone with
      | [] => s1.cmdDone i c
      | here => here.foldl (fun s t => s.elAsk .cword s.cur.engMaster t.key (some s.focus) a 8 (.word c.prog.id bs)) s1

/-- Every element that is left moves between global places. -/
def State.copyAll (s : State) (i : Nat) : Nat → State
  | 0 => s
  | n + 1 =>
    match s.cur.active[i]? with
    | none => s
    | some c => if s.trap.isSome ∨ c.prog.at_ ≥ copyCount c.blk then s else (s.copyNext i c).copyAll i n

/-- An LS request of a copy is pending. -/
def State.copyWaits (s : State) (id : Nat) : Bool :=
  s.elReqs.any fun e => match e.job with
    | .copyRead n | .copyWrite n | .copyRec n | .word n _ => n == id
    | _ => false

/-- The last completion word of a copy stands: the copy is done (95 COPY_COMPLETE). -/
def State.copyWord (s : State) (id : Nat) : State :=
  match s.cur.copyOf id with
  | some (i, c) => if s.copyWaits id then s else s.cmdDone i c
  | none => s

/-- A copy with no LS request pending goes on: payload, record, then its end. -/
def State.copyEnd (s : State) (i : Nat) : State :=
  match s.cur.active[i]? with
  | none => s
  | some c =>
    if s.trap.isSome ∨ c.prog.at_ < copyCount c.blk then s
    else if c.kind = .copyk ∧ !c.prog.rec_ then s.copyNext i c
    else s.copyFinish i c

def State.copyRun (s : State) (i : Nat) (c : EngCmd) : State :=
  if s.copyWaits c.prog.id then s
  else if c.prog.at_ ≥ copyCount c.blk then s.copyEnd i
  else if srcGlobal c.blk ∧ dstGlobal c.blk then ({ s with trap := none }.copyAll i (copyCount c.blk)).copyEnd i
  else s.copyNext i c

/-- Room in a kiosk's mailbox (15 R296). -/
def State.mailRoom (s : State) (k : Nat) : Bool := decide ((s.ctx (2048 + k)).kiosk.mbox.length < 32)

/-- Requests to a kiosk that have started and have not arrived. -/
def State.mailComing (s : State) (k : Nat) : Nat :=
  ((s.allCtxs.flatMap fun e => e.2.active).filter fun c => match c.kind with
    | .kreq n => n.val == k
    | _ => false).length

/-- Entries of a mailbox that no message holds and no request on its way has been given (08 R192). -/
def State.mailFree (s : State) (k : Nat) : Bool :=
  decide ((s.ctx (2048 + k)).kiosk.mbox.length + s.mailComing k < 32)

/-- Whether the head of the queue may start: its tokens are done, fewer than four run, and a request finds room. -/
def State.canStart (s : State) (c : EngCmd) : Bool :=
  c.cons.all (fun t => s.cur.tokOf c.strand t == .done) && decide (s.cur.active.length < 4)
    && (match c.kind with
        | .kreq k => s.mailFree k.val
        | _ => true)

/-- The head of the engine queue starts; a copy asks for its first line. -/
def State.startHead (s : State) : Option State :=
  match s.cur.queue with
  | [] => none
  | c :: q =>
    if s.canStart c then
      let c1 := { c with prog := CopyProg.start s.reqs }
      let s1 := { s.mapCur fun x => { x with queue := q, active := x.active ++ [c1] } with reqs := s.reqs + 1 }
      some (if c.kind.isCopy then s1.copyGoOn s.reqs else s1)
    else none

/-- The head of a context's engine queue starts (08 R188). -/
def execEngineCommandStart (key : Nat) (s : State) : Out := .next (s.onKey key fun s => s.startHead.getD s)

/-- Act on running command i of a context when it is of the kind named. -/
def State.withCmd (s : State) (key i : Nat) (ok : EngKind → Bool) (f : State → EngCmd → State) : Out :=
  .next (s.onKey key fun s =>
    match s.cur.active[i]? with
    | some c => if ok c.kind then f s c else s
    | none => s)

def execCopyComplete (key i : Nat) (s : State) : Out := s.withCmd key i EngKind.isCopy fun s c => s.copyRun i c

/-- A mailbox in order of arrival; messages of one tick by core id (15 R300). -/
def insertMail (m : Message) : List Message → List Message
  | [] => [m]
  | x :: l => if x.tick = m.tick ∧ m.core < x.core then m :: x :: l else x :: insertMail m l

/-- A message reaches its kiosk's mailbox (08 R192, 15 R300). -/
def State.mailArrive (s : State) (i : Nat) (c : EngCmd) (k : Nat) : State :=
  let tgt := 0x11 + k / 16
  if !s.admits tgt s.cur.engMaster 1 (some s.cur.ctxId) then
    (s.dropCmd i).cmdFault c (5, BitVec.ofNat 64 k, BitVec.ofNat 64 (4 + 256 * tgt))
  else if s.mailRoom k then
    let now := (s.dies.get (Fin.ofNat 4 (k / 32))).tick.toNat
    let m : Message := ⟨s.cur.coreId, BitVec.ofNat 9 s.cur.ctxWord, s.cur.grid.getD 0, c.blk, now⟩
    (s.updCtx (2048 + k) fun x => { x with kiosk := { x.kiosk with mbox := insertMail m x.kiosk.mbox } }).cmdDone i c
  else s

def execKreqMessageArrive (key i : Nat) (s : State) : Out :=
  s.withCmd key i (fun k => match k with | .kreq _ => true | _ => false) fun s c =>
    match c.kind with
    | .kreq k => s.mailArrive i c k.val
    | _ => s

/-- The running CSIG with a number, and its place among the running commands. -/
def Ctx.sigOf (c : Ctx) (id : Nat) : Option (Nat × EngCmd) :=
  (c.active.zipIdx.find? fun x => x.1.kind == .csig && x.1.prog.id == id).map fun x => (x.2, x.1)

/-- The LS write of a CSIG is asked for. -/
def State.sigComing (s : State) (id : Nat) : Bool := s.elReqs.any fun e => e.job == .sig id

/-- A CSIG has written its word: it counts under its buffer and completes. -/
def State.sigDone (s : State) (i : Nat) (c : EngCmd) : State :=
  (s.countBytes s.cur.ctxId (Fin.ofNat 64 (blk c.blk 0 8 6)) 8).cmdDone i c

/-- The granted LS write of a CSIG (08 R194). -/
def State.sigWrite (s : State) (id : Nat) : State :=
  match s.cur.sigOf id with
  | none => s
  | some (i, c) => (s.lsWrite (blkWord c.blk 1).toNat (bytesOf 8 (blkWord c.blk 2))).sigDone i c

/-- A CSIG of KIND 0 asks for its write into the LS of its context, an elastic one of the kind of a completion word (08 R194, 06 R130;
DEDUCED, assumption log 29). -/
def State.sigAsk (s : State) (i : Nat) (c : EngCmd) : State :=
  let a := blkWord c.blk 1
  match lsFault s.cur.foot a 8 8 4 with
  | some f => (s.dropCmd i).cmdFault c f
  | none =>
    if s.sigComing c.prog.id then s
    else s.elAsk .cword s.cur.engMaster s.focus (some s.focus) a.toNat 8 (.sig c.prog.id)

/-- A CSIG to global memory: a store, or an addition by the atomic unit (08 R194). -/
def State.sigGlobal (s : State) (i : Nat) (c : EngCmd) : State :=
  let a := blkWord c.blk 1
  let v := blkWord c.blk 2
  let r : Except Flt State := match blk c.blk 0 0 2 with
    | 1 =>
      match s.engXlate a 8 8 2 with
      | .error f => .error f
      | .ok p => .ok (s.pwrite p.1 (bytesOf 8 v))
    | _ =>
      match s.engXlate a 8 8 3 true with
      | .error f => .error f
      | .ok p => .ok (s.pwrite p.1 (bytesOf 8 (BitVec.ofNat 64 (leNat (s.pread p.1 8)) + v)))
  match r with
  | .error f => (s.dropCmd i).cmdFault c f
  | .ok s1 => s1.sigDone i c

def State.csigRun (s : State) (i : Nat) (c : EngCmd) : State :=
  if blk c.blk 0 0 2 = 0 then s.sigAsk i c else s.sigGlobal i c

def execCsigComplete (key i : Nat) (s : State) : Out :=
  s.withCmd key i (fun k => k == .csig) fun s c => s.csigRun i c

/-! ### Collectives (08 R193, 26 R375 R376) -/

/-- Bytes of an element and its reduction. -/
def collSize (ty : Nat) : Nat :=
  match ty with
  | 1 => 8
  | 2 => 2
  | _ => 4

def collOp (ty red a b : Nat) : Nat :=
  let fl (f : FFmt) : Nat :=
    match red with
    | 0 => (f.add Rnd.rne (f.unpack a) (f.unpack b)).1
    | 1 => (f.minMax true a b).1
    | _ => (f.minMax false a b).1
  match ty with
  | 0 => fl .f32
  | 1 => fl .f64
  | 2 => fl .bf16
  | _ =>
    let x : Word32 := BitVec.ofNat 32 a
    let y : Word32 := BitVec.ofNat 32 b
    match red with
    | 0 => (x + y).toNat
    | 1 => if x.slt y then b else a
    | _ => if y.slt x then b else a

/-- One round of the tree: each pair w apart combines. -/
def collRound (op : Nat → Nat → Nat) : List Nat → List Nat
  | a :: b :: l => op a b :: collRound op l
  | l => l

/-- The fixed tree over the ranks' contributions. -/
def collTree (op : Nat → Nat → Nat) : Nat → List Nat → Nat
  | 0, x => x.headD 0
  | n + 1, x => if x.length ≤ 1 then x.headD 0 else collTree op n (collRound op x)

/-- Element e of a buffer of bytes. -/
def elemOf (n : Nat) (bs : Array Byte) (e : Nat) : Nat := leNat ((List.range n).map fun i => bs.getD (n * e + i) 0)

/-- A rank of the group: where it runs, its command, its block and its send buffer. -/
structure Rank where
  place : Option (Nat × Nat × EngCmd)
  block : List Word64
  bytes : Array Byte

/-- Elements that a rank sends and receives. -/
def collSend (op n : Nat) (count : Nat) : Nat := if op = 1 then n * count else count

def collRecv (op n : Nat) (count : Nat) : Nat := if op = 2 then n * count else count

/-- Bytes of a virtual range as an engine reads them, one element at a time. -/
def State.engReadRange (s : State) (va : Word64) (size : Nat) : Nat → Except Flt (List Byte)
  | 0 => .ok []
  | n + 1 =>
    match s.engXlate va size size 1 with
    | .error f => .error f
    | .ok p =>
      match s.engReadRange (va + BitVec.ofNat 64 size) size n with
      | .error f => .error f
      | .ok l => .ok (s.pread p.1 size ++ l)

/-- Elements written to a virtual range. -/
def State.engWriteRange (s : State) (va : Word64) (size : Nat) (buf : Fin 64) : List Nat → Except Flt State
  | [] => .ok s
  | x :: l =>
    match s.engXlate va size size 2 with
    | .error f => .error f
    | .ok p =>
      ((s.pwrite p.1 (bytesOfNat size x)).countBytes s.cur.ctxId buf size).engWriteRange (va + BitVec.ofNat 64 size) size buf l

/-- The Virga egress of the die turns a master's traffic to other packages away (23 R338 R339). -/
def State.virgaFault (s : State) (far : Bool) (mid : Nat) : Option Flt :=
  let t := 0x0D + s.cur.die
  if far && !s.admits t mid 1 (some s.cur.ctxId) then some (5, 0, BitVec.ofNat 64 (4 + 256 * t)) else none

/-- The rank words of a group: core and package of each rank. -/
def State.rankList (s : State) (e : Word64 × Word64) : Except Flt (List (Nat × Nat)) :=
  match s.engReadRange (BitVec.ofNat 64 (bits e.2.toNat 0 48)) 4 (bits e.1.toNat 0 12 + 1) with
  | .error f => .error f
  | .ok bs =>
    let a := bs.toArray
    .ok ((List.range (bits e.1.toNat 0 12 + 1)).map fun q =>
      let w := elemOf 4 a q
      (w % 1024, w / 1024 % 64))

/-- The running COLL of a group on a core of the grid: its context key, index and command (DEDUCED, assumption log 23). -/
def State.collAt (s : State) (grid core g : Nat) : Option (Nat × Nat × EngCmd) :=
  [2 * core, 2 * core + 1].findSome? fun k =>
    let c := s.ctx k
    if c.grid = some grid then
      match c.active.findIdx? (fun x => x.kind == .coll && blk x.blk 0 32 32 == g) with
      | some i => (c.active[i]?).map fun x => (k, i, x)
      | none => none
    else none

/-- Every rank's part, in rank order, once all are there: those of this package with their send buffers still to read, those of other
packages from `peers` (package 0 is this one). -/
def State.gather (s : State) (grid g : Nat) (peers : List PeerRank) : Nat → List (Nat × Nat) → Option (List Rank)
  | _, [] => some []
  | q, (core, pkg) :: l =>
    let here : Option Rank :=
      if pkg = 0 then (s.collAt grid core g).map fun x => ⟨some x, x.2.2.blk, #[]⟩
      else (peers.find? fun p => p.rank == q).map fun p => ⟨none, p.block, p.bytes.toArray⟩
    here.bind fun r => (s.gather grid g peers (q + 1) l).map (r :: ·)

/-- The bytes that a rank of this package sends, as its own block gives them; only the root of a broadcast sends. -/
def State.sendOf (s : State) (n q : Nat) (r : Rank) : Except (Nat × Nat × EngCmd × Flt) Rank :=
  match r.place with
  | none => .ok r
  | some (k, i, c) =>
    let op := blk c.blk 0 0 2
    let m := if op = 3 ∧ q ≠ blk c.blk 4 0 32 then 0 else collSend op n (blkWord c.blk 1).toNat
    match (s.focusOn k).engReadRange (blkWord c.blk 2) (collSize (blk c.blk 0 2 4)) m with
    | .error f => .error (k, i, c, f)
    | .ok bs => .ok { r with bytes := bs.toArray }

/-- The send buffers of the ranks are read in rank order. -/
def State.readSends (s : State) (n : Nat) : Nat → List Rank → Except (Nat × Nat × EngCmd × Flt) (List Rank)
  | _, [] => .ok []
  | q, r :: l =>
    match s.sendOf n q r with
    | .error e => .error e
    | .ok r1 =>
      match s.readSends n (q + 1) l with
      | .error e => .error e
      | .ok rs => .ok (r1 :: rs)

/-- Blocks agree on OP, TYPE, RED, COUNT, GROUP and, for a broadcast, ROOT. -/
def collAgree (a b : List Word64) : Bool :=
  blk a 0 0 8 == blk b 0 0 8 && blk a 0 32 32 == blk b 0 32 32 && blkWord a 1 == blkWord b 1
    && (blk a 0 0 2 != 3 || blk a 4 0 32 == blk b 4 0 32)

/-- What rank q receives. -/
def collResult (b : List Word64) (rs : List Rank) (q : Nat) : List Nat :=
  let op := blk b 0 0 2
  let ty := blk b 0 2 4
  let red := blk b 0 6 2
  let size := collSize ty
  let count := (blkWord b 1).toNat
  let reduce (e : Nat) : Nat := collTree (collOp ty red) 13 (rs.map fun r => elemOf size r.bytes e)
  match op with
  | 0 => (List.range count).map reduce
  | 1 => (List.range count).map fun e => reduce (q * count + e)
  | 2 => rs.flatMap fun r => (List.range count).map fun e => elemOf size r.bytes e
  | _ => (List.range count).map fun e =>
      match rs[blk b 4 0 32]? with
      | some r => elemOf size r.bytes e
      | none => 0

/-- One rank of this package receives, writes its completion word and its token is done. -/
def State.collDeliver (s : State) (rs : List Rank) (q : Nat) (r : Rank) : State :=
  match r.place with
  | none => s
  | some (k, i, c) =>
    s.onKey k fun s =>
      match s.engWriteRange (blkWord c.blk 3) (collSize (blk c.blk 0 2 4)) (Fin.ofNat 64 (blk c.blk 0 16 6))
          (collResult c.blk rs q) with
      | .error f => (s.dropCmd i).cmdFault c f
      | .ok s1 =>
        if (blkWord c.blk 0).getLsbD 8 then
          match s1.wordPut [⟨s1.focus, none⟩] (BitVec.ofNat 64 (blk c.blk 6 0 20)) (blkWord c.blk 5) with
          | .error f => (s1.dropCmd i).cmdFault c f
          | .ok s2 => s2.cmdDone i c
        else s1.cmdDone i c

/-- A collective ends without a result on every member of this package, and the lowest core's fault is recorded (08 R193, 26 R376,
02 R40). -/
def State.collFail (s : State) (places : List (Nat × Nat × EngCmd)) (g abort : Nat) : State :=
  let s1 := places.foldl (fun s (k, i, c) => s.onKey k fun s => s.cmdDone i c) s
  match places.foldl (fun (m : Option (Nat × Nat × EngCmd)) x => match m with
      | none => some x
      | some y => if x.1 < y.1 then some x else some y) none with
  | none => s1
  | some (k, _, c) => s1.onKey k fun s => s.cmdFault c (13, BitVec.ofNat 64 g, BitVec.ofNat 64 abort)

/-- The collective that command i of the context takes part in runs once every rank has brought its part. -/
def State.collRun (s : State) (i : Nat) (c : EngCmd) (peers : List PeerRank) : State :=
  let g := blk c.blk 0 32 32
  match s.group? g, s.cur.grid with
  | some e, some grid =>
    match s.rankList e with
    | .error f => (s.dropCmd i).cmdFault c f
    | .ok ranks =>
      if !ranks.contains (s.cur.gid, 0) then (s.dropCmd i).cmdFault c (5, BitVec.ofNat 64 s.cur.gid, 8)
      else match s.virgaFault (ranks.any (·.2 != 0)) s.cur.engMaster with
      | some f => (s.dropCmd i).cmdFault c f
      | none =>
        match s.gather grid g peers 0 ranks with
        | none => s
        | some rs =>
          if rs.all (fun r => collAgree c.blk r.block) then
            match s.readSends ranks.length 0 rs with
            | .error (k, j, d, f) => s.onKey k fun s => (s.dropCmd j).cmdFault d f
            | .ok rs => rs.zipIdx.foldl (fun s (r, q) => s.collDeliver rs q r) s
          else s.collFail (rs.filterMap (·.place)) g 0
  | _, _ => s

def execCollectiveComplete (key i : Nat) (peers : List PeerRank) (s : State) : Out :=
  s.withCmd key i (fun k => k == .coll) fun s c => s.collRun i c peers

/-- The switch aborts a collective of an elastic grid (26 R376). -/
def State.collAbort (s : State) (c : EngCmd) : State :=
  let g := blk c.blk 0 32 32
  match s.group? g, s.cur.grid with
  | some e, some grid =>
    if s.cur.elastic && e.1.getLsbD 13 then
      match s.rankList e with
      | .error _ => s
      | .ok ranks => s.collFail (ranks.filterMap fun r => if r.2 = 0 then s.collAt grid r.1 g else none) g 1
    else s
  | _, _ => s

def execCollectiveAbort (key i : Nat) (s : State) : Out :=
  s.withCmd key i (fun k => k == .coll) fun s c => s.collAbort c

/-! ### Payloads (14 R289 to R291, 06 R142) -/

/-- Key of a landing slot of a context. -/
def slotKey (key : Nat) (slot : Fin 64) : Nat := 64 * key + slot.val

/-- The primary context at a placement rank of the grid; none for a member on another package. -/
def Grid.rankKey (g : Grid) (member q : Nat) : Option Nat :=
  match g.members[member]? with
  | none => none
  | some m =>
    match m.clusters[q / 16]? with
    | none => none
    | some cl => some (2 * (16 * cl + q % 16))

/-- Cohort members, and cores of one member (02 R23). -/
def Grid.memberCount (g : Grid) : Nat := g.kcb.dies * g.kcb.pkgs

def Grid.coreCount (g : Grid) : Nat := 16 * g.kcb.clus

/-- The receiver that a block names: none for a rank that does not exist, and its key where it is of this package. -/
def Grid.receiver (g : Grid) (b : List Word64) : Option (Option Nat) :=
  let q := blk b 0 0 8
  let m := blk b 0 8 8
  if m ≥ g.memberCount ∨ q ≥ g.coreCount then none else some (g.rankKey m q)

/-- Member and core rank of a core of the grid (02 R23). -/
def Grid.rank (g : Grid) (gid : Nat) : Option (Nat × Nat) :=
  let c := g.members.findIdx fun m => m.die == gid / 256
  match g.members[c]? with
  | none => none
  | some m =>
    let i := m.clusters.findIdx (· == gid / 16)
    if i < m.clusters.length then some (c, 16 * i + gid % 16) else none

/-- Rank, member and slot of a block. -/
def blkDest (b : List Word64) : Nat × Nat × Fin 64 := (blk b 0 0 8, blk b 0 8 8, Fin.ofNat 64 (blk b 0 16 6))

/-- Payloads of the context to the slot of a block that have been sent and not yet read (14 R290). -/
def State.unread (s : State) (b : List Word64) : Nat :=
  let (q, m, slot) := blkDest b
  (s.cur.lsPend.filter fun p => match p.op with
      | .payload x => blkDest x == blkDest b
      | _ => false).length
    + (match s.grid?.bind (·.receiver b) with
      | some (some dst) =>
        (s.fabric.filter fun p => some p.grid == s.cur.grid && p.src == s.focus && p.dst == dst && p.slot == slot).length
          + (if ((s.ctx dst).slots.get slot).1 = .full then 1 else 0)
      | some none => ((s.grid?.map Grid.far).getD []).count (s.focus, m, q, slot)
      | none => 0)

/-- The block has been read: its checks, then the payload read and the token (DEDUCED, assumption log 31). -/
def State.sendBlock (s : State) (c : EngCmd) (b : List Word64) : Except Flt State :=
  let src := BitVec.ofNat 64 (blk b 1 0 20)
  match s.grid?.bind (·.receiver b) with
  | none => .error (5, BitVec.ofNat 64 (blk b 0 0 16), 7)
  | some _ =>
    match (lsFault s.cur.foot src 256 64 0).or (s.virgaFault ((s.grid?.bind (·.receiver b)) == some none) s.cur.master) with
    | some f => .error f
    | none =>
      let p (due : Nat) (op : LsOp) : LsPend := ⟨due, op, c.addr, c.pos, s.cur.sp.scnt.toNat⟩
      .ok (s.mapCur fun x => { x with lsPend := x.lsPend ++ [p 1 (.payload b), p 2 (.tokenDone c.strand c.prod)] })

/-- A fifth unread payload to one slot waits (14 R290). -/
def State.sendReady (s : State) (b : List Word64) : Bool :=
  decide (s.unread b < 4)

/-- XSEND: illegal in an elastic grid; it waits for its tokens, then reads its block. -/
def execXsend (o : EngOp) (s : State) : Out :=
  s.when o.g
    (if s.cur.elastic ∨ s.isKiosk then s.illegal
     else match s.cur.tokFault o.prod o.cons with
      | some f => s.fail f
      | none =>
        let a := s.rs o.cblk
        let s1 := (s.ebp [o.cblk]).mapCur (·.setProd o.prod .pending)
        let c : EngCmd :=
          ⟨.xsend, s.cur.strand, [], a.toNat, o.prod, o.cons, none, s.issue.addr, s.issue.pos, CopyProg.start 0⟩
        if s.cur.toksDone o.cons then
          match s.readBlock a 4 with
          | .error f => s.fail f
          | .ok b =>
            let s2 := s1.lsReq reqL s.focus a.toNat 32 false
            if s.sendReady b then
              match s2.sendBlock c b with
              | .error f => s.fail f
              | .ok s3 => .next s3
            else .next (s2.hold (.xsend { c with blk := b }))
        else .next (s1.hold (.xsend c)))

/-! ### Virga ports (26 R372 to R374, 14 R292) -/

def State.port (s : State) (p : Nat) : Port := (s.ports.get? p).getD Port.reset

def State.updPort (s : State) (p : Nat) (f : Port → Port) : State := { s with ports := s.ports.set p (f (s.port p)) }

/-- Entry `n` of a slot table; every sixteenth slot is slack. -/
def Port.entry (p : Port) (n : Nat) : Word32 := (p.slots.get? n).getD (if n % 16 = 15 then 2 else 0)

/-- Entry `n` schedules a pair of sender rank and member. -/
def Port.serves (p : Port) (n q m : Nat) : Bool :=
  let e := p.entry n
  e.getLsbD 0 && e.extractLsb' 8 8 == BitVec.ofNat 8 q && e.extractLsb' 16 8 == BitVec.ofNat 8 m

/-- A pair has a scheduled slot. -/
def Port.hasPair (p : Port) (q m : Nat) : Bool := p.slots.any fun e => p.serves e.1 q m

/-- Payloads of a pair stand at the port. -/
def Port.holdsPair (p : Port) (q m : Nat) : Bool :=
  (p.wait ++ p.again ++ p.last.toList).any fun f => f.q == q && f.member == m

/-- The port of a die that carries a pair: the one at which payloads of the pair stand, else the lowest with a slot for it, else the lowest
that works (DEDUCED, assumption log 44). -/
def State.portFor (s : State) (die q m : Nat) : Nat :=
  let all := (List.range 12).map (· + 12 * die)
  let ps := all.filter fun p => !(s.port p).failed
  (((all.find? fun p => (s.port p).holdsPair q m).or (ps.find? fun p => (s.port p).hasPair q m)).or ps.head?).getD (12 * die)

/-- A payload may go: no flit of its pair awaits retransmission, so the pair keeps its order. -/
def Port.inOrder (p : Port) (f : Flit) : Bool := p.again.all fun x => !(x.q == f.q && x.member == f.member)

/-- Past a scheduled slot of its pair, or with no slot at all. -/
def Port.isLate (p : Port) (f : Flit) : Bool := f.late || !p.hasPair f.q f.member

/-- The port sends the payload at place `i` of those that wait. -/
def Port.take (p : Port) (i : Nat) : Port := { p with wait := p.wait.eraseIdx i, last := p.wait[i]? }

/-- A scheduled slot passes: what still waits of its pair is late (26 R373). -/
def Port.passed (p : Port) (n : Nat) : Port :=
  { p with wait := p.wait.map fun f => if p.serves n f.q f.member then { f with late := true } else f }

/-- What the next slot carries: a scheduled slot the oldest payload of its pair, a slack slot a retransmission, else the oldest
late payload; a port that trains or has failed carries none. -/
def Port.carry (p : Port) : Port :=
  let n := p.next
  let p := { p with next := (n + 1) % 4096, last := none }
  if p.failed || p.training then (if n % 16 = 15 then p else p.passed n)
  else if n % 16 = 15 then
    match p.again with
    | f :: l => { p with again := l, last := some f }
    | [] => match p.wait.findIdx? (p.isLate ·) with
      | some i => p.take i
      | none => p
  else
    let hit (f : Flit) : Bool := p.serves n f.q f.member && p.inOrder f
    (match p.wait.findIdx? hit with
      | some i => p.take i
      | none => p).passed n

/-- The next flit slot of a port passes. -/
def State.slotPass (s : State) (port : Nat) : State := s.updPort port Port.carry

/-- Number that stands for a sender on another package. -/
def farKey (member q : Nat) : Nat := 4096 + 256 * member + q

/-- A payload from another package comes through a port; while the port trains, nothing comes. -/
def State.incoming (s : State) (port gid member q dst : Nat) (slot : Fin 64) (v : Vec) : State :=
  match s.grids.get? gid with
  | none => s
  | some g =>
    let far := decide (g.members.length ≤ member) && decide (member < g.memberCount)
    let here := g.keys.contains dst || (g.saved.get? dst).isSome
    if far && here && g.fault.isNone && !(s.port port).training && !(s.port port).failed then
      { s with fabric := s.fabric ++ [⟨gid, farKey member q, dst, slot, v⟩] }
    else s

/-- A receiver on another package has read a payload. -/
def State.farRead (s : State) (gid src member q : Nat) (slot : Fin 64) : State :=
  s.updGrid gid fun g => { g with far := g.far.erase (src, member, q, slot) }

/-- The payload has been read: it enters the fabric of the package, or waits at a port of its die; that of a grid that has ended
is discarded. -/
def State.send (s : State) (b : List Word64) : State :=
  let v := vecOfBytes (s.lsRead (blk b 1 0 20) 256)
  let (q, m, slot) := blkDest b
  match s.cur.grid, s.grid? with
  | some gid, some g =>
    if g.fault.isSome then s
    else match g.receiver b with
      | some (some dst) => { s with fabric := s.fabric ++ [⟨gid, s.focus, dst, slot, v⟩] }
      | some none =>
        let me := ((g.rank s.cur.gid).map Prod.snd).getD 0
        (s.updPort (s.portFor s.cur.die me m) fun p => { p with wait := p.wait ++ [⟨gid, s.focus, me, m, q, slot, v, false, 0⟩] }).updGrid
          gid fun g => { g with far := g.far ++ [(s.focus, m, q, slot)] }
      | none => s
  | _, _ => s

/-! ### Landing (14 R290, 06 R142) -/

/-- A slot takes a payload. -/
def Ctx.fillSlot (c : Ctx) (slot : Fin 64) (v : Vec) : Ctx := { c with slots := c.slots.set slot (.full, v) }

/-- A fault at a context of a grid, resident or saved. -/
def State.faultAt (s : State) (gid : Nat) (a : LsAt) (f : FaultWords) : State :=
  match a.saved, s.grids.get? gid with
  | none, _ => s.onKey a.key fun s => s.takeFault f
  | some _, some g => s.endGrid gid (faultRecord (s.lsCtx a) g f)
  | some _, none => s

/-- Payload i reaches its slot, unless the slot is Full or an earlier payload of the pair waits; that of a pre-empted grid reaches
its saved slot (02 R42). A second sender to a slot is a protection fault at the receiver. -/
def State.landPayload (s : State) (i : Nat) : State :=
  match s.fabric[i]? with
  | none => s
  | some p =>
    let s1 := { s with fabric := s.fabric.eraseIdx i }
    let first := (s.fabric.take i).all fun x => !(x.grid == p.grid && x.src == p.src && x.dst == p.dst && x.slot == p.slot)
    let k := slotKey p.dst p.slot
    let a := s.holder p.grid p.dst
    match s.grids.get? p.grid with
    | none => s1
    | some g =>
      if (g.senders.get? k).any (· != p.src) then s1.faultAt p.grid a ⟨5, 0, 0, BitVec.ofNat 64 p.slot.val, 7⟩
      else if first ∧ ((s.lsCtx a).slots.get p.slot).1 ≠ .full then
        (s1.updGrid p.grid fun g => { g with senders := g.senders.set k p.src }).updAt a (·.fillSlot p.slot p.data)
      else s

/-- A payload whose landing changes something: its slot is free, or it comes from a second sender. -/
def State.mayLand (s : State) (p : Payload) : Bool :=
  ((s.lsCtx (s.holder p.grid p.dst)).slots.get p.slot).1 != .full || (match s.grids.get? p.grid with
    | some g => (g.senders.get? (slotKey p.dst p.slot)).any (· != p.src)
    | none => true)

def execPayloadLand (i : Nat) (s : State) : Out := .next (s.landPayload i)

/-- XRECV: illegal in an elastic grid; an Empty or Read slot freezes until a payload lands. Its data is interlocked until the
second tick after this one (DEDUCED, assumption log 31). -/
def execXrecv (g : Guard) (d : VReg) (b : Fin 64) (off : BitVec 16) (s : State) : Out :=
  s.when g
    (if s.cur.elastic ∨ s.isKiosk then s.illegal
     else
      let n := s.rs (.s b) + off.signExtend 64
      if n.toNat > 63 then s.fault 5 n 7
      else
        let slot : Fin 64 := Fin.ofNat 64 n.toNat
        if (s.cur.slots.get slot).1 = .full then
          let v := (s.cur.slots.get slot).2
          let s1 := s.mapCur fun c => { c with slots := c.slots.set slot (.read, v) }
          .next (s1.out (.land (s.vDst d) v 2))
        else .next (s.hold (.xrecv (s.vDst d) slot)))

/-! ### Witness spills (12 R262) -/

/-- The image of a witness: header, 56 zero bytes, entries. -/
def Wit.image (w : Wit) : List Byte := bytesOf 8 w.header ++ List.replicate 56 0#8 ++ w.bytes

def execWsave (g : Guard) (k : Fin 8) (addr : Addr) (s : State) : Out :=
  s.when g
    (let a := s.lsAddr addr
     match lsFault s.cur.foot a 1088 64 1 with
     | some f => s.fail f
     | none =>
       let img := (s.cur.regs.w.get k).image
       .next ((((s.lsReq reqL s.focus a.toNat 1024 true).lsWrite a.toNat (img.take 1024)).later 1
         (.witSaveTail (a.toNat + 1024) (img.drop 1024))).busy 1))

/-- Why an image is refused: 5 malformed header, its reserved bits included, 4 another context (12 R262, against
00 R7; DEDUCED, assumption log 46). -/
def imageReason (h : Word64) (ctx : BitVec 8) : Option Nat :=
  let n := h.toNat
  if bits n 6 2 ≠ 0 ∨ bits n 40 24 ≠ 0 ∨ (h.getLsbD 15 ∧ !witShape (bits n 0 4) (bits n 4 2) (bits n 8 7)) then some 5
  else if h.getLsbD 15 ∧ bits n 32 8 ≠ ctx.toNat then some 4
  else none

/-- The witness of an image. -/
def witOfImage (bs : List Byte) : Wit :=
  let h := leNat (bs.take 8)
  let e := (bs.drop 64).toArray
  if h.testBit 15 then
    ⟨Vector.ofFn fun i => Vector.ofFn fun j => e.getD (64 * i.val + j.val) 0, BitVec.ofNat 4 h, BitVec.ofNat 2 (bits h 4 2),
      BitVec.ofNat 7 (bits h 8 7), BitVec.ofNat 8 (bits h 32 8), true, BitVec.ofNat 16 (bits h 16 16)⟩
  else Wit.empty (BitVec.ofNat 16 (bits h 16 16))

def execWload (g : Guard) (k : Fin 8) (addr : Addr) (s : State) : Out :=
  s.when g
    (let a := s.lsAddr addr
     match lsFault s.cur.foot a 1088 64 0 with
     | some f => s.fail f
     | none =>
       let head := s.lsRead a.toNat 1024
       let h := BitVec.ofNat 64 (leNat (head.take 8))
       match imageReason h s.cur.ctxId with
       | some r => s.fault 8 (staleWord k true r) h
       | none =>
         .next (((s.lsReq reqL s.focus a.toNat 1024 false).later 1 (.witTail k (a.toNat + 1024) head)).busy 1))

end Sys2Proof.Machine
end

