-- ==== Sys2Proof/Machine/Sef.lean ====
section
/-! DEFINITION. The SEF format: its storage and pair forms, arithmetic and conversions, and the SEF instructions (05 R116 to
R120, 09 R208). -/
namespace Sys2Proof.Machine

/-- A SEF value: a finite one is m × 2^(e − 23) with 2^23 ≤ m < 2^24. -/
inductive Sef where
  | nan
  | inf (neg : Bool)
  | zero (neg : Bool)
  | fin (neg : Bool) (m : Nat) (e : Int)
  deriving DecidableEq, Repr

/-- The least and greatest exponent of a form. -/
structure SefForm where
  lo : Int
  hi : Int

def SefForm.pair : SefForm := ⟨-(2 ^ 31) + 1, 2 ^ 31 - 2⟩

def SefForm.storage : SefForm := ⟨-(2 ^ 23) + 1, 2 ^ 23 - 2⟩

/-- A finite value whose exponent leaves its form's range (05 R117 R118). -/
def SefForm.fit (f : SefForm) (neg : Bool) (m : Nat) (e : Int) (ev : Ev) : Sef × Ev :=
  if e < f.lo then (.zero neg, Ev.sefu ||| Ev.nx)
  else if e > f.hi then (.inf neg, Ev.of ||| Ev.nx)
  else (.fin neg m e, ev)

/-- The non-zero exact value ±m × 2^e rounded RNE to 24 bits. -/
def SefForm.round (f : SefForm) (neg : Bool) (m : Nat) (e : Int) : Sef × Ev :=
  let l := bitLen m
  if l ≤ 24 then f.fit neg (m <<< (24 - l)) (e + l - 1) 0
  else
    let (k, inexact, away) := roundAt Rnd.rne neg m (l - 24) false
    let r := k + (if away then 1 else 0)
    let ev := if inexact then Ev.nx else 0
    if r = 2 ^ 24 then f.fit neg (2 ^ 23) (e + l) ev else f.fit neg r (e + l - 1) ev

def SefForm.mul (f : SefForm) (a b : Sef) : Sef × Ev :=
  match a, b with
  | .nan, _ => (.nan, 0)
  | _, .nan => (.nan, 0)
  | .inf n, .inf k => (.inf (n != k), 0)
  | .inf _, .zero _ | .zero _, .inf _ => (.nan, Ev.nv)
  | .inf n, .fin k _ _ | .fin k _ _, .inf n => (.inf (n != k), 0)
  | .zero n, .zero k => (.zero (n != k), 0)
  | .zero n, .fin k _ _ | .fin k _ _, .zero n => (.zero (n != k), 0)
  | .fin n m e, .fin k x y => f.round (n != k) (m * x) (e + y - 46)

/-- The exact sum; an operand more than 64 binary places below the other only decides which side the sum lies on. -/
def SefForm.addFin (f : SefForm) (n : Bool) (m : Nat) (e : Int) (k : Bool) (x : Nat) (y : Int) : Sef × Ev :=
  let d := (e - y).toNat
  let big := m <<< 64
  let small := if d ≤ 64 then x <<< (64 - d) else 1
  if n = k then f.round n (big + small) (e - 87)
  else if big = small then (.zero false, 0)
  else if big > small then f.round n (big - small) (e - 87)
  else f.round k (small - big) (e - 87)

def SefForm.add (f : SefForm) (a b : Sef) : Sef × Ev :=
  match a, b with
  | .nan, _ => (.nan, 0)
  | _, .nan => (.nan, 0)
  | .inf n, .inf k => if n = k then (.inf n, 0) else (.nan, Ev.nv)
  | .inf n, _ => (.inf n, 0)
  | _, .inf n => (.inf n, 0)
  | .zero _, .zero _ => (.zero false, 0)
  | .zero _, .fin n m e | .fin n m e, .zero _ => (.fin n m e, 0)
  | .fin n m e, .fin k x y => if e ≥ y then f.addFin n m e k x y else f.addFin k x y n m e

/-- −∞, negative, −0, +0, positive, +∞. -/
def Sef.rank : Sef → Nat
  | .inf n => if n then 0 else 5
  | .fin n _ _ => if n then 1 else 4
  | .zero n => if n then 2 else 3
  | .nan => 6

/-- Strictly below, −0 below +0; neither is a NaN (05 R103). -/
def Sef.below (a b : Sef) : Bool :=
  decide (a.rank < b.rank) || (a.rank == b.rank && (match a, b with
    | .fin false m e, .fin _ x y => decide (e < y) || (e == y && decide (m < x))
    | .fin true m e, .fin _ x y => decide (e > y) || (e == y && decide (m > x))
    | _, _ => false))

def Sef.larger (a b : Sef) : Sef :=
  match a, b with
  | .nan, _ => .nan
  | _, .nan => .nan
  | a, b => if a.below b then b else a

/-! ### Forms (05 R116 R117) -/

/-- A pair lane: even register in [31:0], odd in [63:32]. -/
def Sef.ofPair (w : Word64) : Sef :=
  let f := w.toNat % 2 ^ 23
  let neg := w.getLsbD 31
  let e := (w.extractLsb' 32 32).toInt
  if e = -(2 ^ 31) then .zero neg
  else if e = 2 ^ 31 - 1 then (if f = 0 then .inf neg else .nan)
  else .fin neg (f + 2 ^ 23) e

def pairWord (neg : Bool) (f : Nat) (e : Int) : Word64 :=
  BitVec.ofNat 64 (f + (if neg then 2 ^ 31 else 0) + (e.emod (2 ^ 32)).toNat * 2 ^ 32)

def Sef.toPair : Sef → Word64
  | .nan => pairWord false 0x400000 (2 ^ 31 - 1)
  | .inf n => pairWord n 0 (2 ^ 31 - 1)
  | .zero n => pairWord n 0 (-(2 ^ 31))
  | .fin n m e => pairWord n (m - 2 ^ 23) e

/-- The 48-bit storage form. -/
def Sef.ofStore (w : BitVec 48) : Sef :=
  let f := w.toNat % 2 ^ 23
  let neg := w.getLsbD 23
  let e := (w.extractLsb' 24 24).toInt
  if e = -(2 ^ 23) then .zero neg
  else if e = 2 ^ 23 - 1 then (if f = 0 then .inf neg else .nan)
  else .fin neg (f + 2 ^ 23) e

def storeWord (neg : Bool) (f : Nat) (e : Int) : BitVec 48 :=
  BitVec.ofNat 48 (f + (if neg then 2 ^ 23 else 0) + (e.emod (2 ^ 24)).toNat * 2 ^ 24)

/-- A value in the storage range, stored. -/
def Sef.toStore : Sef → BitVec 48
  | .nan => storeWord false 0x400000 (2 ^ 23 - 1)
  | .inf n => storeWord n 0 (2 ^ 23 - 1)
  | .zero n => storeWord n 0 (-(2 ^ 23))
  | .fin n m e => storeWord n (m - 2 ^ 23) e

/-- The exponent mapped to the storage range (05 R117). -/
def Sef.norm (a : Sef) : Sef × Ev :=
  match a with
  | .fin n m e => SefForm.storage.fit n m e 0
  | x => (x, 0)

/-- From a binary format: exact (05 R120). -/
def Sef.ofFl (a : Fl) : Sef × Ev :=
  match a with
  | .nan s => (.nan, nvIf s)
  | .inf n => (.inf n, 0)
  | .fin n m e => if m = 0 then (.zero n, 0) else SefForm.pair.round n m e

/-- To a binary format: one rounding; exponents beyond ±5000 round as at that bound (05 R120). -/
def Sef.toFl (f : FFmt) (q : Rnd) (a : Sef) : Nat × Ev :=
  match a with
  | .nan => (f.nanBits, 0)
  | .inf n => (f.infBits n, 0)
  | .zero n => (f.sgn n, 0)
  | .fin n m e => f.roundFin q n m (max (-5000) (min 5000 e) - 23)

/-! ### Instructions (09 R208) -/

def State.vSef2 (s : State) (g : Guard) (d ra rb : VReg) (f : Sef → Sef → Sef × Ev) : Out :=
  let a := s.rv64 true ra
  let b := s.rv64 true rb
  .next (s.vLanes g true d 5 [ra, rb] fun i =>
    let r := f (Sef.ofPair (a.get i)) (Sef.ofPair (b.get i))
    (r.1.toPair, r.2))

def execVxmul (g : Guard) (d a b : VReg) (s : State) : Out := s.vSef2 g d a b SefForm.pair.mul

def execVxadd (g : Guard) (d a b : VReg) (s : State) : Out := s.vSef2 g d a b SefForm.pair.add

def execVxmax (g : Guard) (d a b : VReg) (s : State) : Out := s.vSef2 g d a b fun x y => (x.larger y, 0)

def execVxnorm (g : Guard) (d ra : VReg) (s : State) : Out :=
  let a := s.rv64 true ra
  .next (s.vLanes g true d 5 [ra] fun i =>
    let r := (Sef.ofPair (a.get i)).norm
    (r.1.toPair, r.2))

def execVxcvt (g : Guard) (kind : XcvtKind) (rm : Rm) (d ra : VReg) (s : State) : Out :=
  let toSef (f : FFmt) : Out :=
    let a := s.rv ra
    .next (s.vLanes g true d 5 [ra] fun i =>
      let r := Sef.ofFl (f.unpack (a.get i).toNat)
      (r.1.toPair, r.2))
  let fromSef (f : FFmt) : Out :=
    let m := s.rmode rm
    let a := s.rv64 true ra
    .next ((s.drew m).vLanes g false d 5 [ra] fun i => fbits ((Sef.ofPair (a.get i)).toFl f (s.rnd m i.val)))
  match kind with
  | .f32ToSef => toSef .f32
  | .bf16ToSef => toSef .bf16
  | .sefToF32 => fromSef .f32
  | .sefToBf16 => fromSef .bf16

end Sys2Proof.Machine
end

