-- ==== Sys2Proof/Machine/Circuit.lean ====
section
/-! DEFINITION. The circuit engines: binding and the circuit queue, loading and validating an object, passes, and the circuit
instructions and events (11). Slots are numbered 1,024 × bank + slot. -/
namespace Sys2Proof.Machine

/-! ### Store and parameters (11 R236 R238) -/

abbrev CircLanes := Vector (BitVec 48) 64

def CircLanes.zero : CircLanes := Vector.replicate 64 (Sef.zero false).toStore

def Engine.slot (e : Engine) (n : Nat) : CircLanes := (e.store.get? n).getD CircLanes.zero

/-- Weight `n` of a bank; +0 where nothing was written (11 R233). -/
def weight (t : Tab (BitVec 48)) (n : Nat) : Sef :=
  match t.get? n with
  | some w => Sef.ofStore w
  | none => .zero false

/-- The fields of a node operation (11 R232). -/
structure Node where
  op  : Nat
  dst : Nat
  a   : Nat
  b   : Nat
  wa  : Nat
  wb  : Nat
  w   : Bool
  deriving DecidableEq, Repr

def Node.ofWord (x : Word64) : Node :=
  let n := x.toNat
  let slot (bank sl : Nat) : Nat := 1024 * bits n bank 3 + bits n sl 10
  ⟨bits n 0 4, slot 4 7, slot 17 20, slot 30 33, bits n 43 10, bits n 53 10, x.getLsbD 63⟩

/-- Operations that read a, and b. -/
def Node.usesA (x : Node) : Bool := decide (1 ≤ x.op) && decide (x.op ≤ 6)

def Node.usesB (x : Node) : Bool := decide (1 ≤ x.op) && decide (x.op ≤ 4)

def Node.isMinMax (x : Node) : Bool := x.op == 3 || x.op == 4

/-- The larger or smaller of two values, with whether b decided it: a on a tie, the first NaN (11 R236 R237). -/
def Sef.pick (mx : Bool) (a b : Sef) : Sef × Bool :=
  if a = .nan then (.nan, false)
  else if b = .nan then (.nan, true)
  else if (if mx then a.below b else b.below a) then (b, true) else (a, false)

/-- One node operation in one lane: value, events, and whether b decided it (11 R236). -/
def nodeEval (op : Nat) (pa pb a b : Sef) : Sef × Ev × Bool :=
  let f := SefForm.storage
  match op with
  | 1 =>
    let x := f.mul pa a
    let y := f.mul pb b
    let r := f.add x.1 y.1
    (r.1, x.2 ||| y.2 ||| r.2, false)
  | 2 => let r := f.mul a b; (r.1, r.2, false)
  | 3 => let r := Sef.pick true a b; (r.1, 0, r.2)
  | 4 => let r := Sef.pick false a b; (r.1, 0, r.2)
  | 5 => let r := f.mul pa a; (r.1, r.2, false)
  | 6 => (a, 0, false)
  | _ => (pa, 0, false)

/-- The witness of a lane: +1.0 when b decided it (11 R237). -/
def circWitness (b : Bool) : BitVec 48 := (if b then Sef.fin false (2 ^ 23) 0 else Sef.zero false).toStore

/-- What one node operation writes, over the masked lanes, with its events. -/
def Engine.runNode (e : Engine) (wbank : Nat) (mask : Mask) (x : Node) : List (Nat × CircLanes) × Ev :=
  if x.op = 0 then ([], 0)
  else
    let a := e.slot x.a
    let b := e.slot x.b
    let pa := weight e.active x.wa
    let pb := weight e.active (1024 + x.wb)
    let r : Vector (Sef × Ev × Bool) 64 := Vector.ofFn fun i =>
      if mask.getLsbD i.val then nodeEval x.op pa pb (Sef.ofStore (a.get i)) (Sef.ofStore (b.get i)) else (.nan, 0, false)
    let put (n : Nat) (v : Fin 64 → BitVec 48) : Nat × CircLanes :=
      (n, Vector.ofFn fun i => if mask.getLsbD i.val then v i else (e.slot n).get i)
    let wit := 1024 * wbank + x.dst % 1024
    (put x.dst (fun i => (r.get i).1.toStore) :: (if x.w then [put wit fun i => circWitness (r.get i).2.2] else []),
      Ev.union (r.toList.map fun y => y.2.1))

/-- One circuit word: its four operations read the store as it stands, then write. -/
def Engine.runWord (e : Engine) (o : CircObj) (mask : Mask) (ws : List Word64) : Engine × Ev :=
  let rs := ws.map fun x => e.runNode o.wbank mask (Node.ofWord x)
  ({ e with store := (rs.flatMap Prod.fst).foldl (fun t (n, v) => t.set n v) e.store }, Ev.union (rs.map Prod.snd))

/-- The words of an object in order. Validation has shown that a write three ticks late is seen by no word between
(11 R235 R236), so each word sees what the words before it wrote (DEDUCED, assumption log 32). -/
def Engine.runWords (o : CircObj) (mask : Mask) : Nat → List Word64 → Engine → Ev → Engine × Ev
  | 0, _, e, ev => (e, ev)
  | n + 1, ws, e, ev =>
    let (e1, v) := e.runWord o mask (ws.take 4)
    Engine.runWords o mask n (ws.drop 4) e1 (ev ||| v)

/-! ### Reading an image (11 R231 to R235) -/

/-- Where the circuit engine of cluster `cl` reads for a context: an LS, resident or saved, or global memory through the LTT of the
context, whose bytes it counts under a buffer. -/
inductive CircSrc where
  | ls (a : LsAt)
  | glob (key : Nat) (buf : Fin 64)
  deriving DecidableEq, Repr

/-- Number of a 64-byte line of the LS of a context, among the lines that an engine holds. -/
def imageKey (key line : Nat) : Nat := 2 ^ 14 * key + line

/-- What stands for a line of an image that an LS has still to give: no fault, and no place in a record. -/
def lineNeeded (key line : Nat) : Flt := (0, BitVec.ofNat 64 key, BitVec.ofNat 64 line)

/-- `n` bytes of a resident LS as its lines have come to the engine, or the first line that has not (06 R129 R130, 11 R241). -/
def Engine.lsBytes (e : Engine) (key a n : Nat) : Except Flt (List Byte) :=
  match (linesAt a n).find? fun l => (e.lines.get? (imageKey key l)).isNone with
  | some l => .error (lineNeeded key l)
  | none => .ok ((List.range n).map fun i =>
      ((e.lines.get? (imageKey key ((a + i) / 64))).getD []).getD ((a + i) % 64) 0)

/-- One unit of an image, counted where it is read from global memory (06 R145); an LS gives it line by line. -/
def State.circUnit (s : State) (cl : Nat) (src : CircSrc) (a : Word64) (n al : Nat) : State × Except Flt (List Byte) :=
  match src with
  | .glob key buf =>
    let c := s.ctx key
    match lttXlate c.ltt a n al 4 1 with
    | .error f => (s, .error f)
    | .ok p =>
      match s.physFault (0x800 + cl) c.ctxId a p.1 n 0 with
      | some f => (s, .error f)
      | none => (s.countBytes c.ctxId buf n, .ok (s.pread p.1 n))
  | .ls k =>
    let c := s.lsCtx k
    match lsFault c.foot a n al 4 with
    | some f => (s, .error f)
    | none => (s, if k.saved.isSome then .ok (c.ls.readN a.toNat n) else (s.engine cl).lsBytes k.key a.toNat n)

/-- `n` units one after another. -/
def State.circPart (s : State) (cl : Nat) (src : CircSrc) (a : Word64) (unit : Nat) : Nat → State × Except Flt (List Byte)
  | 0 => (s, .ok [])
  | n + 1 =>
    match s.circUnit cl src a unit unit with
    | (s1, .error f) => (s1, .error f)
    | (s1, .ok bs) =>
      match s1.circPart cl src (a + BitVec.ofNat 64 unit) unit n with
      | (s2, .error f) => (s2, .error f)
      | (s2, .ok r) => (s2, .ok (bs ++ r))

/-- A circuit load error: reason, word, operation, operand and slot (11 R235). -/
def refusal (reason : Nat) (word opn opd slot : Nat := 0) : Flt :=
  (10, BitVec.ofNat 64 (reason + 2 ^ 16 * word + 2 ^ 36 * opn + 2 ^ 38 * opd),
    BitVec.ofNat 64 (slot / 1024 + 8 * (slot % 1024)))

/-- The header of an image (11 R231). -/
structure CircHeader where
  ver : Nat
  paged : Bool
  wen : Bool
  wbank : Nat
  nw : Nat
  nl : Nat
  no : Nat
  np : Nat
  offW : Nat
  offS : Nat
  offL : Nat
  offO : Nat
  offP : Nat
  offT : Nat
  nt : Nat

def CircHeader.ofWords (h : List Word64) : CircHeader where
  ver := blk h 0 0 16
  paged := (blkWord h 0).getLsbD 16
  wen := (blkWord h 0).getLsbD 17
  wbank := blk h 0 18 3
  nw := blk h 0 32 32
  nl := blk h 1 0 14
  no := blk h 1 16 14
  np := blk h 1 32 12
  offW := blk h 2 0 32
  offS := blk h 2 32 32
  offL := blk h 3 0 32
  offO := blk h 3 32 32
  offP := blk h 4 0 32
  offT := blk h 4 32 32
  nt := blk h 5 0 32

/-- A part that is read begins past the header and is aligned. -/
def partOk (off al : Nat) : Bool := decide (64 ≤ off) && off % al == 0

/-- The limits of 11 R231. -/
def CircHeader.ok (h : CircHeader) : Bool :=
  h.ver == 1 && decide (1 ≤ h.nl) && decide (h.nl ≤ 8192) && decide (1 ≤ h.no) && decide (h.no ≤ 8192)
    && decide (h.np ≤ 2048)
    && (if h.paged then
          decide (16385 ≤ h.nw) && decide (h.nw ≤ 2 ^ 20) && h.offW == 0 && partOk h.offT 16
            && h.nt == (h.nw + 2047) / 2048
        else decide (1 ≤ h.nw) && decide (h.nw ≤ 16384) && partOk h.offW 32 && h.offT == 0 && h.nt == 0)
    && partOk h.offS 8 && partOk h.offL 2 && partOk h.offO 2 && h.offP % 8 == 0 && (h.np == 0 || partOk h.offP 8)

/-- The parameter bank of a block; none where an entry has V = 0 (11 R233). -/
def paramBank (es : List Word64) : Option (Tab (BitVec 48)) :=
  es.foldl (fun t x => t.bind fun t =>
    if x.getLsbD 63 then some (t.set (bits x.toNat 48 11) (x.extractLsb' 0 48)) else none) (some [])

/-- Entries of a leaf or output map as slot numbers (11 R233). -/
def mapSlots (bs : List Byte) (n : Nat) : List Nat :=
  let a := bs.toArray
  (List.range n).map fun i =>
    let x := (a.getD (2 * i) 0).toNat + 256 * (a.getD (2 * i + 1) 0).toNat
    1024 * (x % 8) + x / 8 % 1024

/-- The slot map. -/
def slotUsed (m : Array Byte) (n : Nat) : Bool := (m.getD (n / 8) 0).getLsbD (n % 8)

/-! ### Validation (11 R235) -/

def checkLeaves (used : Nat → Bool) : List Nat → List Nat → Option Flt
  | _, [] => none
  | seen, n :: l =>
    if seen.contains n then some (refusal 1 0 0 0 n)
    else if !used n then some (refusal 7 0 0 0 n)
    else checkLeaves used (n :: seen) l

/-- What validation carries: the latest writer of each slot, and the bank uses of the word under check. -/
structure Validation where
  writer : Tab Nat
  fresh  : List Nat
  reads  : List Nat
  writes : List Nat

/-- One slot of an operation: 0 destination, 1 a, 2 b, 3 witness. -/
def checkSlot (used leaf : Nat → Bool) (w opn : Nat) (v : Validation) (opd n : Nat) : Except Flt Validation :=
  let bank := n / 1024
  let bad (reason : Nat) : Except Flt Validation := .error (refusal reason w opn opd n)
  if opd = 0 ∨ opd = 3 then
    if v.writes.contains bank then bad 4
    else if !used n then bad 7
    else if leaf n then bad 8
    else .ok { v with writes := bank :: v.writes, fresh := n :: v.fresh }
  else
    let last := v.writer.get? n
    if (v.reads.filter (· == bank)).length ≥ 2 then bad 3
    else if (match last with | some x => decide (w ≤ x + 2) | none => false) then bad 5
    else if last.isNone && !leaf n then bad 6
    else if !used n then bad 7
    else .ok { v with reads := bank :: v.reads }

/-- One operation: itself first, then its slots. -/
def checkNode (h : CircHeader) (used leaf : Nat → Bool) (w opn : Nat) (v : Validation) (x : Node) : Except Flt Validation :=
  if x.op > 7 then .error (refusal 2 w opn)
  else if x.w && !(x.isMinMax && h.wen) then .error (refusal 9 w opn)
  else if x.op = 0 then .ok v
  else
    let slots := [(0, x.dst)] ++ (if x.usesA then [(1, x.a)] else []) ++ (if x.usesB then [(2, x.b)] else [])
      ++ (if x.w then [(3, 1024 * h.wbank + x.dst % 1024)] else [])
    slots.foldl (fun r (opd, n) => match r with
      | .error f => .error f
      | .ok v => checkSlot used leaf w opn v opd n) (.ok v)

/-- The words from word `w` on. -/
def checkWords (h : CircHeader) (used leaf : Nat → Bool) : Nat → Nat → List Word64 → Validation → Except Flt Validation
  | 0, _, _, v => .ok v
  | n + 1, w, ws, v =>
    let r := (ws.take 4).zipIdx.foldl (fun r (x, i) => match r with
      | .error f => .error f
      | .ok v => checkNode h used leaf w i v (Node.ofWord x)) (Except.ok (ε := Flt) { v with fresh := [], reads := [], writes := [] })
    match r with
    | .error f => .error f
    | .ok v => checkWords h used leaf n (w + 1) (ws.drop 4) { v with writer := v.fresh.foldl (fun t k => t.set k w) v.writer }

def checkOuts (used leaf : Nat → Bool) (v : Validation) : List Nat → Option Flt
  | [] => none
  | n :: l =>
    if (v.writer.get? n).isNone && !leaf n then some (refusal 6 0 0 0 n)
    else if !used n then some (refusal 7 0 0 0 n)
    else checkOuts used leaf v l

/-! ### Pages (11 R234 R241) -/

/-- Words of page p of an object of nw words. -/
def pageWords (nw p : Nat) : Nat := min 2048 (nw - 2048 * p)

/-- Where a page is, for the context `key` that loads the object. -/
def State.pageSrc (s : State) (key : Nat) (e : Word64 × Word64) : Except Flt CircSrc :=
  if e.2.toNat % 64 ≠ 0 then .error (7, e.2, 4)
  else if e.1.getLsbD 0 then .ok (.glob key (Fin.ofNat 64 (bits e.1.toNat 16 6)))
  else
    let core : Fin 16 := Fin.ofNat 16 (bits e.1.toNat 8 4)
    match (s.focusOn key).peerAt core with
    | none => .error (5, BitVec.ofNat 64 core.val, 11)
    | some k => .ok (.ls k)

/-- The bytes of a page as its table entry places it. -/
def State.pageRead (s : State) (cl key : Nat) (e : Word64 × Word64) (words : Nat) : State × Except Flt (List Byte) :=
  match s.pageSrc key e with
  | .error f => (s, .error f)
  | .ok src => s.circPart cl src e.2 32 words

def State.pagesRead (s : State) (cl key nw : Nat) : Nat → List (Word64 × Word64) → State × Except Flt (List (List Byte))
  | _, [] => (s, .ok [])
  | p, e :: l =>
    match s.pageRead cl key e (pageWords nw p) with
    | (s1, .error f) => (s1, .error f)
    | (s1, .ok bs) =>
      match s1.pagesRead cl key nw (p + 1) l with
      | (s2, .error f) => (s2, .error f)
      | (s2, .ok r) => (s2, .ok (bs :: r))

def wordPairs : List Word64 → List (Word64 × Word64)
  | a :: b :: l => (a, b) :: wordPairs l
  | _ => []

/-! ### Loading (11 R235 R242) -/

/-- A validated image: the object and its parameter bank. -/
structure Loaded where
  obj  : CircObj
  bank : Tab (BitVec 48)

/-- The circuit words of an image: in one part, or page by page with each page's CRC. -/
def State.loadWords (s : State) (cl key : Nat) (src : CircSrc) (base : Word64) (h : CircHeader) :
    State × Except Flt (List Word64 × List (Word64 × Word64) × List Word64) :=
  let at_ (off : Nat) : Word64 := base + BitVec.ofNat 64 off
  if h.paged then
    match s.circPart cl src (at_ h.offT) 16 h.nt with
    | (s1, .error f) => (s1, .error f)
    | (s1, .ok t) =>
      let pages := wordPairs (wordsOfBytes (2 * h.nt) t)
      match s1.pagesRead cl key h.nw 0 pages with
      | (s2, .error f) => (s2, .error f)
      | (s2, .ok bs) => (s2, .ok (wordsOfBytes (4 * h.nw) bs.flatten, pages, bs.map crc64))
  else
    match s.circPart cl src (at_ h.offW) 32 h.nw with
    | (s1, .error f) => (s1, .error f)
    | (s1, .ok bs) => (s1, .ok (wordsOfBytes (4 * h.nw) bs, [], []))

/-- The output map and its check, after everything before it has passed. -/
def State.loadOuts (s : State) (cl key : Nat) (src : CircSrc) (base : Word64) (h : CircHeader) (bank : Tab (BitVec 48))
    (leaves : List Nat) (used : Nat → Bool) (ws : List Word64) (pages : List (Word64 × Word64)) (crcs : List Word64)
    (v : Validation) : State × Except Flt Loaded :=
  match s.circPart cl src (base + BitVec.ofNat 64 h.offO) 2 h.no with
  | (s1, .error f) => (s1, .error f)
  | (s1, .ok ob) =>
    let outs := mapSlots ob h.no
    match checkOuts used leaves.contains v outs with
    | some f => (s1, .error f)
    | none => (s1, .ok ⟨⟨h.wbank, h.nw, ws, leaves, outs, pages, crcs, [], List.range (min 8 h.nt), [], key⟩, bank⟩)

/-- The maps and the words, after the header and the parameter block. -/
def State.loadMaps (s : State) (cl key : Nat) (src : CircSrc) (base : Word64) (h : CircHeader) (bank : Tab (BitVec 48)) :
    State × Except Flt Loaded :=
  let at_ (off : Nat) : Word64 := base + BitVec.ofNat 64 off
  match s.circPart cl src (at_ h.offL) 2 h.nl with
  | (s1, .error f) => (s1, .error f)
  | (s1, .ok lb) =>
    match s1.circPart cl src (at_ h.offS) 8 128 with
    | (s2, .error f) => (s2, .error f)
    | (s2, .ok sb) =>
      let leaves := mapSlots lb h.nl
      let used := slotUsed sb.toArray
      match checkLeaves used [] leaves with
      | some f => (s2, .error f)
      | none =>
        match s2.loadWords cl key src base h with
        | (s3, .error f) => (s3, .error f)
        | (s3, .ok (ws, pages, crcs)) =>
          match checkWords h used leaves.contains h.nw 0 ws ⟨[], [], [], []⟩ with
          | .error f => (s3, .error f)
          | .ok v => s3.loadOuts cl key src base h bank leaves used ws pages crcs v

/-- CLOAD's work: each part is read as its check comes, in the order of 11 R235, and counts under its buffer; a refused image counts
what was read of it. -/
def State.circLoad (s : State) (cl key : Nat) (src : CircSrc) (base : Word64) : State × Except Flt Loaded :=
  match s.circUnit cl src base 64 32 with
  | (s1, .error f) => (s1, .error f)
  | (s1, .ok hb) =>
    let h := CircHeader.ofWords (wordsOfBytes 8 hb)
    if !h.ok then (s1, .error (refusal 1))
    else match s1.circPart cl src (base + BitVec.ofNat 64 h.offP) 8 h.np with
      | (s2, .error f) => (s2, .error f)
      | (s2, .ok pb) =>
        match paramBank (wordsOfBytes h.np pb) with
        | none => (s2, .error (refusal 1))
        | some bank => s2.loadMaps cl key src base h bank

/-! ### The circuit queue (11 R228 R229) -/

/-- The entries in use: a command holds its entry until it is done (DESIGN CHOICE, assumption log 67). -/
def Engine.count (e : Engine) : Nat := e.queue.length + e.loading.toList.length + e.pass.toList.length

def CircKind.isRead : CircKind → Bool
  | .read .. => true
  | _ => false

/-- A queue with a command more: those that enter in one tick stand by ascending core, primary before secondary (11 R229). -/
def insertCirc (c : CircCmd) : List CircCmd → List CircCmd
  | [] => [c]
  | x :: l => if x.wait = c.wait ∧ c.key < x.key then c :: x :: l else x :: insertCirc c l

/-- A command enters the queue of the cluster; a 33rd freezes the context, and a read freezes until its value returns. -/
def State.circPush (s : State) (c : CircCmd) : State :=
  if (s.engine s.cur.cluster).count ≥ 32 then s.hold (.circFull c)
  else
    let s1 := s.updEngine s.cur.cluster fun e => { e with queue := insertCirc c e.queue }
    if c.kind.isRead then s1.hold (.circuit none) else s1

/-- A command that has waited for its place enters in the next tick. -/
def CircCmd.late (c : CircCmd) : CircCmd := { c with wait := min 1 c.wait }

/-- A CLOAD may bind the engine: it is free, or its own grid's (11 R228). -/
def State.circFree (s : State) : Bool :=
  let b := (s.engine s.cur.cluster).bound
  b.isNone || b == s.cur.grid

/-- A command of the syllable that issues: it enters two ticks later. -/
def State.circCmd (s : State) (kind : CircKind) (prod : Option (Fin 63)) (cons : List (Fin 63)) : CircCmd :=
  ⟨kind, s.focus, s.cur.strand, 2, prod, cons, s.issue.addr, s.issue.pos⟩

/-- The grid has an object on its cluster's engine, or a CLOAD of its own there (11 R228). -/
def State.circBound (s : State) : Bool := s.cur.grid.isSome && (s.engine s.cur.cluster).bound == s.cur.grid

/-- The engine's access table turns the core's commands away (23 R338 R339). -/
def State.circBarred (s : State) : Option Flt :=
  let t := 0x40 + s.cur.cluster
  if s.admits t s.cur.master 1 (some s.cur.ctxId) then none else some (5, 0, BitVec.ofNat 64 (4 + 256 * t))

/-- A circuit syllable other than CLOAD. -/
def State.circ (s : State) (g : Guard) (k : Out) : Out :=
  s.when g (match s.circBarred with
    | some f => s.fail f
    | none => if s.circBound then k else s.fault 5 0 10)

/-- The engine is bound to the context's grid. -/
def State.circBind (s : State) : State := s.updEngine s.cur.cluster fun e => { e with bound := s.cur.grid }

/-- A 32-byte block of a circuit command, with the token checks before it. -/
def State.circBlock (s : State) (o : EngOp) (k : State → List Word64 → Out) : Out :=
  match s.cur.tokFault o.prod o.cons with
  | some f => s.fail f
  | none =>
    let a := s.rs o.cblk
    match s.readBlock a 4 with
    | .error f => s.fail f
    | .ok b => k (((s.ebp [o.cblk]).lsReq reqL s.focus a.toNat 32 false).mapCur (·.setProd o.prod .pending)) b

def execCload (o : EngOp) (s : State) : Out :=
  s.when o.g
    (match s.circBarred with
     | some f => s.fail f
     | none => if s.cur.grid.isNone then s.fault 5 0 10 else s.circBlock o fun s1 b =>
      let c := s1.circCmd (.cload ((blkWord b 0).getLsbD 0) (Fin.ofNat 64 (blk b 0 8 6)) (blkWord b 1)) o.prod o.cons
      .next (if s1.circFree then s1.circBind.circPush c else s1.hold (.unbound c)))

/-- Where a pass writes its completion word, if it writes one (11 R242). -/
def State.passWord (s : State) (b : List Word64) : Except Flt (Option (Fin 16 × Nat × Word64)) :=
  if (blkWord b 1).getLsbD 24 then
    let core : Fin 16 := Fin.ofNat 16 (blk b 1 20 4)
    if (s.peerAt core).isNone then .error (5, BitVec.ofNat 64 core.val, 11) else .ok (some (core, blk b 1 0 20, blkWord b 2))
  else .ok none

def execCeval (o : EngOp) (s : State) : Out :=
  s.circ o.g (s.circBlock o fun s1 b =>
    match s1.passWord b with
    | .error f => s.fail f
    | .ok cw => .next (s1.circPush (s1.circCmd (.ceval (blkWord b 0) cw) o.prod o.cons)))

def execCpflip (sync : Bool) (o : EngOp) (s : State) : Out :=
  s.circ o.g
    (match s.cur.tokFault o.prod o.cons with
     | some f => s.fail f
     | none => .next ((s.mapCur (·.setProd o.prod .pending)).circPush (s.circCmd (.cpflip sync) o.prod o.cons)))

/-- F32 lanes as SEF, exactly (05 R120). -/
def sefOfF32 (w : Word32) : BitVec 48 := (Sef.ofFl (FFmt.f32.unpack w.toNat)).1.toStore

/-- A mode-1 index S[b] + off16. -/
def State.index1 (s : State) (b : Fin 64) (off : BitVec 16) : Word64 := s.rs (.s b) + off.signExtend 64

/-- The events of CLEAF.SEF are those of its issue tick, in which the value is formed (DEDUCED, assumption log 67). -/
def execCleaf (g : Guard) (src : LeafSrc) (s : State) : Out :=
  s.circ g
    (match src with
     | .f32 vs b off =>
       let v := s.rv vs
       .next ((s.ebp [] [vs]).circPush (s.circCmd (.cleaf (s.index1 b off) (Vector.ofFn fun i => sefOfF32 (v.get i))) none []))
     | .sef vs b off =>
       let v := s.rv64 true vs
       let r : Vector (Sef × Ev) 64 := Vector.ofFn fun i => (Sef.ofPair (v.get i)).norm
       .next (((s.ebp [] [vs]).raise (Ev.union (r.toList.map Prod.snd))).circPush
         (s.circCmd (.cleaf (s.index1 b off) (Vector.ofFn fun i => (r.get i).1.toStore)) none []))
     | .lf32 l addr =>
       s.lsAccess (s.lsAddr addr) 256 64 0 false fun s1 a =>
         let v := vecOfBytes (s.lsRead a 256)
         .next ((s1.ebp [l]).circPush (s.circCmd (.cleaf (s.rs l) (Vector.ofFn fun i => sefOfF32 (v.get i))) none []))
     | .lsef l addr =>
       s.lsAccess (s.lsAddr addr) 384 64 0 false fun s1 a =>
         let bs := (s.lsRead a 384).toArray
         let lane (i : Nat) : BitVec 48 := BitVec.ofNat 48 (leNat ((List.range 6).map fun k => bs.getD (6 * i + k) 0))
         .next ((s1.ebp [l]).circPush (s.circCmd (.cleaf (s.rs l) (Vector.ofFn fun i => lane i.val)) none [])))

/-- COUT and CRDS: one slot into a vector or a pair (11 R244). -/
def State.circRead (s : State) (out f32 : Bool) (d : VReg) (idx : Word64) : Out :=
  .next (s.circPush (s.circCmd (.read out f32 idx (s.vDst d) (if f32 then none else s.vDst (d.plus 1))) none []))

def execCout (g : Guard) (f32 : Bool) (d : VReg) (b : Fin 64) (off : BitVec 16) (s : State) : Out :=
  s.circ g (s.circRead true f32 d (s.index1 b off))

def execCrds (g : Guard) (f32 : Bool) (d : VReg) (b : Fin 64) (off : BitVec 16) (s : State) : Out :=
  s.circ g (s.circRead false f32 d (s.index1 b off))

def execCput (g : Guard) (addr : Addr) (s : State) : Out :=
  s.circ g (s.lsAccess (s.lsAddr addr) 64 64 0 false fun s1 a =>
    .next (s1.circPush (s.circCmd (.cput (wordsOfBytes 8 (s.lsRead a 64))) none [])))

/-! ### Running commands (11 R229 R230 R235 to R245) -/

/-- A circuit command fails: its fault ends the grid. -/
def State.circFault (s : State) (c : CircCmd) (f : Flt) : State :=
  s.onKey c.key fun s => s.takeFault ⟨f.1, posMask c.pos, c.addr, f.2.1, f.2.2⟩

def State.circDone (s : State) (c : CircCmd) : State := s.updCtx c.key fun x => x.tokDone c.strand c.prod

/-- The engine takes up its next command: none runs, it is in the queue, and its tokens are done. -/
def State.circHead (s : State) (cl : Nat) : Option CircCmd :=
  let e := s.engine cl
  if e.loading.isSome ∨ e.pass.isSome then none
  else match e.queue with
    | [] => none
    | c :: _ =>
      let x := s.ctx c.key
      if c.wait = 0 ∧ c.cons.all (fun t => x.tokOf c.strand t == .done) then some c else none

/-- The slot that a read command names, or the index fault. -/
def CircObj.readSlot (o : CircObj) (out : Bool) (idx : Word64) : Except Flt Nat :=
  if out then
    match o.outs[idx.toNat]? with
    | some n => .ok n
    | none => .error (5, idx, 8)
  else if idx.toNat < 8192 then .ok idx.toNat else .error (5, idx, 8)

/-- The value of a read reaches its context, which issues again after one more tick (11 R244). -/
def Ctx.circReturn (c : Ctx) (addr : Word64) (pos : Fin 8) (f32 : Bool) (d d2 : Option (Fin 640)) (v : CircLanes) : Ctx :=
  let c1 : Ctx :=
    if f32 then
      let r : Vector (Nat × Ev) 64 := Vector.ofFn fun i => (Sef.ofStore (v.get i)).toFl FFmt.f32 Rnd.rne
      let c := writeVec d (Vec.ofLanes fun i => BitVec.ofNat 32 (r.get i).1) c
      { c with sp := c.sp.event addr pos (Ev.union (r.toList.map Prod.snd)) }
    else
      let p : Vec64 := Vector.ofFn fun i => (Sef.ofStore (v.get i)).toPair
      writeVec d2 (hiHalf p) (writeVec d (loHalf p) c)
  { c1 with holds := c1.holds.map fun h => if h = .circuit none then .circuit (some 1) else h }

/-- CPUT's entries with V = 1, in order (11 R245). -/
def putEntries (t : Tab (BitVec 48)) (es : List Word64) : Tab (BitVec 48) :=
  es.foldl (fun t x => if x.getLsbD 63 then t.set (bits x.toNat 48 11) (x.extractLsb' 0 48) else t) t

/-- The head of the queue runs: a load or a pass begins, any other command takes this tick. -/
def State.circRun (s : State) (cl : Nat) : State :=
  match s.circHead cl with
  | none => s
  | some c =>
    let s1 := s.updEngine cl fun e => { e with queue := e.queue.tail }
    let e := s1.engine cl
    match c.kind with
    | .cload .. => s1.updEngine cl fun e => { e with loading := some c, obj := none, lines := [] }
    | .ceval .. => s1.updEngine cl fun e => { e with pass := some c, tick := 0 }
    | .cleaf idx v =>
      match e.obj.bind (fun o => o.leaves[idx.toNat]?) with
      | none => s1.circFault c (5, idx, 8)
      | some n => s1.updEngine cl fun e => { e with store := e.store.set n v }
    | .read out f32 idx d d2 =>
      match e.obj with
      | none => s1.circFault c (5, 0, 10)
      | some o =>
        match o.readSlot out idx with
        | .error f => s1.circFault c f
        | .ok n => s1.updCtx c.key fun x => x.circReturn c.addr c.pos f32 d d2 (e.slot n)
    | .cput es => s1.updEngine cl fun e => { e with shadow := putEntries e.shadow es }
    | .cpflip sync =>
      (s1.updEngine cl fun e =>
        { e with active := e.shadow, shadow := if sync then e.shadow else e.active }).circDone c

def execCircuitCommandRun (cl : Nat) (s : State) : Out := .next (s.circRun cl)

/-- An engine whose load, or whose page, has failed holds no object, and runs nothing of what stands in its queue (11 R228 R235). -/
def Engine.drop (e : Engine) : Engine :=
  { e with obj := none, queue := [], loading := none, pass := none, tick := 0, lines := [] }

/-- The load is over: the object is resident, and its first pages stand in word memory (11 R241 R242). -/
def State.loadDone (s : State) (cl : Nat) : State :=
  match (s.engine cl).loading, (s.engine cl).obj with
  | some c, some o => if o.due.isEmpty then (s.updEngine cl fun e => { e with loading := none }).circDone c else s
  | _, _ => s

/-- The validated object takes the place of the earlier one; the first pages of a paged one are still to be fetched. -/
def Engine.install (e : Engine) (l : Loaded) : Engine :=
  { e with obj := some l.obj, store := [], active := l.bank, shadow := l.bank, lines := [] }

/-- The object under load is validated as far as its lines have come: the next line is asked for, the object becomes resident, or the
grid ends with the load error (11 R235). -/
def State.cloadFinish (s : State) (cl : Nat) : State :=
  let e := s.engine cl
  match e.loading, e.obj with
  | some c, none =>
    match c.kind with
    | .cload glob buf src =>
      match s.circLoad cl c.key (if glob then .glob c.key buf else .ls ⟨c.key, none⟩) src with
      | (_, .error (0, k, l)) => s.elAsk .page (0x800 + cl) k.toNat none (64 * l.toNat) 64 (.load cl l.toNat)
      | (s2, .error f) => (s2.updEngine cl Engine.drop).circFault c f
      | (s2, .ok l) => (s2.updEngine cl (·.install l)).loadDone cl
    | _ => s
  | _, _ => s

/-- A line of the image has been asked for. -/
def State.imageComing (s : State) (cl : Nat) : Bool :=
  s.elReqs.any fun e => match e.job with
    | .load c _ => c == cl
    | _ => false

/-- A granted line of the image under load reaches the engine, and the load goes on. -/
def State.imageLine (s : State) (cl line key : Nat) : State :=
  if (s.engine cl).loading.isSome ∧ (s.engine cl).obj.isNone then
    (s.updEngine cl fun e => { e with lines := e.lines.set (imageKey key line) ((s.ctx key).ls.readN (64 * line) 64) }).cloadFinish cl
  else s

def execCloadComplete (cl : Nat) (s : State) : Out := .next (if s.imageComing cl then s else s.cloadFinish cl)

/-- The page that the pass needs in its next tick and that has not arrived (11 R241). -/
def Engine.latePage (e : Engine) : Option Nat :=
  match e.obj, e.pass with
  | some o, some _ =>
    let p := e.tick / 2048
    if o.pages.isEmpty ∨ e.tick ≥ o.nw ∨ o.frames.contains p then none else some p
  | _, _ => none

/-- The pass leaves a page after its last word: the page eight places on is asked for (11 R241). -/
def CircObj.leave (o : CircObj) (t : Nat) : CircObj :=
  if o.pages.isEmpty ∨ t ≥ o.nw ∨ (t % 2048 ≠ 2047 ∧ t + 1 ≠ o.nw) then o
  else
    let p := t / 2048
    { o with frames := o.frames.filter (· != p), due := o.due ++ [(p + 8) % o.pages.length] }

/-- One tick of the running pass (DEDUCED, assumption log 32). -/
def Engine.passTick (e : Engine) : Engine :=
  match e.obj, e.pass with
  | some o, some _ => if e.latePage.isSome then e else { e with obj := some (o.leave e.tick), tick := e.tick + 1 }
  | _, _ => e

/-- The results of the last word have been stored: `s + NW + 2` has passed (11 R240). -/
def Engine.passOver (e : Engine) : Bool :=
  match e.obj, e.pass with
  | some o, some _ => decide (e.tick ≥ o.nw + 3)
  | _, _ => false

/-- The pass completes: its values stand, its events are set, its token is done and its completion word is requested. -/
def State.passFinish (s : State) (cl : Nat) : State :=
  let e := s.engine cl
  match e.obj, e.pass with
  | some o, some c =>
    match c.kind with
    | .ceval mask cw =>
      if e.passOver then
        let (e1, ev) := Engine.runWords o mask o.nw o.words e 0
        let s1 := ((s.updEngine cl fun _ => { e1 with pass := none, tick := 0 }).updCtx c.key fun x =>
          { x with sp := x.sp.event c.addr c.pos ev }).circDone c
        match cw with
        | none => s1
        | some (core, a, v) =>
          match (s1.focusOn c.key).peerAt core with
          | none => s1.circFault c (5, BitVec.ofNat 64 core.val, 11)
          | some k =>
            match lsFault (s1.lsCtx k).foot (BitVec.ofNat 64 a) 8 8 4 with
            | some f => s1.circFault c f
            | none => s1.elWrite .cword (0x800 + cl) none k a (bytesOf 8 v)
      else s
    | _ => s
  | _, _ => s

def execCevalPassComplete (cl : Nat) (s : State) : Out := .next (s.passFinish cl)

/-- The words of page p of an object are replaced by a page as fetched. -/
def CircObj.takePage (o : CircObj) (p : Nat) (bs : List Byte) : CircObj :=
  let n := 4 * pageWords o.nw p
  { o with
    words := o.words.take (8192 * p) ++ wordsOfBytes n bs ++ o.words.drop (8192 * p + n)
    frames := o.frames ++ [p]
    due := o.due.filter (· != p)
    got := o.got.del p }

/-- What the words that a pass has run have written stands, though the pass does not complete (11 R246). -/
def Engine.partPass (e : Engine) : Engine :=
  match e.obj, e.pass with
  | some o, some c => match c.kind with
    | .ceval mask _ => (Engine.runWords o mask (min e.tick o.nw) o.words e 0).1
    | _ => e
  | _, _ => e

/-- A page fetch fails: the load or the pass that needs the page, or the object, ends with the fault. -/
def State.pageFail (s : State) (cl key : Nat) (f : Flt) : State :=
  let e := s.engine cl
  let s1 := s.updEngine cl fun e => e.partPass.drop
  match e.loading.or e.pass with
  | some c => s1.circFault c f
  | none => s1.onKey key fun s => s.takeFault ⟨f.1, 0, 0, f.2.1, f.2.2⟩

/-- The bytes of a page that was asked for have come; it is used only if its CRC is the recorded one (11 R241). -/
def State.pageTake (s : State) (cl p : Nat) (o : CircObj) (bs : List Byte) : State :=
  if o.crcs[p]? = some (crc64 bs) then (s.updEngine cl fun e => { e with obj := some (o.takePage p bs) }).loadDone cl
  else s.pageFail cl o.srcKey (refusal 10)

/-- A request for the next line of a page of an LS (06 R129 R130). -/
def State.pageAsk (s : State) (cl p key : Nat) (o : CircObj) : State :=
  let n := ((o.got.get? p).getD []).length
  let len := min 64 (32 * pageWords o.nw p - n)
  let base := ((o.pages[p]?).map fun e => e.2.toNat).getD 0
  match lsFault (s.ctx key).foot (BitVec.ofNat 64 (base + n)) len 1 4 with
  | some f => s.pageFail cl o.srcKey f
  | none => s.elAsk .page (0x800 + cl) key none (base + n) len (.page cl p (n + len == 32 * pageWords o.nw p))

/-- A granted line of a page is read, and the next asked for. -/
def State.pageLine (s : State) (cl p key a len : Nat) (last : Bool) : State :=
  match (s.engine cl).obj with
  | none => s
  | some o =>
    let bs := ((o.got.get? p).getD []) ++ (s.ctx key).ls.readN a len
    if last then s.pageTake cl p o bs
    else
      let o1 := { o with got := o.got.set p bs }
      (s.updEngine cl fun e => { e with obj := some o1 }).pageAsk cl p key o1

/-- A line of the page is asked for already. -/
def State.pageComing (s : State) (cl p : Nat) : Bool :=
  s.elReqs.any fun e => match e.job with
    | .page c q _ => c == cl && q == p
    | _ => false

/-- A page that was asked for arrives: from global memory, or line by line from an LS. -/
def State.pageArrive (s : State) (cl p : Nat) : State :=
  match (s.engine cl).obj with
  | none => s
  | some o =>
    match o.pages[p]? with
    | none => s
    | some pg =>
      if !o.due.contains p || s.pageComing cl p then s
      else match s.pageSrc o.srcKey pg with
        | .error f => s.pageFail cl o.srcKey f
        | .ok (.ls ⟨k, none⟩) =>
          let o1 := { o with got := o.got.del p }
          (s.updEngine cl fun e => { e with obj := some o1 }).pageAsk cl p k o1
        | .ok src =>
          match s.circPart cl src pg.2 32 (pageWords o.nw p) with
          | (s1, .error f) => s1.pageFail cl o.srcKey f
          | (s1, .ok bs) => s1.pageTake cl p o bs

def execCircuitPageArrive (cl page : Nat) (s : State) : Out := .next (s.pageArrive cl page)

/-- The first part of an engine's tick: the running pass goes on and may complete, and the head of the queue may run. -/
def State.engineStart (s : State) (cl : Nat) : State :=
  let s1 := s.updEngine cl Engine.passTick
  (if (s1.engine cl).passOver then s1.passFinish cl else s1).circRun cl

/-- A pass that begins lacks its first page. -/
def Engine.startsLate (e : Engine) : Bool := e.tick == 0 && e.latePage.isSome

/-- One tick of a cluster's engine: the pass goes on and may complete, and the head of the queue may run in the same tick;
commands on their way come one tick nearer (11 R229 R240). -/
def State.engineTick (s : State) (cl : Nat) : State :=
  let s3 := s.engineStart cl
  let s4 := if (s3.engine cl).tick = 0 then s3.updEngine cl Engine.passTick else s3
  s4.updEngine cl fun e => { e with queue := e.queue.map fun c => { c with wait := c.wait - 1 } }

end Sys2Proof.Machine
end

