-- ==== Sys2Proof/Machine/Ecdsa.lean ====
section
/-! DEFINITION. ECDSA with SHA-384 on brainpoolP384r1: verification of an image, and identity signatures (27 R382 R383). The spec names the curve by RFC 5639;
its constants are those of that RFC (PRESUMED, assumption log 60). -/
namespace Sys2Proof.Machine

/-! ### The curve: y² = x³ + a·x + b modulo p, with a base point of order n -/

def bpP : Nat :=
  0x8CB91E82A3386D280F5D6F7E50E641DF152F7109ED5456B412B1DA197FB71123ACD3A729901D1A71874700133107EC53
def bpA : Nat :=
  0x7BC382C63D8C150C3C72080ACE05AFA0C2BEA28E4FB22787139165EFBA91F90F8AA5814A503AD4EB04A8C7DD22CE2826
def bpB : Nat :=
  0x04A8C7DD22CE28268B39B55416F0447C2FB77DE107DCD2A62E880EA53EEB62D57CB4390295DBC9943AB78696FA504C11
def bpN : Nat :=
  0x8CB91E82A3386D280F5D6F7E50E641DF152F7109ED5456B31F166E6CAC0425A7CF3AB6AF6B7FC3103B883202E9046565

/-- An affine point; none is the point at infinity. -/
abbrev Point := Option (Nat × Nat)

def bpG : Point :=
  some (0x1D1C64F068CF45FFA2A63A81B7C13F6B8847A3E77EF14FE3DB7FCAFE0CBD10E8E826E03436D646AAEF87B2E247D4AF1E,
    0x8ABE1D7520F9C2A45CB1EB8E95CFD55262B70B29FEEC5864E19C054FF99129280E4646217791811142820341263C5315)

/-- `b ^ e` modulo `m`, for an exponent of at most `k` bits. -/
def powMod (m : Nat) : Nat → Nat → Nat → Nat
  | 0, _, _ => 1
  | k + 1, b, e =>
    let r := powMod m k (b * b % m) (e / 2)
    if e % 2 = 1 then r * b % m else r

/-- The inverse modulo a prime of 384 bits. -/
def invMod (m x : Nat) : Nat := powMod m 384 x (m - 2)

/-- The point where the line of slope `l` through (x, y) and another point with abscissa `x2` meets the curve, mirrored. -/
def chord (l x y x2 : Nat) : Point :=
  let x3 := (l * l + 2 * bpP - x - x2) % bpP
  some (x3, (l * (x + bpP - x3) + bpP - y) % bpP)

def addPoint : Point → Point → Point
  | none, q => q
  | p, none => p
  | some (x1, y1), some (x2, y2) =>
    if x1 = x2 then
      if (y1 + y2) % bpP = 0 then none else chord ((3 * x1 * x1 + bpA) * invMod bpP (2 * y1 % bpP) % bpP) x1 y1 x1
    else chord ((y2 + bpP - y1) * invMod bpP ((x2 + bpP - x1) % bpP) % bpP) x1 y1 x2

/-- A multiple of a point, by a number of at most `k` bits. -/
def mulPoint : Nat → Nat → Point → Point
  | 0, _, _ => none
  | k + 1, n, p =>
    let r := mulPoint k (n / 2) (addPoint p p)
    if n % 2 = 1 then addPoint p r else r

/-- The number of a big-endian byte string. -/
def beNat (bs : List Byte) : Nat := bs.foldl (fun n b => 256 * n + b.toNat) 0

/-- The point of an uncompressed encoding: 4, X, Y (27 R381). -/
def pointOfKey (key : List Byte) : Point :=
  let x := beNat ((key.drop 1).take 48)
  let y := beNat ((key.drop 49).take 48)
  if key.length = 97 ∧ key.head? = some 4 ∧ x < bpP ∧ y < bpP ∧ (y * y) % bpP = (x * x * x + bpA * x + bpB) % bpP then some (x, y)
  else none

/-- The signature r, s, big-endian in 48 bytes each, over a body. -/
def ecdsaVerifies (key sig body : List Byte) : Bool :=
  let r := beNat (sig.take 48)
  let s := beNat ((sig.drop 48).take 48)
  let w := invMod bpN s
  let e := beNat (sha384 body)
  match pointOfKey key with
  | none => false
  | some q =>
    sig.length == 96 && decide (1 ≤ r ∧ r < bpN ∧ 1 ≤ s ∧ s < bpN)
      && (match addPoint (mulPoint 384 (e * w % bpN) bpG) (mulPoint 384 (r * w % bpN) (some q)) with
        | none => false
        | some (x, _) => x % bpN == r)

/-! ### Identity signatures (27 R383) -/

/-- A private scalar, from 1 to n − 1. -/
def scalarOf (x : Nat) : Nat := 1 + x % (bpN - 1)

/-- A number as `n` bytes, the highest first. -/
def beBytes (n x : Nat) : List Byte := (bytesOfNat n x).reverse

/-- The signature over `body` with private scalar `d` and nonce `k`: r, then s. -/
def ecdsaWith (d k : Nat) (body : List Byte) : List Byte :=
  let r := match mulPoint 384 k bpG with
    | some (x, _) => x % bpN
    | none => 0
  let s := invMod bpN k * (beNat (sha384 body) + r * d) % bpN
  beBytes 48 r ++ beBytes 48 s

/-- The nonce of draw `n` of the random-bit generator: 48 free bytes (DESIGN CHOICE, assumption log 6). -/
def nonceOf (n : Nat) : Nat := scalarOf (beNat ((List.range 48).map fun i => Config.freeByte (64 * n + i)))

/-- An identity signature: the key follows from the secret alone, the nonce is drawn (27 R383; DESIGN CHOICE, assumption log 6). -/
def ecdsaSign (secret : BitVec 256) (n : Nat) (body : List Byte) : List Byte :=
  ecdsaWith (scalarOf (Config.identityKey secret)) (nonceOf n) body

end Sys2Proof.Machine
end

