-- ==== Sys2Proof/Machine/Kiosk.lean ====
section
/-! DEFINITION. The K class and the events of a kiosk core: mailbox and deposits, gathers and pooling, tree traversals, path
folds, audit logs, expert routing and heat (15 R296 to R311). -/
namespace Sys2Proof.Machine

/-! ### The kiosk store and results (15 R296 R298) -/

/-- A case that the chapter names a kiosk fault (15 R311). -/
def kioskFlt : Flt := (12, 0, 0)

/-- Bytes of KS, with the checks of the access. -/
def State.ksRead (s : State) (a : Word64) (n al : Nat) : Except Flt (List Byte) :=
  match lsFault s.cur.foot a n al 0 with
  | some f => .error f
  | none => .ok (s.lsRead a.toNat n)

def State.ksWrite (s : State) (a : Word64) (al : Nat) (bs : List Byte) : Except Flt State :=
  match lsFault s.cur.foot a bs.length al 1 with
  | some f => .error f
  | none => .ok (s.lsWrite a.toNat bs)

/-- A scalar of a K syllable: the next bundle sees it. -/
def State.putK (s : State) (d : SReg) (v : Word64) : State := s.put 1 (d.writes v) none

/-- A K syllable: its guard, then its work, which may end in a fault. -/
def State.kiosk (s : State) (g : Guard) (ss : List SReg) (k : Except Flt State) : Out :=
  s.when g (match k with
    | .error f => s.fail f
    | .ok s1 => .next (s1.ebp ss))

/-- Words of a block. -/
def State.ksBlock (s : State) (a : Word64) (words al : Nat) : Except Flt (List Word64) :=
  match s.ksRead a (8 * words) al with
  | .error f => .error f
  | .ok bs => .ok (wordsOfBytes words bs)

/-! ### Mailbox and deposits (15 R300 R301) -/

def Message.tag (m : Message) : Word64 := BitVec.ofNat 64 (m.core % 1024 + 2 ^ 16 * m.ctx9.toNat)

/-- The oldest message goes to KS and into service; its tag is the answer. -/
def State.mailTake (s : State) (a : Nat) : Option (State × Word64) :=
  match s.cur.kiosk.mbox with
  | [] => none
  | m :: l =>
    let s1 := (s.lsWrite a (bytesOfWords m.words)).mapCur fun c => { c with kiosk := { c.kiosk with mbox := l, serv := some m } }
    some (s1, m.tag)

def execKmbox (g : Guard) (poll : Bool) (x y : SReg) (s : State) : Out :=
  let a := s.rs y
  s.kiosk g [y]
    (match lsFault s.cur.foot a 64 64 1 with
     | some f => .error f
     | none =>
       match s.mailTake a.toNat with
       | some (s1, t) => .ok (s1.putK x t)
       | none =>
         let s1 := s.mapCur fun c => { c with kiosk := { c.kiosk with serv := none } }
         .ok (if poll then s1.putK x (BitVec.ofNat 64 (2 ^ 63)) else s1.hold (.kmbox x a.toNat)))

/-- The context `ctx` of a core, resident or of a pre-empted grid, which a deposit names; status 1 where there is none. -/
def State.target? (s : State) (core : Nat) (ctx : BitVec 8) : Option LsAt :=
  let ks := [2 * core, 2 * core + 1]
  match ks.find? (fun k => (s.ctx k).ctxId == ctx && (s.ctx k).grid.isSome) with
  | some k => some ⟨k, none⟩
  | none => s.grids.findSome? fun (n, g) =>
      (ks.find? fun k => match g.saved.get? k with
        | some c => c.ctxId == ctx
        | none => false).map fun k => ⟨k, some n⟩

/-- The checks of a write of `n` bytes to a target: the access table of the LS network, for the kiosk's own context, then the footprint
(16 R317). -/
def State.depositFault (s : State) (d : LsAt) (core : Nat) (a n al : Nat) : Option Flt :=
  let t := 8 + core / 256 % 4
  if a % al ≠ 0 then some (7, BitVec.ofNat 64 a, 1)
  else if !s.admits t s.cur.master 1 (some s.cur.ctxId) then some (5, BitVec.ofNat 64 a, BitVec.ofNat 64 (4 + 256 * t))
  else lsFault (s.lsCtx d).foot (BitVec.ofNat 64 a) n al 1

/-- A target that does not exist, or what KPUT and KDONE write to it. -/
def State.deposits (s : State) (x y : SReg) (tile done : Bool) : Except Flt State :=
  match s.ksBlock (s.rs y) 4 32 with
  | .error f => .error f
  | .ok b =>
    let core := blk b 0 0 10
    let ctx := BitVec.ofNat 8 (blk b 0 16 8)
    let len := blk b 0 32 16
    let s1 := if done then s.mapCur fun c => { c with kiosk := { c.kiosk with serv := none } } else s
    if tile ∧ (len = 0 ∨ len > 1024) then .error kioskFlt
    else
      match (if tile then s.ksRead (BitVec.ofNat 64 (blk b 1 0 17)) (64 * len) 64 else .ok []) with
      | .error f => .error f
      | .ok bs =>
        match s.target? core ctx with
        | none => .ok (s1.putK x 1)
        | some d =>
          let dst := blk b 1 32 20
          let cw := blk b 2 0 20
          let cwe := (blkWord b 0).getLsbD 24
          match (if tile then s.depositFault d core dst (64 * len) 64 else none),
              (if cwe then s.depositFault d core cw 8 8 else none) with
          | some f, _ => .error f
          | _, some f => .error f
          | none, none =>
            let s2 := if tile then
                (List.range len).foldl (fun s i => s.elWrite .deposit s.cur.master (some s.focus) d (dst + 64 * i) ((bs.drop (64 * i)).take 64)) s1
              else s1
            let s3 := if cwe then s2.elWrite .cword s.cur.master (some s.focus) d cw (bytesOf 8 (blkWord b 3)) else s2
            .ok (s3.putK x 0)

def execKput (g : Guard) (x y : SReg) (s : State) : Out := s.kiosk g [y] (s.deposits x y true false)

def execKdone (g : Guard) (x y : SReg) (s : State) : Out := s.kiosk g [y] (s.deposits x y false true)

/-! ### Embeddings (15 R302 R303) -/

/-- The embedding block and the count, 1 to 512. -/
def State.embed (s : State) (y z : SReg) (k : List Word64 → Nat → Except Flt State) : Except Flt State :=
  match s.ksBlock (s.rs y) 8 64 with
  | .error f => .error f
  | .ok b =>
    let n := (s.rs z).toNat
    if n = 0 ∨ n > 512 then .error kioskFlt else k b n

/-- `n` little-endian numbers of `w` bytes in KS. -/
def State.ksNums (s : State) (a w n : Nat) : Except Flt (List Nat) :=
  match s.ksRead (BitVec.ofNat 64 a) (w * n) w with
  | .error f => .error f
  | .ok bs =>
    let arr := bs.toArray
    .ok ((List.range n).map fun i => leNat ((List.range w).map fun k => arr.getD (w * i + k) 0))

/-- Distinct values in order of first use, and each position's place among them. -/
def dedup : List Nat → List Nat → List Nat × List Nat
  | [], u => (u, [])
  | x :: l, u =>
    let i := u.findIdx (· == x)
    let (v, m) := dedup l (if i < u.length then u else u ++ [x])
    (v, i :: m)

def execKdedup (g : Guard) (x y z : SReg) (s : State) : Out :=
  s.kiosk g [y, z] (s.embed y z fun b n =>
    match s.ksNums (blk b 2 0 17) 4 n with
    | .error f => .error f
    | .ok idx =>
      let (u, m) := dedup idx []
      match s.ksWrite (BitVec.ofNat 64 (blk b 2 32 17)) 2 (m.flatMap (bytesOfNat 2)) with
      | .error f => .error f
      | .ok s1 =>
        match s1.ksWrite (BitVec.ofNat 64 (blk b 2 0 17)) 4 (u.flatMap (bytesOfNat 4)) with
        | .error f => .error f
        | .ok s2 => .ok (s2.putK x (BitVec.ofNat 64 u.length)))

/-- ROWE out of range. -/
def roweBad (b : List Word64) : Bool := blk b 0 0 12 == 0 || decide (blk b 0 0 12 > 2048)

def eltBytes (b : List Word64) : Nat := if (blkWord b 0).getLsbD 12 then 2 else 4

/-- A read of global memory by a K operation, through the LTT. -/
def State.kload (s : State) (va : Word64) (n al : Nat) (buf : Fin 64) : Except Flt (State × List Byte) :=
  match s.gxlate (.ltt 0 0) va n al 0 with
  | .error f => .error f
  | .ok p => .ok (s.gload p.1 n buf)

/-- The rows of a gather, one after another. -/
def State.gathRows (tbase : Word64) (rb rows : Nat) (buf : Fin 64) : List (Nat × Nat) → State → Except Flt State
  | [], s => .ok s
  | (i, p) :: l, s =>
    match s.kload (tbase + BitVec.ofNat 64 (i * rb)) rb 1 buf with
    | .error f => .error f
    | .ok (s1, bs) =>
      match s1.ksWrite (BitVec.ofNat 64 (rows + p * rb)) 1 bs with
      | .error f => .error f
      | .ok s2 => State.gathRows tbase rb rows buf l s2

def execKgath (g : Guard) (y z : SReg) (s : State) : Out :=
  s.kiosk g [y, z] (s.embed y z fun b n =>
    if roweBad b then .error kioskFlt
    else if blk b 3 0 17 % 64 ≠ 0 then .error (7, BitVec.ofNat 64 (blk b 3 0 17), 1)
    else match s.ksNums (blk b 2 0 17) 4 n with
      | .error f => .error f
      | .ok idx =>
        State.gathRows (blkWord b 1) (blk b 0 0 12 * eltBytes b) (blk b 3 0 17) (Fin.ofNat 64 (blk b 0 16 6)) idx.zipIdx s)

/-- A gathered row as F32 elements (15 R303). -/
def State.poolRow (s : State) (b : List Word64) (r : Nat) : Except Flt (List Nat) :=
  let w := eltBytes b
  let n := blk b 0 0 12
  match s.ksRead (BitVec.ofNat 64 (blk b 3 0 17 + r * n * w)) (n * w) 1 with
  | .error f => .error f
  | .ok bs =>
    let arr := bs.toArray
    .ok ((List.range n).map fun i =>
      leNat ((List.range w).map fun k => arr.getD (w * i + k) 0) * (if w = 2 then 2 ^ 16 else 1))

/-- One element's step over a row. -/
def poolStep (pool : Nat) (a x : Nat) : Nat × Ev :=
  if pool = 2 then FFmt.f32.minMax true a x
  else FFmt.f32.add Rnd.rne (FFmt.f32.unpack a) (FFmt.f32.unpack x)

/-- Rows accumulated element by element. -/
def State.poolRows (s : State) (b : List Word64) (pool : Nat) : List Nat → List Nat → Ev → Except Flt (List Nat × Ev)
  | [], acc, ev => .ok (acc, ev)
  | r :: l, acc, ev =>
    match s.poolRow b r with
    | .error f => .error f
    | .ok x =>
      let y := acc.zipWith (poolStep pool) x
      s.poolRows b pool l (y.map Prod.fst) (ev ||| Ev.union (y.map Prod.snd))

/-- One bag of the rows `rows`. -/
def State.poolBag (s : State) (b : List Word64) (rows : List Nat) : Except Flt (List Nat × Ev) :=
  let pool := blk b 0 13 2
  match rows with
  | [] => .ok (List.replicate (blk b 0 0 12) 0, 0)
  | r :: l =>
    match s.poolRow b r with
    | .error f => .error f
    | .ok x =>
      match s.poolRows b pool l x 0 with
      | .error f => .error f
      | .ok (acc, ev) =>
        if pool = 1 then
          let n := FFmt.f32.unpack (FFmt.f32.ofInt Rnd.rne rows.length).1
          let y := acc.map fun a => FFmt.f32.div Rnd.rne (FFmt.f32.unpack a) n
          .ok (y.map Prod.fst, ev ||| Ev.union (y.map Prod.snd))
        else .ok (acc, ev)

/-- The first position of bag `i` and the one after its last. -/
def State.bagEnds (s : State) (b : List Word64) (i : Nat) : Except Flt (Nat × Nat) :=
  match s.ksNums (blk b 4 0 17 + 2 * (i - 1)) 2 (if i = 0 then 1 else 2) with
  | .error f => .error f
  | .ok l => .ok (if i = 0 then (0, l.getD 0 0) else (l.getD 0 0, l.getD 1 0))

/-- The rows of the positions `lo` to `hi − 1`. -/
def State.bagRows (s : State) (b : List Word64) (lo hi : Nat) : Except Flt (List Nat) :=
  if (blkWord b 0).getLsbD 15 ∨ hi ≤ lo then .ok ((List.range (hi - lo)).map (· + lo))
  else s.ksNums (blk b 2 32 17 + 2 * lo) 2 (hi - lo)

/-- Bag `i`: its ends are read as the bags before it have left KS. -/
def State.poolOne (s : State) (b : List Word64) (i : Nat) : Except Flt (State × Ev) :=
  match s.bagEnds b i with
  | .error f => .error f
  | .ok (lo, hi) =>
    match s.bagRows b lo hi with
    | .error f => .error f
    | .ok rs =>
      match s.poolBag b rs with
      | .error f => .error f
      | .ok (acc, e) =>
        match s.ksWrite (BitVec.ofNat 64 (blk b 3 32 17 + i * blk b 0 0 12 * 4)) 4 (acc.flatMap (bytesOfNat 4)) with
        | .error f => .error f
        | .ok s1 => .ok (s1, e)

/-- The bags in order. -/
def State.poolBags (b : List Word64) : List Nat → State → Ev → Except Flt (State × Ev)
  | [], s, ev => .ok (s, ev)
  | i :: l, s, ev =>
    match s.poolOne b i with
    | .error f => .error f
    | .ok (s1, e) => State.poolBags b l s1 (ev ||| e)

def execKpool (g : Guard) (y z : SReg) (s : State) : Out :=
  s.kiosk g [y, z] (s.embed y z fun b n =>
    if roweBad b ∨ blk b 0 13 2 = 3 then .error kioskFlt
    else if blk b 3 0 17 % 64 ≠ 0 then .error (7, BitVec.ofNat 64 (blk b 3 0 17), 0)
    else if blk b 3 32 17 % 64 ≠ 0 then .error (7, BitVec.ofNat 64 (blk b 3 32 17), 1)
    else match State.poolBags b (List.range n) s 0 with
      | .error f => .error f
      | .ok (s1, ev) => .ok (s1.raise ev))

/-! ### Trees (15 R304 to R306) -/

/-- A value out of range or reserved, or a field past the node's end. -/
def descBad (b : List Word64) : Bool :=
  let n := 64 * blk b 0 0 4
  let fits (o w : Nat) : Bool := decide (o + w ≤ n)
  decide (blk b 0 0 4 = 0) || decide (blk b 0 0 4 > 8) || blk b 0 31 2 == 3
    || !fits (blk b 0 8 9) (blk b 0 17 5 + 1)
    || blk b 0 22 9 % 8 != 0 || !fits (blk b 0 22 9) 32
    || !fits (blk b 0 33 9) (blk b 0 42 5 + 1)
    || !fits (blk b 0 48 9) 1
    || blk b 1 0 9 % 8 != 0 || !fits (blk b 1 0 9) 32
    || ((blkWord b 1).getLsbD 25 && !fits (blk b 1 16 9) 1)
    || ((blkWord b 0).getLsbD 47 && !fits (blk b 1 32 9) (blk b 0 42 5 + 1))

def execKndsc (g : Guard) (y : SReg) (n : Fin 4) (s : State) : Out :=
  s.kiosk g [y]
    (match s.ksBlock (s.rs y) 4 32 with
     | .error f => .error f
     | .ok b =>
       if descBad b then .error kioskFlt
       else .ok (s.mapCur fun c => { c with kiosk := { c.kiosk with desc := c.kiosk.desc.set n b } }))

def allOnes64 : Word64 := BitVec.allOnes 64

/-- The lowest free entry of the traversal table. -/
def Kiosk.freeEntry (k : Kiosk) : Option Nat := (List.range 512).find? fun i => (k.trav.get? i).isNone

def State.setTrav (s : State) (i : Nat) (t : Trav) : State :=
  s.mapCur fun c => { c with kiosk := { c.kiosk with trav := c.kiosk.trav.set i t } }

/-- A traversal as its START block gives it. -/
def travOf (b : List Word64) (desc : List Word64) (feat : List Nat) : Trav where
  state := .waiting
  node := 0
  root := blkWord b 0
  tree := BitVec.ofNat 32 (blk b 1 0 32)
  desc := desc
  buf := Fin.ofNat 64 (blk b 1 40 6)
  score := blkWord b 2
  feat := feat.map (BitVec.ofNat 32)
  lo := blkWord b 4
  hi := blkWord b 5
  steps := 0
  value := 0
  limit := false
  data := []

/-- A cleared or reserved descriptor starts no traversal (DEDUCED, assumption log 33). -/
def execKtreeStart (g : Guard) (x y : SReg) (s : State) : Out :=
  s.kiosk g [y]
    (match s.ksBlock (s.rs y) 8 8 with
     | .error f => .error f
     | .ok b =>
       match s.cur.kiosk.freeEntry with
       | none => .ok (s.putK x allOnes64)
       | some i =>
         let desc := s.cur.kiosk.desc.get (Fin.ofNat 4 (blk b 1 32 2))
         let n := blk b 3 32 16
         if descBad desc ∨ n = 0 ∨ n > 32768 then .error kioskFlt
         else match s.ksNums (blk b 3 0 17) 4 n with
          | .error f => .error f
          | .ok feat => .ok ((s.setTrav i (travOf b desc feat)).putK x (BitVec.ofNat 64 i)))

/-- The path fold (15 R307). -/
def foldK : Word64 := 0x9E3779B97F4A7C15#64

def foldLo (lo v : Word64) : Word64 := (lo ^^^ v).rotateLeft 23 * foldK

def foldHi (hi v : Word64) : Word64 := (hi ^^^ v).rotateLeft 41 * foldK

/-- Field of `w` bits at bit offset `o` of a node. -/
def nodeField (bs : List Byte) (o w : Nat) : Nat := leNat bs / 2 ^ o % 2 ^ w

/-- Whether an internal node sends the traversal left, or the categorical bit that decides it. -/
inductive Way where
  | go (left : Bool)
  | missing
  | cat (t x : Nat)

def Trav.way (t : Trav) : Way :=
  let b := t.desc
  let f := nodeField t.data (blk b 0 8 9) (blk b 0 17 5 + 1)
  let thr := nodeField t.data (blk b 0 22 9) 32
  match t.feat[f]? with
  | none => .missing
  | some x =>
    match blk b 0 31 2 with
    | 0 =>
      match FFmt.f32.unpack x.toNat with
      | .nan _ => .missing
      | a => .go (fcmpHolds .lt a (FFmt.f32.unpack thr)).1
    | 1 => if x = 0x80000000#32 then .missing else .go (x.slt (BitVec.ofNat 32 thr))
    | _ => if x.toNat ≥ 256 then .missing else .cat thr x.toNat

/-- The child that a direction names, and the step limit (15 R306). -/
def Trav.turn (t : Trav) (left : Bool) : Trav :=
  let b := t.desc
  let w := blk b 0 42 5 + 1
  let c := nodeField t.data (blk b 0 33 9) w
  let i := if left then c else if (blkWord b 0).getLsbD 47 then nodeField t.data (blk b 1 32 9) w else c + 1
  if t.steps = 65535 then { t with node := i, limit := true, value := 0, state := .done, data := [] }
  else { t with node := i, state := .waiting, data := [] }

/-- The direction of a missing value. -/
def Trav.defaultLeft (t : Trav) : Bool :=
  let b := t.desc
  !(blkWord b 1).getLsbD 25 || nodeField t.data (blk b 1 16 9) 1 == 0

/-- One step of an entry whose node has arrived. -/
def State.travStep (s : State) (t : Trav) : Except Flt (State × Trav) :=
  let v := BitVec.ofNat 64 (t.tree.toNat * 2 ^ 32 + t.node)
  let t := { t with lo := foldLo t.lo v, hi := foldHi t.hi v, steps := t.steps + 1 }
  let b := t.desc
  if nodeField t.data (blk b 0 48 9) 1 = 1 then
    .ok (s, { t with value := BitVec.ofNat 32 (nodeField t.data (blk b 1 0 9) 32), state := .done, data := [] })
  else match t.way with
    | .go l => .ok (s, t.turn l)
    | .missing => .ok (s, t.turn t.defaultLeft)
    | .cat thr x =>
      match s.kload (blkWord b 2 + BitVec.ofNat 64 (32 * thr)) 32 1 t.buf with
      | .error f => .error f
      | .ok (s1, bs) => .ok (s1, t.turn ((leNat bs).testBit x))

/-- Entries whose node has arrived, at most 16, lowest first. -/
def Kiosk.steppable (k : Kiosk) : List (Nat × Trav) := (k.trav.filter fun e => e.2.state == .arrived).take 16

def Kiosk.anyRunning (k : Kiosk) : Bool := k.trav.any fun e => e.2.state != .done

/-- The entries step one after another. -/
def State.travSteps : List (Nat × Trav) → State → Except Flt State
  | [], s => .ok s
  | (i, t) :: l, s =>
    match s.travStep t with
    | .error f => .error f
    | .ok (s1, t1) => State.travSteps l (s1.setTrav i t1)

/-- STEP's work on the entries `es`: the K unit is busy for a tick per entry stepped (DEDUCED, assumption log 33). -/
def State.stepTrees (s : State) (es : List (Nat × Trav)) : Except Flt State :=
  match State.travSteps es s with
  | .error f => .error f
  | .ok s1 => .ok (if es.length ≤ 1 then s1 else s1.hold (.tick (es.length - 1)))

def execKtreeStep (g : Guard) (x : SReg) (s : State) : Out :=
  s.kiosk g []
    (let es := s.cur.kiosk.steppable
     if es.isEmpty then .ok (if s.cur.kiosk.anyRunning then s.hold (.kstep x s.issue.addr s.issue.pos) else s.putK x 0)
     else match s.stepTrees es with
      | .error f => .error f
      | .ok s1 => .ok (s1.putK x (BitVec.ofNat 64 es.length)))

/-- The result record (15 R305). -/
def Trav.result (t : Trav) : List Byte :=
  bytesOfWords [t.score, BitVec.ofNat 64 (t.value.toNat + 2 ^ 32 * t.steps + (if t.limit then 2 ^ 48 else 0)), t.lo, t.hi]

def execKtreeCollect (g : Guard) (x y : SReg) (s : State) : Out :=
  s.kiosk g [y]
    (match s.cur.kiosk.trav.find? (fun e => e.2.state == .done) with
     | none => .ok (s.putK x allOnes64)
     | some (i, t) =>
       match s.ksWrite (s.rs y) 8 t.result with
       | .error f => .error f
       | .ok s1 =>
         .ok ((s1.mapCur fun c => { c with kiosk := { c.kiosk with trav := c.kiosk.trav.del i } }).putK x (BitVec.ofNat 64 i)))

/-- A requested node arrives, or its access is a kiosk fault. -/
def State.nodeArrive (s : State) (i : Nat) : State :=
  match s.cur.kiosk.trav.get? i with
  | some t =>
    if t.state = .waiting then
      let n := 8 * blk t.desc 0 0 4
      match s.kload (t.root + BitVec.ofNat 64 (t.node * n)) n 8 t.buf with
      | .error f => s.takeFault ⟨f.1, 0, 0, f.2.1, f.2.2⟩
      | .ok (s1, bs) => s1.setTrav i { t with state := .arrived, data := bs }
    else s
  | none => s

def execTreeNodeArrive (key i : Nat) (s : State) : Out := .next (s.onKey key fun s => s.nodeArrive i)

def execKfold (g : Guard) (y z : SReg) (s : State) : Out :=
  s.kiosk g [y, z]
    (match s.ksBlock (s.rs y) 2 16 with
     | .error f => .error f
     | .ok b => s.ksWrite (s.rs y) 16 (bytesOfWords [foldLo (blkWord b 0) (s.rs z), foldHi (blkWord b 1) (s.rs z)]))

/-! ### Audit logs (15 R308) -/

/-- A log that the kiosk's context may append to. -/
def State.auditLog (s : State) (log : Fin 64) : Option AuditLog := (s.logs.get? log.val).filter fun l => l.ctx == s.cur.ctxId

/-- A record with the fields that the kiosk fills in; reserved bits and word 7 leave as zero (00 R7). -/
def logRecord (b : List Word64) (seq kid : Nat) (meas : List Byte) : List Word64 :=
  let w2 := blkWord b 2
  [BitVec.ofNat 64 seq, blkWord b 1, (w2 &&& 0xFFFFFFFF000000FF#64) ||| BitVec.ofNat 64 (kid % 128 * 2 ^ 16),
    BitVec.ofNat 64 (leNat (meas.take 8))] ++ (b.drop 4).take 3 ++ [0]

/-- Where the latest whole block of 256 records stands. -/
def AuditLog.blockAt (l : AuditLog) : Nat := l.base.toNat * 2 ^ 16 + 64 * (l.count - 256)

/-- The chain extends over each whole block of 256 records. -/
def AuditLog.extend (l : AuditLog) (s : State) : AuditLog :=
  if l.count % 256 = 0 then { l with head := sha384 (l.head ++ s.pread l.blockAt 16384), covered := l.count } else l

/-- The chain would extend over a line in error: the append is a kiosk fault (27 R377; DEDUCED, assumption log 55). -/
def AuditLog.broken (l : AuditLog) (s : State) : Option Flt :=
  if l.count % 256 = 0 then (s.badLine l.blockAt 16384).map fun n => (14, BitVec.ofNat 64 (64 * n), 2) else none

def execKlogAppend (g : Guard) (x y : SReg) (log : Fin 64) (s : State) : Out :=
  s.kiosk g [y]
    (match s.ksBlock (s.rs y) 8 64 with
     | .error f => .error f
     | .ok b =>
       match s.auditLog log, s.seals.get? (blk b 2 0 8) with
       | some l, some sl =>
         if l.count ≥ 1024 * l.len ∨ !sl.live ∨ sl.ctx ≠ s.cur.ctxId then .error kioskFlt
         else
           let rec_ := logRecord b l.count s.cur.gid sl.meas
           let s1 := s.pwrite (l.base.toNat * 2 ^ 16 + 64 * l.count) (bytesOfWords rec_)
           let l1 := { l with count := l.count + 1 }
           match l1.broken s1 with
           | some f => .error f
           | none => .ok (({ s1 with logs := s1.logs.set log.val (l1.extend s1) } : State).putK x (BitVec.ofNat 64 l.count))
       | _, _ => .error kioskFlt)

/-- The 64 bytes that HEAD writes and SIGN signs. -/
def AuditLog.headBytes (l : AuditLog) (id : Nat) : List Byte :=
  bytesOf 8 (BitVec.ofNat 64 id) ++ bytesOf 8 (BitVec.ofNat 64 l.covered) ++ l.head

def execKlogHead (g : Guard) (x y : SReg) (log : Fin 64) (s : State) : Out :=
  s.kiosk g [y]
    (match s.auditLog log with
     | none => .error kioskFlt
     | some l =>
       match s.ksWrite (s.rs y) 8 (l.headBytes log.val) with
       | .error f => .error f
       | .ok s1 => .ok (s1.putK x 0))

def execKlogSign (g : Guard) (x y : SReg) (log : Fin 64) (s : State) : Out :=
  s.kiosk g [y]
    (match s.auditLog log with
     | none => .error kioskFlt
     | some l =>
       let h := l.headBytes log.val
       match s.ksWrite (s.rs y) 8 (h ++ ecdsaSign s.boot.secret s.freeCount h) with
       | .error f => .error f
       | .ok s1 => .ok (s1.draw.putK x 0))

/-! ### Routing and heat (15 R309 R310) -/

def execKroute (g : Guard) (x y z : SReg) (s : State) : Out :=
  s.kiosk g [y, z]
    (let e := (s.rs y).toNat
     if e ≥ s.cur.kiosk.krtn.toNat then .error kioskFlt
     else match s.ksBlock (BitVec.ofNat 64 (s.cur.kiosk.krtb.toNat + 8 * e)) 1 8 with
      | .error f => .error f
      | .ok b =>
        let k := (s.rs z).toNat % (blk b 0 0 2 + 1)
        .ok (s.putK x (BitVec.ofNat 64 (blk b 0 (10 * k + 10) 10))))

def State.heat (s : State) (e : Nat) : Word32 := (s.cur.kiosk.heat.get? e).getD 0

def State.setHeat (s : State) (e : Nat) (v : Word32) : State :=
  s.mapCur fun c => { c with kiosk := { c.kiosk with heat := if v = 0 then c.kiosk.heat.del e else c.kiosk.heat.set e v } }

def execKheatAdd (g : Guard) (x y z : SReg) (s : State) : Out :=
  s.kiosk g [y, z]
    (let e := (s.rs y).toNat
     if e > 4095 then .error kioskFlt
     else
       let old := s.heat e
       let new : Word32 := BitVec.ofNat 32 (min (old.toNat + (s.rs z).toNat) (2 ^ 32 - 1))
       let s1 := s.setHeat e new
       let cross := old.ult s.cur.kiosk.kthr && !new.ult s.cur.kiosk.kthr
       let s2 := if cross then
           s1.mapCur fun c => { c with kiosk := { c.kiosk with pend := insertNat e c.kiosk.pend } }
         else s1
       .ok (s2.putK x (new.setWidth 64)))

def execKheatRead (g : Guard) (x y : SReg) (s : State) : Out :=
  s.kiosk g [y]
    (let e := (s.rs y).toNat
     if e > 4095 then .error kioskFlt else .ok ((s.setHeat e 0).putK x ((s.heat e).setWidth 64)))

/-- RET goes back to the saved address, and to the nest that ran there. -/
def execKheatRet (g : Guard) (s : State) : Out :=
  s.when g
    (if s.cur.kiosk.kintr then
      .next ((s.jump s.cur.kiosk.ret 3).mapCur fun c =>
        { c with loop := c.kiosk.loop, kiosk := { c.kiosk with kintr := false, loop := LoopState.none } })
     else s.illegal)

/-- Whether a heat trap is taken at the bundle boundary. -/
def Ctx.heatDue (c : Ctx) : Bool := !c.kiosk.kintr && c.kiosk.khnd != 0 && !c.kiosk.pend.isEmpty

/-- The handler is entered for the lowest pending expert (DEDUCED, assumption log 33). -/
def State.heatTrap (s : State) : State :=
  match s.cur.kiosk.pend with
  | [] => s
  | e :: l =>
    if s.cur.heatDue then
      let h := s.heat e
      s.mapCur fun c =>
        let regs := { c.regs with s := ((c.regs.s.set 60 (BitVec.ofNat 64 e)).set 61 (h.setWidth 64)).set 62 c.pc }
        let k := { c.kiosk with pend := l, kintr := true, ret := c.pc, loop := c.loop }
        { c with regs := regs, kiosk := k, loop := LoopState.none,
                 pc := k.khnd.setWidth 64, next := k.khnd.setWidth 64, idle := 3 }
    else s

def execHeatTrapEntry (key : Nat) (s : State) : Out := .next (s.onKey key State.heatTrap)

/-! ### Kiosk faults (15 R311) -/

/-- Where an uncorrectable error of a kiosk's store or node cache stands: the event does not say, so it is a free value
(DESIGN CHOICE, assumption log 6). -/
def errorPlace (n : Nat) : Word64 := BitVec.ofNat 64 (leNat ((List.range 8).map fun i => Config.freeByte (64 * n + i)))

/-- A kiosk core halts for a cause outside its syllables. -/
def execKioskFault (key code reason : Nat) (s : State) : Out :=
  .next (s.onKey key fun s =>
    let f : FaultWords := ⟨code, 0, s.cur.pc, if code = 14 then errorPlace s.freeCount else 0, BitVec.ofNat 64 reason⟩
    if s.cur.kind = .kiosk ∧ s.cur.run = .running then (s.draw.countUE f).takeFault f else s)

end Sys2Proof.Machine
end

