-- ==== Sys2Proof/Machine/LsOps.lean ====
section
/-! DEFINITION. LS accesses of a later tick: the other rows of a tile, remote accesses, the second part of a witness image, the
norm of a refinement run, and payload reads (08 R169 R172 R175, 12 R262 R266, 14 R289, 06 R131 R135). -/
namespace Sys2Proof.Machine

/-- A result of an access that its instruction scheduled at issue: it lands `lat` ticks after that issue (03 R58). -/
def State.landAt (s : State) (p : LsPend) (lat : Nat) (ws : List RegWrite) (bp : Option BpVal) : State :=
  let rem := p.born + lat - s.cur.sp.scnt.toNat
  s.mapCur fun c => { c with flight := c.flight ++ [⟨rem, ws, bp, 0, p.addr, p.pos, p.born, false, none⟩] }

/-- A bank request of an access in a later tick names the bundle that scheduled it. -/
def State.reqAt (s : State) (p : LsPend) (kind key addr len : Nat) (write : Bool) : State :=
  let i := s.issue
  { ({ s with issue := { i with addr := p.addr, pos := p.pos } }.lsReq kind key addr len write) with issue := i }

/-- The static bank request of a remote access; an elastic one has been granted already, and a saved LS has no banks. -/
def State.reqRemoteAt (s : State) (p : LsPend) (k : LsAt) (a : Nat) (write : Bool) : State :=
  if s.cur.elastic ∨ k.saved.isSome then s else s.reqAt p reqRemote k.key a 256 write

/-- The read of a remote access. -/
def State.remoteRead (s : State) (p : LsPend) (core : Fin 16) (a : Word64) (d : Option (Fin 640)) : Except Flt State :=
  match s.remote core a 256 0 with
  | .error f => .error f
  | .ok k =>
    let v := vecOfBytes ((s.lsCtx k).ls.readN a.toNat 256)
    let ws : List RegWrite := d.toList.map fun n => .vec n (BitVec.allOnes 64) v
    .ok ((s.reqRemoteAt p k a.toNat false).landAt p 16 ws (some (.lv v)))

/-- The write of a remote access: the bundles of the tick in which it performs see it (DEDUCED, assumption log 66). -/
def State.remoteWrite (s : State) (p : LsPend) (core : Fin 16) (a : Word64) (v : Vec) : Except Flt State :=
  match s.remote core a 256 1 with
  | .error f => .error f
  | .ok k => .ok ((s.reqRemoteAt p k a.toNat true).lsStore k a.toNat (vecBytes v))

/-! ### Streams of an elastic grid (10 R218) -/

/-- The step whose streams have all come: it acts on the accumulator as it stood at its issue, and its result lands eight non-frozen
ticks after that (10 R218 R220 R223). -/
def State.matDone (s : State) (m : MPend) (a b : List Byte) : State :=
  let o := m.op
  let r := (s.cur.regs.m.get o.acc).step o (m.sel.map fun x => (x.1, x.2.toArray)) a.toArray b.toArray m.eA m.eB
  let c := s.cur.withAcc o.acc r.1
  let lat := m.born + 8 - c.sp.scnt.toNat
  { s with cur := c.put { s.issue with addr := m.addr, pos := m.pos } m.born lat [.acc o.acc r.1.cells] none r.2 false (some o.acc) }

/-- A stream of the pending step has come. -/
def State.matGot (s : State) (right : Bool) (bs : List Byte) : State :=
  match s.cur.mstep with
  | none => s
  | some m =>
    let m := if right then { m with b := some bs } else { m with a := some bs }
    match m.a, m.b with
    | some a, some b => (s.mapCur fun c => { c with mstep := none }).matDone m a b
    | _, _ => s.mapCur fun c => { c with mstep := some m }

/-- One access in its LS tick. -/
def State.runLs (s : State) (p : LsPend) : Except Flt State :=
  match p.op with
  | .loadRows a d lat last =>
    let rs := rowsOf (s.lsRead a 1024)
    .ok ((s.reqAt p reqL s.focus a 1024 false).landAt p lat (allVec d rs) (if last then some (.lv (rs.getLastD Vec.zero)) else none))
  | .storeRows a rows => .ok ((s.reqAt p reqL s.focus a 1024 true).lsWrite a (rows.flatMap vecBytes))
  | .remoteLoad core a d => s.remoteRead p core a d
  | .remoteStore core a v => s.remoteWrite p core a v
  | .witTail k a head =>
    .ok ((s.reqAt p reqL s.focus a 64 false).landAt p 8 [.witLoad k (witOfImage (head ++ s.lsRead a 64))] none)
  | .witSaveTail a bs => .ok ((s.reqAt p reqL s.focus a bs.length true).lsWrite a bs)
  | .rfNorm =>
    match s.cur.rf with
    | none => .ok s
    | some r =>
      let a := BitVec.ofNat 64 (blk r.blk 9 0 20)
      match lsFault s.cur.foot a 8 8 0 with
      | some f => .error f
      | none =>
        let s1 := s.reqAt p reqL s.focus a.toNat 8 false
        .ok (s1.mapCur fun c => { c with sp := { c.sp with rbnorm := c.lsView.word a.toNat } })
  | .stream right core a len =>
    match s.remote core a len 0 with
    | .error f => .error f
    | .ok k => .ok (s.matGot right ((s.lsCtx k).ls.readN a.toNat len))
  | .payload b => .ok ((s.reqAt p reqL s.focus (blk b 1 0 20) 256 false).send b)
  | .tokenDone n t => .ok (s.mapCur (·.tokDone n t))

/-- An elastic access in its LS tick, as a request: its kind, the context whose LS it reaches, its offset and its length. A saved
LS has no banks (06 R130 R131, 10 R218, 12 R266). -/
def State.elasticOf (s : State) (p : LsPend) : Except Flt (Option (ElKind × LsAt × Nat × Nat)) :=
  let own (a n : Nat) : Except Flt (Option (ElKind × LsAt × Nat × Nat)) :=
    .ok (if s.cur.second then some (.secondL, ⟨s.focus, none⟩, a, n) else none)
  let far (core : Fin 16) (a n : Nat) : Except Flt (Option (ElKind × LsAt × Nat × Nat)) :=
    if s.cur.elastic then
      match s.peerAt core with
      | none => .error (5, BitVec.ofNat 64 core.val, 11)
      | some k => .ok (some (.remote, k, a, if k.saved.isSome then 0 else n))
    else .ok none
  match p.op with
  | .remoteLoad core a _ => far core a.toNat 256
  | .remoteStore core a _ => far core a.toNat 256
  | .stream _ core a n => far core a.toNat n
  | .loadRows a .. => own a 1024
  | .storeRows a _ => own a 1024
  | .witTail _ a _ => own a 64
  | .witSaveTail a bs => own a bs.length
  | .rfNorm => match s.cur.rf with
    | some r => own (blk r.blk 9 0 20) 8
    | none => .ok none
  | .payload _ | .tokenDone .. => .ok none

/-- An access of a bundle in its LS tick: a static one performs; an elastic one becomes a request, which is granted at the end of the
tick or freezes its context until it is (08 R169 R175, 10 R218). -/
def State.runLsOrAsk (s : State) (p : LsPend) : Except Flt State :=
  match s.elasticOf p with
  | .error f => .error f
  | .ok none => s.runLs p
  | .ok (some (kind, k, a, n)) => .ok (s.elAsk kind s.cur.master k.key (some s.focus) a n (.access p))

end Sys2Proof.Machine
end

