-- ==== Sys2Proof/Machine/Walk.lean ====
section
/-! DEFINITION. Page-table walks, translation waits and the interrupts of a function (25 R357 to R360, 26 R370, 06 R139 R140). -/
namespace Sys2Proof.Machine

/-! ### Interrupts (26 R370) -/

/-- The interrupt of a function: IDATA written to IADDR in host memory. -/
def State.interrupt (s : State) (f : Nat) : State :=
  let x := s.func f
  { s with hostMem := s.hostMem.writeN x.iaddr.toNat (bytesOfNat 4 x.idata.toNat) }

/-- A cause bit turns 1: bit 0 CPL, 1 TWAIT, 2 HALT. The write is made on the transition, under the mask. -/
def State.cause (s : State) (f : Nat) (bit : Fin 3) : State :=
  let x := s.func f
  if x.cause.getLsbD bit.val then s
  else
    let s1 := s.updFunc f fun y => { y with cause := y.cause ||| BitVec.twoPow 3 bit.val }
    if x.imask.getLsbD bit.val then s1.interrupt f else s1

/-! ### The walk (25 R357 R358) -/

inductive Walked where
  | handle (h : Handle)
  | wait
  | fault (f : Flt)

/-- A reserved or must-be-zero bit of an entry is 1, or a leaf stands at level 3 (25 R358, against
00 R7; DEDUCED, assumption log 46). -/
def pteBad (lvl : Nat) (e : Word64) : Bool :=
  let n := e.toNat
  let leaf := e.getLsbD 5
  bits n 6 6 != 0 || bits n 52 12 != 0 || (lvl == 3 && leaf)
    || (lvl == 2 && leaf && bits n 12 18 != 0) || (lvl == 1 && leaf && bits n 12 9 != 0)

/-- The handle of a leaf. -/
def leafHandle (lvl : Nat) (e va : Word64) (buf : Fin 64) : Handle :=
  let size := 2 ^ (12 + 9 * lvl)
  ⟨va.toNat / size * size, bits e.toNat 12 40 * 2 ^ 12, size, e.getLsbD 1, e.getLsbD 2, e.getLsbD 3, e.getLsbD 4, buf⟩

/-- The fault of the read of an entry: the checks at its target, where it carries a master id; the dispatcher has none (23 R337), and its
read fails where nothing serves the address or the memory does not give it (05 R110, 27 R377). -/
def State.entryFault (s : State) (mid : Option Nat) (ctx : BitVec 8) (va : Word64) (a : Nat) : Option Flt :=
  match mid with
  | some m => s.physFault m ctx va a 8 0
  | none => if s.serves (s.target a) then s.readFault ctx a 8 else some (5, va, 4)

/-- The walk from the table at `t`; each entry is one physical read. -/
def State.walkFrom (s : State) (mid : Option Nat) (ctx : BitVec 8) (va : Word64) (buf : Fin 64) : Nat → Nat → Walked
  | 0, _ => .wait
  | lvl + 1, t =>
    let a := t + 8 * bits va.toNat (12 + 9 * lvl) 9
    match s.entryFault mid ctx va a with
    | some f => .fault f
    | none =>
      let e := BitVec.ofNat 64 (leNat (s.pread a 8))
      if !e.getLsbD 0 then .wait
      else if pteBad lvl e then .fault (5, va, 5)
      else if lvl = 0 ∨ e.getLsbD 5 then .handle (leafHandle lvl e va buf)
      else s.walkFrom mid ctx va buf lvl (bits e.toNat 12 40 * 2 ^ 12)

def State.walk (s : State) (mid : Option Nat) (ctx : BitVec 8) (root : BitVec 40) (va : Word64) (buf : Fin 64) : Walked :=
  s.walkFrom mid ctx va buf 4 (root.toNat * 2 ^ 12)

/-- PTROOT of a context for accesses that no grid makes: while a grid of the context runs, as the latest start or resume took it
(23 R336). -/
def State.rootOf (s : State) (ctx : BitVec 8) : BitVec 40 :=
  let r := s.ctxRegs ctx.toNat
  if s.grids.any fun e => e.2.ctx == ctx && e.2.state == .running then r.root else r.ptroot

/-- PTROOT as the context's grid took it at its start or resume (23 R336). -/
def State.ptroot (s : State) : BitVec 40 :=
  match s.grid? with
  | some g => g.ptroot
  | none => s.rootOf s.cur.ctxId

/-- A grid start or resume of a context takes PTROOT as it stands. -/
def State.takeRoot (s : State) (ctx : BitVec 8) : State :=
  let r := s.ctxRegs ctx.toNat
  { s with ctxs := s.ctxs.set ctx.toNat { r with root := r.ptroot } }

/-! ### Translation waits (25 R359) -/

/-- The lowest free tag of a function. -/
def Func.freeTag (f : Func) : Option Nat := (List.range 64).find? fun t => f.twaits.all fun e => e.tag != t

/-- The context in focus waits for the page of `va`: merged into an entry for the same page, or posted under the lowest free
tag; with 64 entries taken it is posted once one frees. -/
def State.postWait (s : State) (va : Word64) (buf : Fin 64) : State :=
  let ctx := s.cur.ctxId
  let fn := (s.ctxRegs ctx.toNat).func.toNat
  let f := s.func fn
  let me := (s.cur.grid.getD 0, s.focus)
  let page := bits va.toNat 12 36
  if f.twaits.any (fun e => e.ctx == ctx && e.va == page) then
    s.updFunc fn fun f => { f with twaits := f.twaits.map fun e =>
      if e.ctx == ctx && e.va == page && !e.keys.contains me then { e with keys := e.keys ++ [me] } else e }
  else match f.freeTag with
    | none => s
    | some t =>
      let quiet := f.twaits.all fun e => e.popped
      let s1 := s.updFunc fn fun f => { f with twaits := f.twaits ++ [⟨ctx, buf, page, t, false, [me]⟩] }
      if quiet then s1.cause fn 1 else s1

/-- The walk of an XLT for the context in focus, request `seq` of the package: the handle, a translation wait, or a fault at its
syllable. -/
def State.walkHandle (s : State) (h : Fin 8) (va : Word64) (buf : Fin 64) (addr : Word64) (pos : Option (Fin 8)) (seq : Nat) :
    State :=
  match s.walk (some s.cur.master) s.cur.ctxId s.ptroot va buf with
  | .handle x => s.mapCur fun c => { c with regs := { c.regs with h := c.regs.h.set h (some x) } }
  | .wait => (s.hold (.walk h va buf addr pos seq)).postWait va buf
  | .fault f =>
    if s.cur.goesOn f then s
    else s.takeFault ⟨f.1, match pos with | some p => posMask p | none => 0, addr, f.2.1, f.2.2⟩

/-- Whether a held walk is of a page. -/
def Hold.onPage (h : Hold) (page : Nat) : Bool :=
  match h with
  | .walk _ va .. => bits va.toNat 12 36 == page
  | _ => false

/-- The walks of the context in focus that wait on a page restart. -/
def State.rewalk (s : State) (page : Nat) : State :=
  let hs := s.cur.holds.filter (·.onPage page)
  let s1 := s.mapCur fun c => { c with holds := c.holds.filter fun h => !h.onPage page }
  hs.foldl (fun s h => match h with
    | .walk h va buf addr pos seq => s.walkHandle h va buf addr pos seq
    | _ => s) s1

end Sys2Proof.Machine
end

