-- ==== Sys2Proof/Machine/Grid.lean ====
section
/-! DEFINITION. Strands, chunks, barriers and alignment points of a grid, and the events of a context (02 R19 to R40, 03 R58
R59 R61, 06 R131, 07 R157 R164 R167, 14 R284 R285). -/
namespace Sys2Proof.Machine

/-! ### Placement and strands (02 R19 R23 R24) -/

/-- Key of a core's range in the bazaar of m (02 R24). -/
def rangeKey (m gid : Nat) : Nat := 1024 * m + gid

/-- Part `i` of `k` chunks that are divided among `n`: its first chunk and how many it has. -/
def share (k n i : Nat) : Nat × Nat := (i * (k / n) + min i (k % n), k / n + if i < k % n then 1 else 0)

/-- The range of a core at placement: whole chunks divided among the participating clusters, then among their participating
cores (02 R24). -/
def Grid.range0 (g : Grid) (gid : Nat) : Nat × Nat :=
  let cls := (g.cores.map (· / 16)).eraseDups
  let here := g.cores.filter (· / 16 == gid / 16)
  if here.contains gid then
    let z := g.kcb.chunk
    let (a, k) := share ((g.nc + z - 1) / z) cls.length (cls.idxOf (gid / 16))
    let (b, n) := share k here.length (here.idxOf gid)
    (min g.nc ((a + b) * z), min g.nc ((a + b + n) * z))
  else (0, 0)

def Grid.range (g : Grid) (m gid : Nat) : Nat × Nat := (g.ranges.get? (rangeKey m gid)).getD (g.range0 gid)

/-- Chunks left in a range. -/
def Grid.chunks (g : Grid) (r : Nat × Nat) : Nat := (r.2 - r.1 + g.kcb.chunk - 1) / g.kcb.chunk

/-- The bazaar of m still holds a chunk. -/
def Grid.hasChunk (g : Grid) (m : Nat) : Bool :=
  let touched := (g.ranges.map Prod.fst).filter fun k => k / 1024 == m
  (g.cores ++ touched.map (· % 1024)).any fun i => decide ((g.range m i).1 < (g.range m i).2)

/-- The lowest m from `a` on, of `n`, whose bazaar still holds a chunk (02 R24). -/
def Grid.lowestFrom (g : Grid) (a : Nat) : Nat → Option Nat
  | 0 => none
  | n + 1 => if g.hasChunk a then some a else g.lowestFrom (a + 1) n

def Grid.lowestM (g : Grid) : Option Nat := g.lowestFrom 0 g.nd

/-- The die and core indices of the strand that a placed context runs next, if there is one. -/
def Grid.nextStrand (g : Grid) (c : Ctx) (key : Nat) : Option (Nat × Nat) :=
  if g.nc = 0 ∨ g.nd = 0 then none
  else if g.kcb.elastic then
    if c.run = .idle then (if g.joined.contains key then g.lowestM.map (·, 0) else some (0, 0))
    else if c.mIdx + 1 < g.nd then some (c.mIdx + 1, 0) else none
  else match g.rank c.gid with
    | none => none
    | some (m, q) =>
      if c.run = .idle then (if q < g.nc ∧ m < g.nd then some (m, q) else none)
      else if c.nIdx + g.coreCount < g.nc then some (c.mIdx, c.nIdx + g.coreCount)
      else if c.mIdx + g.memberCount < g.nd then some (c.mIdx + g.memberCount, q) else none

/-- Coordinates of an index over the levels of a kind, the lowest level fastest (02 R19). -/
def coords (kind : LevelKind) : List (LevelKind × Nat) → Nat → List Nat
  | [], _ => []
  | (k, t) :: l, n => if k = kind then n % t :: coords kind l (n / t) else 0 :: coords kind l n

/-- `$crd0` to `$crd5` of a strand (02 R20). -/
def Grid.crd (g : Grid) (m n : Nat) : Vector Word64 6 :=
  let lv := (g.kcb.levels.map Level.kind).zip g.trips
  let d := coords .die lv m
  let c := coords .core lv (if g.kcb.elastic then 0 else n)
  Vector.ofFn fun k => BitVec.ofNat 64 (d.getD k.val 0 + c.getD k.val 0)

/-- The registers of a strand at entry (02 R20). -/
def Grid.regs (g : Grid) : Regs :=
  { Regs.entry with
    s := Vector.ofFn fun (i : Fin 64) =>
      if i.val = 1 then blkWord g.pkt 1
      else if 2 ≤ i.val ∧ i.val ≤ 7 then BitVec.ofNat 64 (g.trips.getD (i.val - 2) 1) else 0 }

/-- An interlocked operation of a strand that has ended goes on, and its value reaches no register of the next (DEDUCED,
assumption log 34). -/
def OutOp.orphan (o : OutOp) : Option OutOp :=
  match o with
  | .ldg _ pa sz buf => some (.ldg .none pa sz buf)
  | .ldgv _ pa buf => some (.ldgv none pa buf)
  | .gath _ pas sz => some (.gath none pas sz)
  | .land _ v left => some (.land none v left)
  | .xlt .. => none
  | o => some o

/-- Strand entry: registers, loop state and tokens as 02 R20 gives, and `$scnt` 0 for the first strand; LS, tags, landing slots and the
counts stay (DEDUCED, assumption log 34). `keep` where a command of the strand that has ended is still to make its token done. -/
def Ctx.enter (c : Ctx) (g : Grid) (m n : Nat) (keep : Bool) : Ctx :=
  { c with
    run := .running
    mIdx := m
    nIdx := n
    triggered := false
    regs := g.regs
    sp := { Specials.zero with scnt := if c.run = .idle then 0 else c.sp.scnt, crd := g.crd m n, rngk := g.rngk }
    pc := g.entry
    next := g.entry
    idle := 0
    loop := LoopState.none
    rf := none
    bp := Bypass.none
    outst := c.outst.filterMap fun o => o.op.orphan.map fun p => { o with op := p }
    holds := c.holds.filter (· != .start)
    strand := c.strand + 1
    oldTok := if keep then c.oldTok.set c.strand c.regs.tok else [] }

/-- Nothing that a strand of the context has issued is under way in its core. -/
def Ctx.settled (c : Ctx) : Bool :=
  c.run != .running && c.flight.isEmpty && c.outst.isEmpty && c.lsPend.isEmpty && c.mstep.isNone && c.holds.isEmpty

/-- The strand of a context has ended, with no exposed result in flight: the next may start (02 R23). -/
def State.clear (s : State) (key : Nat) : Bool :=
  let c := s.ctx key
  c.run != .running && c.flight.isEmpty && !c.lsPend.any (·.op.isLoad) && c.mstep.isNone && c.holds.isEmpty
    && s.elReqs.all fun e => !(e.owner == some key && e.load?.isSome)

/-- A command of the context is still to make its token done (02 R36, 06 R143). -/
def State.owesToken (s : State) (key : Nat) : Bool :=
  let c := s.ctx key
  !c.queue.isEmpty || !c.active.isEmpty
    || c.lsPend.any (fun p => match p.op with
        | .tokenDone .. => true
        | _ => false)
    || s.engines.any fun e => (e.2.queue ++ e.2.loading.toList ++ e.2.pass.toList).any (·.key == key)

/-- The next strand of a context enters, if it has one. -/
def State.enterNext (s : State) (gid key : Nat) (g : Grid) : State :=
  let c := s.ctx key
  match g.nextStrand c key with
  | none => s
  | some (m, n) =>
    (s.setCtx key (c.enter g m n (s.owesToken key))).updGrid gid fun g =>
      if g.joined.contains key then { g with started := g.started + 1 } else g

/-- A strand starts on a context. At grid start the whole freeze domain is released at once (14 R284); later strands follow once no
exposed result is in flight (02 R23) (DEDUCED, assumption log 56). -/
def State.strandStart (s : State) (key : Nat) : State :=
  let c := s.ctx key
  match c.grid with
  | none => s
  | some gid =>
    match s.grids.get? gid with
    | none => s
    | some g =>
      if g.state ≠ .running then s
      else if c.holds.contains .start then
        (g.keys.filter fun k => (s.ctx k).cluster == c.cluster && (s.ctx k).holds.contains .start).foldl
          (fun s k => s.enterNext gid k g) s
      else if s.clear key ∧ c.run ≠ .stopped then s.enterNext gid key g
      else s

/-- The context in focus goes on to its next strand at the start of a tick: in a timetabled grid no event decides when, so that
`$scnt` does not depend on it (14 R293). -/
def State.nextStart (s : State) : State :=
  match s.cur.grid, s.grid? with
  | some gid, some g =>
    if g.state = .running ∧ !g.kcb.elastic ∧ s.cur.run = .ended ∧ s.clear s.focus then s.enterNext gid s.focus g else s
  | _, _ => s

/-- A context of the grid has no strand left to run (02 R35). -/
def Grid.overAt (g : Grid) (c : Ctx) (key : Nat) : Bool := c.run != .running && (g.nextStrand c key).isNone

def State.ctxOver (s : State) (g : Grid) (key : Nat) : Bool := g.overAt (s.ctx key) key

/-! ### Partitions and free slots (23 R335, 24 R353 R354, 25 R365 R366) -/

def State.coreEntry (s : State) (gid : Nat) : CoreMap := (s.coreMap.get? gid).getD CoreMap.reset

def State.clusterEntry (s : State) (cl : Nat) : ClusterMap := (s.clusterMap.get? cl).getD ClusterMap.reset

/-- A core issues bundles of two V syllables in two ticks; one that its spare serves does not (25 R366) (DEDUCED, assumption log 49). -/
def State.splitCore (s : State) (gid : Nat) : Bool :=
  let m := s.coreEntry gid
  !m.out && m.v0u == m.v1u

/-- A cluster with two cores out of service, or with one and an unusable spare, takes no work, nor does one that bring-up has left
out (25 R365, 27 R386). -/
def State.clusterOut (s : State) (cl : Nat) : Bool :=
  let n := ((List.range 16).filter fun i => (s.coreEntry (16 * cl + i)).out).length
  decide (n ≥ 2) || (n == 1 && (s.clusterEntry cl).spbad) || s.boot.badClusters.contains cl || s.boot.badDies.contains (cl / 16)

/-- The clusters on which a function's grids may be placed, ascending: none that a pending change takes away. -/
def State.partition (s : State) (fn : Nat) : List Nat :=
  let f := s.func fn
  (List.range 64).filter fun cl => f.clusters.getLsbD cl && (f.asked.getD f.clusters).getLsbD cl && !s.clusterOut cl

/-- A slot holds no context, or only one of those in `gone`. -/
def State.slotFree (s : State) (gone : List Nat) (key : Nat) : Bool :=
  let c := s.ctx key
  (c.grid.isNone && c.run != .running) || gone.contains key

/-- The free slots of a core that an elastic grid of footprint `foot` may take: the footprints of both contexts fit the LS,
and a split core takes no secondary. -/
def State.coreSlots (s : State) (gone : List Nat) (foot core : Nat) : List Nat :=
  let used (k : Nat) : Nat := if s.slotFree gone k then 0 else (s.ctx k).foot
  let p := if s.slotFree gone (2 * core) && decide (foot + used (2 * core + 1) ≤ 2 ^ 20) then [2 * core] else []
  let u := used (2 * core) + foot * p.length
  p ++ (if s.slotFree gone (2 * core + 1) && !s.splitCore core && decide (u + foot ≤ 2 ^ 20) then [2 * core + 1] else [])

/-- Every free slot of the partition; `die` 0 is any die, n only die n − 1. -/
def State.elasticSlots (s : State) (gone : List Nat) (fn foot die : Nat) : List Nat :=
  ((s.partition fn).filter fun cl => die == 0 || cl / 16 + 1 == die).flatMap fun cl =>
    (List.range 16).flatMap fun i => s.coreSlots gone foot (16 * cl + i)

/-- The members of a timetabled placement: dies ascending, clusters ascending, each with 16 free primary slots whose cores have
room for the footprint beside a secondary's (06 R128). -/
def State.members? (s : State) (gone : List Nat) (fn dies clus foot : Nat) : Option (List Member) :=
  let fits (core : Nat) : Bool :=
    s.slotFree gone (2 * core) && (s.slotFree gone (2 * core + 1) || decide (foot + (s.ctx (2 * core + 1)).foot ≤ 2 ^ 20))
  let free (cl : Nat) : Bool := (List.range 16).all fun i => fits (16 * cl + i)
  let ms := (List.range 4).filterMap fun d =>
    let cls := (s.partition fn).filter fun cl => cl / 16 == d && free cl
    if cls.length ≥ clus then some ⟨d, cls.take clus⟩ else none
  if ms.length ≥ dies then some (ms.take dies) else none

/-- A context as a grid begins on it: the LS cleared, the LTT loaded from its template (02 R21, 25 R362, 02 R34). -/
def State.freshCtx (s : State) (g : Grid) (gid key : Nat) : Ctx :=
  let c := Ctx.ofKey key
  let t := ((s.codes.get? g.code).bind (·.ltts[g.kcb.lttx]?)).getD c.ltt
  { c with
    ctxId := g.ctx, grid := some gid, profA := g.kcb.profA, elastic := g.kcb.elastic, foot := g.kcb.foot, ltt := t
    guard := !c.second && g.sguard
    holds := if g.kcb.elastic || (g.nextStrand c key).isNone then [] else [.start] }

/-- A grid begins on a context. -/
def State.occupy (s : State) (g : Grid) (gid key : Nat) : State :=
  ({ s with icache := s.icache.del key } : State).setCtx key (s.freshCtx g gid key)

/-- The running elastic grid that a free slot joins: the earliest started that has chunks left in the slot's cluster
(02 R26, 24 R354). -/
def State.joins (s : State) (key : Nat) : Option (Nat × Grid) :=
  let core := key / 2
  if key ≥ 2048 ∨ !s.slotFree [] key then none
  else
    (s.grids.filter fun (n, g) =>
      g.state == .running && g.kcb.elastic && g.cores.any (fun i => i / 16 == core / 16)
        && (s.partition g.func).contains (core / 16) && (s.coreSlots [] g.kcb.foot core).contains key && g.lowestM.isSome
        && (s.queue g.queue).live.contains n && (g.saved.get? key).isNone).foldl
      (fun b x => match b with
        | none => some x
        | some y => if x.2.order < y.2.order then some x else some y) none

/-- A free slot joins an elastic grid (DESIGN CHOICE, assumption log 43). -/
def State.join (s : State) (key : Nat) : State :=
  match s.joins key with
  | none => s
  | some (gid, g) =>
    (s.occupy g gid key).updGrid gid fun g => { g with keys := g.keys ++ [key], joined := g.joined ++ [key] }

/-- A strand begins on a context of the grid; a free slot joins a grid first (02 R26). -/
def execStrandStart (key : Nat) (s : State) : Out := .next ((s.join key).strandStart key)

/-! ### Early trigger (02 R37) -/

/-- Strands that the trigger waits for. -/
def Grid.strandCount (g : Grid) : Nat :=
  if g.kcb.elastic then (g.keys.length + g.saved.length - g.joined.length) * g.nd + g.started else g.nc * g.nd

/-- A strand that ended without ETRIG has writes that have not performed: stores, remote stores, or commands (02 R37). -/
def State.owing (s : State) (o : Nat × Nat × Nat) : Bool :=
  let c := s.ctx o.1
  s.reqq.any (fun t => t.key == o.1 && decide (t.seq < o.2.1)) || s.elReqs.any (·.owner == some o.1)
    || c.outst.any (fun x => x.op.isAtomic && decide (x.seq < o.2.1)) || c.lsPend.any (·.op.isRemoteStore)
    || (c.queue ++ c.active).any (fun x => decide (x.strand ≤ o.2.2))
    || s.engines.any fun e => (e.2.queue ++ e.2.loading.toList ++ e.2.pass.toList).any fun x =>
        x.key == o.1 && decide (x.strand ≤ o.2.2)

def State.earlyTrigger (s : State) (gid : Nat) : State :=
  match s.grids.get? gid with
  | none => s
  | some g =>
    if g.state = .running ∧ g.early ∧ g.triggered ≥ g.strandCount ∧ g.owed.all (!s.owing ·) then { s with grids := s.grids.set gid { g with trig := true } }
    else s

def execEarlyTrigger (grid : Nat) (s : State) : Out := .next (s.earlyTrigger grid)

/-! ### The chunk bazaar (02 R25 R26) -/

/-- A core takes its lowest chunk, or steals the upper half of the largest range of its cluster: first index, count, and
the grid after it (DESIGN CHOICE, assumption log 43). -/
def Grid.takeChunk (g : Grid) (m gid : Nat) : Nat × Nat × Grid :=
  let z := g.kcb.chunk
  let put (h : Grid) (i : Nat) (r : Nat × Nat) : Grid := { h with ranges := h.ranges.set (rangeKey m i) r }
  let (lo, hi) := g.range m gid
  if lo < hi then
    let n := min z (hi - lo)
    (lo, n, put g gid (lo + n, hi))
  else
    let peers := (List.range 16).map (· + 16 * (gid / 16))
    let most := peers.foldl (fun b i => max b (g.chunks (g.range m i))) 0
    match peers.find? (fun i => g.chunks (g.range m i) == most) with
    | none => (0, 0, g)
    | some v =>
      if most = 0 then (0, 0, g)
      else
        let (vlo, vhi) := g.range m v
        let cut := vlo + z * (most - (most + 1) / 2)
        let n := min z (vhi - cut)
        (cut, n, put (put g v (vlo, cut)) gid (cut + n, vhi))

/-! ### Interlocked values (03 R61, 08 R172 R176 R177 R180 R181, 07 R167) -/

/-- Elements of a gather, from its bytes. -/
def gathLanes (sz : GathSize) (bs : List Byte) : Vec :=
  let a := bs.toArray
  Vec.ofLanes fun i => sz.load ((List.range sz.bytes).map fun k => a.getD (sz.bytes * i.val + k) 0)

/-- The value of an operation that has performed reaches the context in focus. -/
def State.arrive (s : State) (o : Outst) : State :=
  let bs := o.data.getD []
  match o.op with
  | .ldg d _ sz _ => s.mapCur (d.write (sz.load bs))
  | .ldgv d _ _ => s.mapCur (writeVec d (vecOfBytes bs))
  | .gath d _ sz => s.mapCur (writeVec d (gathLanes sz bs))
  | .xlt h va buf => if s.cur.run = .stopped then s else s.walkHandle h va buf o.addr (some o.pos) o.seq
  | .atomic d _ _ _ => s.mapCur (d.write (BitVec.ofNat 64 (leNat bs)))
  | .vamor d _ _ _ => s.mapCur (writeVec d (vecOfBytes bs))
  | .chnk d =>
    match s.cur.grid, s.grid? with
    | some gid, some g =>
      let (first, n, g1) := g.takeChunk s.cur.mIdx s.cur.gid
      ({ s with grids := s.grids.set gid g1 } : State).mapCur fun c =>
        (SDst.s (d + 1)).write (BitVec.ofNat 64 n) ((SDst.s d).write (BitVec.ofNat 64 first) c)
    | _, _ => s
  | .land .. => s

/-- The data of an XRECV, which comes by its ticks alone (14 R291). -/
def OutOp.isLand (o : OutOp) : Bool :=
  match o with
  | .land .. => true
  | _ => false

/-- The oldest operation of a context whose value is awaited from outside the core. -/
def Ctx.firstOut (c : Ctx) : Option Nat := c.outst.findIdx? fun o => !o.op.isLand

/-- Operation i of the context performs, if it has not yet, and arrives. -/
def State.arriveAt (s : State) (i : Nat) : State :=
  match (s.cur.outst[i]?).filter (!·.op.isLand) with
  | none => s
  | some o =>
    let s1 := s.performTo s.cur.reqCore o.seq
    match s1.cur.outst[i]? with
    | none => s1
    | some o => (s1.mapCur fun c => { c with outst := c.outst.eraseIdx i }).arrive o

def execInterlockedValueArrive (key i : Nat) (s : State) : Out := .next (s.onKey key fun s => s.arriveAt i)

/-- The results of a context whose latency has ended land, in issue order (03 R58 R59). -/
def execResultLand (key : Nat) (s : State) : Out := .next (s.updCtx key Ctx.landDue)

/-! ### Instruction fetch (07 R157, 06 R138) -/

/-- The line of text that the fetch of the context in focus lacks. -/
def State.missing (s : State) : Option Nat :=
  match s.nextBundle.2 with
  | some (.miss l) => some l
  | _ => none

/-- The missing line arrives from memory; a line that may not be fetched is a fault at the fetch (25 R364). -/
def State.icacheFill (s : State) : State :=
  match s.missing with
  | none => s
  | some line =>
    let va := BitVec.ofNat 64 (64 * line)
    if s.cur.firmware then s.fillLine s.focus line (Vector.ofFn fun i => s.cur.ls.word (64 * line + 8 * i.val))
    else match lttXlate s.cur.ltt va 64 8 3 4 with
    | .error f => s.takeFault ⟨f.1, 0, 0, f.2.1, f.2.2⟩
    | .ok p =>
      match s.physFault s.cur.master s.cur.ctxId va p.1 64 3 with
      | some f => s.takeFault ⟨f.1, 0, 0, f.2.1, f.2.2⟩
      | none => s.fillLine s.focus line (Vector.ofFn fun i => BitVec.ofNat 64 (leNat (s.pread (p.1 + 8 * i.val) 8)))

def execIcacheFill (key : Nat) (s : State) : Out := .next (s.onKey key State.icacheFill)

/-! ### Elastic LS requests (06 R131) -/

/-- An access of the syllable at `pos` of a bundle that issued at schedule count `born`. -/
def ElReq.ofSyllable (e : ElReq) (born : Nat) (pos : Fin 8) : Bool :=
  match e.job with
  | .access p => p.born == born && p.pos == pos
  | _ => false

/-- The access of a granted request: the freeze of a syllable ends with its last (06 R131). -/
def State.elRun (s : State) (e : ElReq) : State :=
  match e.job, e.owner with
  | .write bs, _ => if (s.ctx e.key).grid.isSome then s.lsWriteOf e.key e.addr bs else s
  | .page cl p last, _ => s.pageLine cl p e.key e.addr e.len last
  | .load cl line, _ => s.imageLine cl line e.key
  | .access p, some k =>
    s.onKey k fun s =>
      let more := s.elReqs.any fun x => x.owner == some k && x.ofSyllable p.born p.pos
      let s1 := if more then s else s.mapCur fun c => { c with holds := c.holds.filter (· != .elastic p.born p.pos) }
      match s1.runLs p with
      | .error f => s1.takeFault ⟨f.1, posMask p.pos, p.addr, f.2.1, f.2.2⟩
      | .ok s2 => s2
  | .sig id, some k => s.onKey k fun s => s.sigWrite id
  | .copyRead id, some k => s.onKey k fun s => s.copyRead id
  | .copyWrite id, some k => s.onKey k fun s => s.copyWrite id e.key
  | .copyRec id, some k => s.onKey k fun s => s.copyRec id
  | .word id bs, some k =>
    let s1 := if (s.ctx e.key).grid.isSome then s.lsWriteOf e.key e.addr bs else s
    s1.onKey k fun s => s.copyWord id
  | _, none => s

/-- Request i is granted, if it was made before tick `upto` of its LS, its banks are free and no request goes before it. -/
def State.elGrantBy (s : State) (upto i : Nat) : State :=
  match s.elReqs[i]? with
  | none => s
  | some e => if s.elFree upto (i, e) then (({ s with elReqs := s.elReqs.eraseIdx i } : State).elTake e).elRun e else s

/-- Request i is granted in the latest tick of its LS (DEDUCED, assumption log 29). -/
def State.elGrant (s : State) (i : Nat) : State :=
  match s.elReqs[i]? with
  | none => s
  | some e => s.elGrantBy (s.elNow (lsCore e.key)) i

def execElasticLsGrant (i : Nat) (s : State) : Out := .next (s.elGrant i)

/-! ### The starvation guard (02 R34) -/

/-- After 4,096 ticks in which the secondary bundle was ready and did not issue, the primary's domain is held for a tick. -/
def execStarvationGuardHold (core : Nat) (s : State) : Out :=
  .next (s.updCtx (2 * core) fun c =>
    if c.guard && decide (c.starve ≥ 4096) then { c with starve := 0, holds := c.holds ++ [.tick 1] } else c)

/-! ### Barriers (02 R35, 07 R164) -/

/-- The grid's contexts in a cluster or on a die; for the kiosk cores of a base die see `kioskPeers`. -/
def State.participants (s : State) (g : Grid) (die : Bool) (place : Nat) : List Nat :=
  g.keys.filter fun k => (s.ctx k).place die == place

/-- Every participant has arrived or ended; a pre-empted one is waited for until it has been resumed (02 R35)
(DEDUCED, assumption log 50). -/
def State.barrierReady (s : State) (g : Grid) (die : Bool) (place n : Nat) : Bool :=
  let ps := s.participants g die place
  (g.arrived.any fun a => a.1 == die && a.2.1 == place && a.2.2.1 == n)
    && ps.all (fun k => g.arrived.contains (die, place, n, k) || s.ctxOver g k)
    && g.saved.all (fun e => e.2.place die != place || g.overAt e.2 e.1)

/-- Barrier n passes: its arrivals are used up and its participants go on. -/
def State.barrierPass (s : State) (gid : Nat) (die : Bool) (place n : Nat) : State :=
  match s.grids.get? gid with
  | none => s
  | some g =>
    if s.barrierReady g die place n then
      let ks := ((g.arrived.filter fun a => a.1 == die && a.2.1 == place && a.2.2.1 == n).map fun a => a.2.2.2).filter
        g.keys.contains
      let g1 := { g with arrived := g.arrived.filter fun a => !(a.1 == die && a.2.1 == place && a.2.2.1 == n) }
      ({ s with grids := s.grids.set gid g1 } : State).updKeys ks fun c =>
        { c with holds := c.holds.filter fun h => match h with
            | .bar d b => !(d == die && b.val == n)
            | _ => true }
    else s

def execBarrierPass (grid : Nat) (die : Bool) (place n : Nat) (s : State) : Out := .next (s.barrierPass grid die place n)

/-- Two participants of a scope wait at different barriers: the watchdog's record names the lower and the scope. -/
def State.barrierWatchdog (s : State) (gid : Nat) (die : Bool) (place : Nat) : State :=
  match s.grids.get? gid with
  | none => s
  | some g =>
    let ns := ((g.arrived.filter fun a => a.1 == die && a.2.1 == place).map fun a => a.2.2.1).eraseDups
    if ns.length ≥ 2 then
      let n := ns.foldl min 15
      let f : FaultWords := ⟨16, 0, 0, BitVec.ofNat 64 (n + 16 * (if die then 2 else 1)), 0⟩
      match g.keys.head? with
      | none => s
      | some k =>
        s.endGrid gid (faultRecord { s.ctx k with second := false, sp := { (s.ctx k).sp with crd := Vector.replicate 6 0#64 } } g f)
    else s

def execBarrierWatchdog (grid : Nat) (die : Bool) (place : Nat) (s : State) : Out := .next (s.barrierWatchdog grid die place)

/-! ### Alignment points (14 R284 R285) -/

/-- The placed clusters of a die. -/
def Grid.dieClusters (g : Grid) (die : Nat) : List Nat := (g.members.filter fun m => m.die == die).flatMap Member.clusters

/-- Every core of a domain has ended. -/
def State.domainOver (s : State) (g : Grid) (cl : Nat) : Bool :=
  (g.keys.filter fun k => (s.ctx k).cluster == cl).all fun k => s.ctxOver g k

/-- Every domain of a die has ended. -/
def State.dieOver (s : State) (g : Grid) (die : Nat) : Bool := (g.dieClusters die).all fun cl => s.domainOver g cl

/-- Every domain of a die has arrived at its next point. -/
def State.dieArrived (s : State) (g : Grid) (die : Nat) : Bool :=
  (g.dieClusters die).all fun cl => (g.point.get? cl).isSome || s.domainOver g cl

def Grid.releasedOf (g : Grid) (die : Nat) : Nat := (g.released.get? die).getD 0

/-- Points that a die has reached. -/
def State.reachedOf (s : State) (g : Grid) (die : Nat) : Nat :=
  g.releasedOf die + (if s.dieArrived g die then 1 else 0)

/-- Messages "point reached" that a die has had from another. -/
def Grid.heardOf (g : Grid) (die from_ : Nat) : Nat :=
  (g.heard.filter fun h => h.1 == die && h.2.1 == from_).foldl (fun n h => n + h.2.2) 0

/-- A die has heard from every die of the package, and its package from every other (DEDUCED, assumption log 17). -/
def State.mayRelease (s : State) (g : Grid) (die : Nat) : Bool :=
  let n := g.releasedOf die + 1
  s.dieArrived g die && !s.dieOver g die
    && g.members.all (fun m => m.die == die || s.dieOver g m.die || decide (g.heardOf die m.die ≥ n))
    && (List.range (g.kcb.pkgs - 1)).all (fun p => decide ((g.pkgHeard.get? (p + 1)).getD 0 ≥ n))

/-- A die's contexts wait for the release of a resumption. -/
def State.resuming (s : State) (g : Grid) (die : Nat) : Bool :=
  g.keys.any fun k => (s.ctx k).die == die && (s.ctx k).holds.contains .resume

/-- The domains of a die are released: their windows open, and their contexts go on (14 R286). -/
def State.releaseDie (s : State) (gid : Nat) (g : Grid) (die : Nat) : State :=
  if g.state = .running ∧ s.mayRelease g die ∧ !s.resuming g die then
    let cls := g.dieClusters die
    let scnt (cl : Nat) : Nat :=
      match g.keys.find? (fun k => (s.ctx k).cluster == cl) with
      | some k => (s.ctx k).sp.scnt.toNat
      | none => 0
    let g1 := { g with
      window := cls.foldl (fun t cl => match g.point.get? cl with
        | some w => t.set cl (w, scnt cl)
        | none => t) g.window
      point := g.point.filter fun e => !cls.contains e.1
      released := g.released.set die (g.releasedOf die + 1) }
    ({ s with grids := s.grids.set gid g1 } : State).updKeys (g.keys.filter fun k => cls.contains (s.ctx k).cluster) fun c =>
      { c with holds := c.holds.filter fun h => match h with
          | .tkaln _ => false
          | _ => true }
  else s

/-- The contexts of a die go on after a resumption, once the die has heard of it from every other die of the grid and every other package
(14 R284 R285); with the last of them the resumption is over. -/
def State.resumeDie (s : State) (gid : Nat) (g : Grid) (die : Nat) : State :=
  match g.resume with
  | none => s
  | some (hs, ps) =>
    if (g.members.all fun m => m.die == die || s.dieOver g m.die || hs.contains (die, m.die))
        ∧ (List.range (g.kcb.pkgs - 1)).all (fun p => ps.contains (p + 1)) then
      let t := s.updKeys (g.keys.filter fun k => (s.ctx k).die == die) fun c => { c with holds := c.holds.filter (· != .resume) }
      if g.keys.any fun k => (t.ctx k).holds.contains .resume then t else t.updGrid gid fun g => { g with resume := none }
    else s

/-- Die `die` hears that die `from_` has reached its point, a resumption before the point that follows it, and releases its domains once
it has heard from all (DEDUCED, assumption log 47). -/
def State.pointReached (s : State) (gid die from_ : Nat) : State :=
  match s.grids.get? gid with
  | none => s
  | some g =>
    if g.state ≠ .running then s
    else
      let other := decide (from_ ≠ die) && g.members.any fun m => m.die == from_
      match g.resume.filter fun r => s.resuming g die || (other && !r.1.contains (die, from_)) with
      | some (hs, ps) =>
        let g1 := { g with resume := some (if other then hs ++ [(die, from_)] else hs, ps) }
        ({ s with grids := s.grids.set gid g1 } : State).resumeDie gid g1 die
      | none =>
        let g1 := if g.heardOf die from_ < s.reachedOf g from_ ∧ other then { g with heard := g.heard ++ [(die, from_, 1)] } else g
        ({ s with grids := s.grids.set gid g1 } : State).releaseDie gid g1 die

def execPointReached (grid die from_ : Nat) (s : State) : Out := .next (s.pointReached grid die from_)

/-- Package `from_` has reached the point; every die of this package that may release does so (DEDUCED, assumption log 17). -/
def State.packageReached (s : State) (gid from_ : Nat) : State :=
  match s.grids.get? gid with
  | none => s
  | some g =>
    if from_ = 0 ∨ from_ ≥ g.kcb.pkgs ∨ g.state ≠ .running then s
    else match g.resume.filter fun r => !r.2.contains from_ with
    | some (hs, ps) =>
      let g1 := { g with resume := some (hs, ps ++ [from_]) }
      g1.members.foldl (fun s m => s.resumeDie gid g1 m.die) { s with grids := s.grids.set gid g1 }
    | none =>
      let g1 := { g with pkgHeard := g.pkgHeard.set from_ ((g.pkgHeard.get? from_).getD 0 + 1) }
      g1.members.foldl (fun s m => match s.grids.get? gid with
        | some g => s.releaseDie gid g m.die
        | none => s) { s with grids := s.grids.set gid g1 }

def execPackageReached (grid from_ : Nat) (s : State) : Out := .next (s.packageReached grid from_)

/-! ### Faults from outside the syllables (02 R39, 25 R364) -/

/-- A fault that the dispatcher receives for a context: its grid ends. An uncorrectable error in a line that no grid reads is logged,
and waits for its next reader (27 R379) (DEDUCED, assumption log 55). -/
def execGridFault (key : Nat) (f : FaultWords) (s : State) : Out :=
  .next (s.onKey key fun s =>
    if s.cur.grid.isSome then (s.countUE f).takeFault f
    else if f.code = 14 then
      let s1 := s.countUE f
      { s1 with bad := insertNat (f.d0.toNat / 64) s1.bad }
    else s)

end Sys2Proof.Machine
end

