-- ==== Sys2Proof/Machine/Queues.lean ====
section
/-! DEFINITION. Work queues and the dispatcher: doorbells, fetching, the rejection checks, arbitration and placement
(24 R344 to R354, 16 R317, 02 R18 R21). -/
namespace Sys2Proof.Machine

/-! ### The dispatcher's accesses in a queue's context (24 R344, 25 R357) -/

/-- Physical address of a virtual byte through a context's page tables: `perm` 1 read, 2 write. -/
def State.queueAddr (s : State) (ctx : BitVec 8) (va perm : Nat) : Option Nat :=
  if va ≥ 2 ^ 48 then none
  else match s.walk none ctx (s.rootOf ctx) (BitVec.ofNat 64 va) 0 with
    | .handle h => if (if perm = 1 then h.r else h.w) then some (h.pa + (va - h.va)) else none
    | _ => none

/-- A byte that a read of the dispatcher does not get: nothing serves it, an uncorrectable error, or a failed host read (05 R110). -/
def State.unreadable (s : State) (ctx : BitVec 8) (pa : Nat) : Bool :=
  !s.serves (s.target pa) || (s.readFault ctx pa 1).isSome

/-- Bytes of a virtual range, none where one of them cannot be read. -/
def State.vread (s : State) (ctx : BitVec 8) (va n : Nat) : Option (List Byte) :=
  (List.range n).mapM fun i => ((s.queueAddr ctx (va + i) 1).filter fun pa => !s.unreadable ctx pa).map s.pbyte

/-- A byte that a write of the dispatcher does not reach: sealed, a signal counter (24 R349), or behind a link that retrains. -/
def State.unwritable (s : State) (ctx : BitVec 8) (pa : Nat) : Bool :=
  !s.serves (s.target pa) || (s.sealed pa 1).isSome || (s.ctrFunc pa).isSome || (s.target pa == 0x0C && s.linkDown ctx)

/-- Bytes of a record; one that cannot be written is dropped. -/
def State.vwrite (s : State) (ctx : BitVec 8) (va : Nat) (bs : List Byte) : State :=
  bs.zipIdx.foldl (fun s (b, i) =>
    match s.queueAddr ctx (va + i) 2 with
    | none => s
    | some pa => if s.unwritable ctx pa then s else s.pwrite pa [b]) s

/-! ### Packets and records (24 R347 R349 R351) -/

def Launch.type (l : Launch) : Nat := blk l.words 0 0 8
def Launch.ordered (l : Launch) : Bool := (blkWord l.words 0).getLsbD 8
def Launch.trigDep (l : Launch) : Bool := (blkWord l.words 0).getLsbD 9
def Launch.early (l : Launch) : Bool := (blkWord l.words 0).getLsbD 10
def Launch.prio (l : Launch) : Nat := blk l.words 0 11 3
def Launch.irq (l : Launch) : Bool := (blkWord l.words 0).getLsbD 14
def Launch.die (l : Launch) : Nat := blk l.words 0 16 3
def Launch.kidx (l : Launch) : Nat := blk l.words 0 24 6
def Launch.code (l : Launch) : Nat := blk l.words 0 32 32
def Launch.arg (l : Launch) : Word64 := blkWord l.words 1
def Launch.tc (l : Launch) (k : Nat) : Nat := blk l.words (2 + k / 2) (32 * (k % 2)) 32
def Launch.level (l : Launch) : Nat := min 7 (l.prio + l.age)

/-- Function that owns a queue (23 R335). -/
def queueFunc (q : Nat) : Nat := q / 32 + 1

/-- A completion or status record. -/
def recordWords (status reason q seq : Nat) (aovr trig : Bool) (fault : List Word64) : List Word64 :=
  [BitVec.ofNat 64 (status + (if aovr then 2 ^ 8 else 0) + (if trig then 2 ^ 9 else 0) + 2 ^ 16 * q + 2 ^ 28 * reason),
    BitVec.ofNat 64 (seq % 2 ^ 32), 0, 0, 0, 0, 0, 0] ++ (fault ++ List.replicate 8 0).take 8

/-- A record at an address; 0 means none. -/
def State.postRecord (s : State) (ctx : BitVec 8) (addr : Nat) (ws : List Word64) : State :=
  if addr = 0 then s else s.vwrite ctx addr (bytesOfWords ws)

/-- The completion record of a packet, then the completion interrupt (26 R370 R371) (DEDUCED, assumption log 21). -/
def State.postCpl (s : State) (ctx : BitVec 8) (q : Nat) (pkt : List Word64) (ws : List Word64) : State :=
  let s1 := s.postRecord ctx (blk pkt 7 0 48) ws
  if (blkWord pkt 0).getLsbD 14 then s1.cause (queueFunc q) 0 else s1

/-- The signal of a packet, which follows its record. -/
def State.signal (s : State) (q : Nat) (pkt : List Word64) : State :=
  if (blkWord pkt 6).getLsbD 10 then
    s.updFunc (queueFunc q) fun f =>
      let n := blk pkt 6 0 10
      { f with ctrs := f.ctrs.set n (f.ctr n + BitVec.ofNat 64 (blk pkt 6 32 32)) }
  else s

/-- A launch that starts nothing completes: status 0, or 2 with its reason (DEDUCED, assumption log 21). -/
def State.finishLaunch (s : State) (q : Nat) (l : Launch) (status reason : Nat) : State :=
  (s.postCpl (s.queue q).ctx q l.words (recordWords status reason q l.seq false false [])).signal q l.words

/-- The queue halts with a status record at OVRADDR (24 R345). -/
def State.haltQueue (s : State) (q status seq : Nat) : State :=
  let x := s.queue q
  let s1 := s.updQueue q fun x => { x with halted := true }
  (s1.postRecord x.ctx x.ovr.toNat (recordWords status 0 q seq false false [])).cause (queueFunc q) 2

/-! ### Host writes in order (26 R368, 27 R386) -/

/-- A host write of a function comes after every earlier one that waits on its link: `ws` is the write as it waits. -/
def State.afterWaits (s : State) (fn : Nat) (ws : List HostWait) (k : Out) : Out :=
  if (s.func fn).waits.isEmpty then k else .next (s.updFunc fn fun f => { f with waits := f.waits ++ ws })

/-- A function that exists: the PF, and a VF that the PF has created (23 R335; DEDUCED, assumption log 59). -/
def State.funcLives (s : State) (fn : Nat) : Bool := fn == 0 || (s.func fn).alive

/-- The target whose access table covers a register: the queue registers, PREEMPT and the control blocks stand at the dispatcher, the seal
registers and the privileged specials at the management core (23 R336 R338 R342) (DEDUCED, assumption log 57). -/
def windowTarget (off : Nat) : Option Nat :=
  if off = 0x0200 ∨ (0x2000 ≤ off ∧ off < 0x3000) ∨ (0x10000 ≤ off ∧ off < 0x10800) then some 0x80
  else if (0x8000 ≤ off ∧ off < 0x10000) ∨ (0x20000 ≤ off ∧ off < 0x40000) then some 0x81
  else none

/-- The host's function reaches a register of its window: bit 0 to read, 1 to write (23 R339). -/
def State.reaches (s : State) (fn off bit : Nat) : Bool := (windowTarget off).all fun t => s.admits t (0x900 + fn) bit none

/-- A write of a register of a function's window, which is dead until bring-up is over, and where the function does not exist; a write
that its target does not admit does not perform. -/
def State.inOrder (s : State) (fn off : Nat) (w : Word64) (k : Out) : Out :=
  if s.boot.step ≠ 8 ∨ !s.funcLives fn ∨ !s.reaches fn off 1 then .next s else s.afterWaits fn [.reg off w] k

/-- Offset of register `r` of a queue in its function's window (24 R344). -/
def queueOff (q r : Nat) : Nat := 0x10000 + 0x40 * (q % 32) + r

/-! ### Doorbells, fetching and reset (24 R345 R346) -/

def Queue.fits (x : Queue) (t : Word32) : Bool := decide ((t - x.head).toNat ≤ 2 ^ x.log2)

def execDoorbell (q : Nat) (t : Word32) (s : State) : Out :=
  s.inOrder (queueFunc q) (queueOff q 0x10) (t.setWidth 64)
    (let x := s.queue q
     if !x.en ∨ x.halted then .next s
     else if x.fits t then .next (s.updQueue q fun x => { x with tail := t })
     else .next (s.haltQueue q 3 x.head.toNat))

/-- The next packet is fetched, or the fetch halts the queue. -/
def State.packetFetch (s : State) (q : Nat) : State :=
  let x := s.queue q
  if !x.en ∨ x.halted ∨ x.head = x.tail then s
  else match s.vread x.ctx (x.base.toNat + 64 * (x.head.toNat % 2 ^ x.log2)) 64 with
    | none => s.haltQueue q 6 x.head.toNat
    | some bs => s.updQueue q fun x =>
        { x with head := x.head + 1, waiting := x.waiting ++ [⟨x.head.toNat, wordsOfBytes 8 bs, 0, 0⟩] }

def execPacketFetch (q : Nat) (s : State) : Out := .next (s.packetFetch q)

/-- Launches that have not started are discarded: status 5, no signal. Grids already started run on (24 R346). -/
def execQueueReset (q : Nat) (s : State) : Out :=
  let x := s.queue q
  let s1 := x.waiting.foldl (fun s l => s.postCpl x.ctx q l.words (recordWords 5 0 q l.seq false false [])) s
  s.inOrder (queueFunc q) (queueOff q 0x20) 4 <| .next (s1.updQueue q fun x => { x with waiting := [], head := 0, tail := 0, halted := false, since := s.starts })

/-! ### Readiness (24 R347 R349 R350) -/

/-- The wait counter has reached the wait value. -/
def State.waited (s : State) (q : Nat) (l : Launch) : Bool :=
  let ctr := (s.func (queueFunc q)).ctr (blk l.words 5 0 10)
  !(blkWord l.words 5).getLsbD 10
    || decide ((ctr.truncate 32 - BitVec.ofNat 32 (blk l.words 5 32 32) : Word32).toNat < 2 ^ 31)

/-- The preceding launch since the queue's last reset has fired its early trigger or has retired. -/
def State.preceded (s : State) (q : Nat) (l : Launch) : Bool :=
  let p := (l.seq + 2 ^ 32 - 1) % 2 ^ 32
  s.grids.all fun (n, g) => g.trig || !(g.queue == q && g.seq == p && decide ((s.queue q).since ≤ n))

/-- The head launch of a queue may start: every earlier one has started. -/
def State.readyHead (s : State) (q : Nat) : Option Launch :=
  match (s.queue q).waiting with
  | [] => none
  | l :: _ =>
    let order := if l.ordered then (s.queue q).live.isEmpty else !l.trigDep || s.preceded q l
    if order && s.waited q l then some l else none

/-! ### The rejection checks (24 R348) -/

/-- The code object that a packet names in the queue's context. -/
def State.codeOf (s : State) (q : Nat) (l : Launch) : Option CodeObj :=
  match s.codes.get? l.code with
  | some c => if c.ctx = (s.queue q).ctx ∧ c.ready then some c else none
  | none => none

def State.kcbOf (s : State) (q : Nat) (l : Launch) : Option Kcb := (s.codeOf q l).bind (·.kcbs[l.kidx]?)

/-- Resolved trip counts of levels 0 to 5; 1 for an unused level (02 R17 R20). -/
def Kcb.trips (k : Kcb) (l : Launch) : List Nat :=
  k.levels.map fun v => match v.kind, v.arg with
    | .unused, _ => 1
    | _, some a => l.tc a.val
    | _, none => v.count

def Kcb.ofKind (k : Kcb) (l : Launch) (kind : LevelKind) : List Nat :=
  ((k.levels.zip (k.trips l)).filter fun x => x.1.kind == kind).map Prod.snd

/-- The key field of the argument block; none where it cannot be read (05 R110). -/
def State.argKey (s : State) (q : Nat) (l : Launch) : Option Word64 :=
  if l.arg = 0 then some 0
  else (s.vread (s.queue q).ctx l.arg.toNat 8).map fun bs => BitVec.ofNat 64 (leNat bs)

/-- The contexts on which a grid of the launch could be placed with those of `gone` away. -/
inductive Placed where
  | members (ms : List Member)
  | slots (ks : List Nat)

def State.place? (s : State) (gone : List Nat) (q : Nat) (l : Launch) (k : Kcb) : Option Placed :=
  if k.elastic then
    match s.elasticSlots gone (queueFunc q) k.foot l.die with
    | [] => none
    | ks => some (.slots ks)
  else (s.members? gone (queueFunc q) k.dies k.clus k.foot).map .members

/-- Every context key: the partition as a whole. -/
def allKeys : List Nat := List.range 2048

/-- A reserved TYPE, or a reserved DIE of a launch that is not known to be timetabled (DEDUCED, assumption log 22). -/
def State.reservedField (s : State) (q : Nat) (l : Launch) : Bool :=
  decide (l.type > 2) || (l.type == 1 && decide (l.die ≥ 5) && (match s.kcbOf q l with
    | some k => k.elastic
    | none => true))

/-- A kiosk start that cannot be met: no such kiosk, one that runs or whose base die is out of service, or one barred to the function (DEDUCED, assumption log 30). -/
def State.kioskBarred (s : State) (q : Nat) (l : Launch) : Bool :=
  let k := l.tc 0
  decide (k > 127) || (s.ctx (2048 + k)).run == .running
    || !s.admits (0x11 + k / 16) (0x900 + queueFunc q) 1 (some (s.queue q).ctx)

/-- The reason for which a launch is rejected, the lowest that applies; 0 for none (DEDUCED, assumption log 22). -/
def State.rejection (s : State) (q : Nat) (l : Launch) : Nat :=
  if s.reservedField q l then 1
  else if l.type = 0 then 0
  else match s.codeOf q l with
    | none => 2
    | some c =>
      if l.type = 2 then (if c.kiosks[l.kidx]?.isNone then 3 else if s.kioskBarred q l then 7 else 0)
      else match c.kcbs[l.kidx]? with
        | none => 3
        | some k =>
          if (k.ofKind l .temporal).any (· > 65535) then 4
          else if (s.argKey q l).isNone then 5
          else if (s.place? allKeys q l k).isNone then 6
          else 0

/-- A spatial or temporal trip count is 0 (02 R18). -/
def Kcb.empty (k : Kcb) (l : Launch) : Bool := (k.trips l).any (· == 0)

/-- A ready launch that needs no free context, or whose grid can be placed now. -/
def State.startable (s : State) (q : Nat) (l : Launch) : Bool :=
  l.type != 1 || s.rejection q l != 0 || (match s.kcbOf q l with
    | some k => k.empty l || (s.place? [] q l k).isSome
    | none => true)

/-! ### Arbitration (24 R352 R356) -/

/-- A grid's level. -/
def Grid.level (g : Grid) : Nat := blk g.pkt 0 11 3

/-- Keys of a timetabled placement in rank order. -/
def Member.keys (m : Member) : List Nat := m.clusters.flatMap fun cl => (List.range 16).map fun i => 2 * (16 * cl + i)

def ttKeys (ms : List Member) : List Nat := ms.flatMap Member.keys

/-- Position-wise renumbering. -/
def renumber (a b : List Nat) (n : Nat) : Nat :=
  match (a.zip b).find? (fun p => p.1 == n) with
  | some p => p.2
  | none => n

/-- A cluster's engine is free for a grid that brings one back, once the contexts of `gone` are away. -/
def State.engineFree (s : State) (gone : List Nat) (cl : Nat) : Bool :=
  match (s.engine cl).bound.bind (s.grids.get? ·) with
  | none => (s.engine cl).bound.isNone
  | some g => g.keys.all gone.contains

/-- The slot for a saved elastic strand, in its original cluster (24 R356); an engine it brings back must find its place. -/
def State.strandSlot (s : State) (gone : List Nat) (g : Grid) (key : Nat) : Option Nat :=
  let cl := key / 32
  let ks := key :: (List.range 32).map (· + 32 * cl)
  if !(s.partition g.func).contains cl || ((g.savedEng.get? cl).isSome && !s.engineFree gone cl) then none
  else ks.find? fun k =>
    (k == key || (g.saved.get? k).isNone) && (s.coreSlots gone g.kcb.foot (k / 2)).contains k

/-- The placement on which a pre-empted timetabled grid resumes. -/
def State.wholePlace (s : State) (gone : List Nat) (g : Grid) : Option (List Member) :=
  (s.members? gone g.func g.kcb.dies g.kcb.clus g.kcb.foot).filter fun ms =>
    let cl := renumber (g.members.flatMap Member.clusters) (ms.flatMap Member.clusters)
    g.savedEng.all fun e => s.engineFree gone (cl e.1)

/-- Saved contexts of the grid could be restored, once those of `gone` are away. -/
def State.restorable (s : State) (gone : List Nat) (g : Grid) : Bool :=
  if g.kcb.elastic then g.saved.any fun e => (s.strandSlot gone g e.1).isSome else (s.wholePlace gone g).isSome

/-- A grid with saved contexts that could be restored now. -/
def State.resumable (s : State) (g : Grid) : Bool := !g.saved.isEmpty && g.fault.isNone && s.restorable [] g

/-- Queues whose head launch is ready and can start, with their launches. -/
def State.ready (s : State) : List (Nat × Launch) :=
  s.queues.filterMap fun (q, _) => match s.readyHead q with
    | some l => if s.startable q l then some (q, l) else none
    | none => none

/-- A pre-empted grid of at least this level goes first. -/
def State.resumeFirst (s : State) (level : Nat) : Bool := s.grids.any fun (_, g) => decide (g.level ≥ level) && s.resumable g

/-- The queue a function serves next, from `nextQ` round. -/
def nextIn (qs : List Nat) (from_ : Nat) : Option Nat := (qs.find? (· ≥ from_)).or qs.head?

/-- The functions that have a ready launch, placeable or not, ascending. -/
def State.readyFuncs (s : State) : List Nat :=
  s.queues.foldl (fun l e => if (s.readyHead e.1).isSome then insertNat (queueFunc e.1) l else l) []

/-- Deficit round-robin among the functions of `rs`: the first whose deficit reaches 256; when none does, each of `fs` gains its
weight. -/
def State.robin (s : State) (rs : List (Nat × Launch)) (fs : List Nat) : Nat → Option (State × Nat)
  | 0 => none
  | n + 1 =>
    match (rs.map fun x => queueFunc x.1).find? (fun f => (s.func f).deficit ≥ 256) with
    | some f =>
      (nextIn ((rs.map Prod.fst).filter (queueFunc · == f)) (s.func f).nextQ).map fun q =>
        (s.updFunc f fun x => { x with deficit := x.deficit - 256, nextQ := q + 1 }, q)
    | none =>
      State.robin (fs.foldl (fun s f => s.updFunc f fun x => { x with deficit := x.deficit + x.weight }) s) rs fs n

/-- A function with no ready launch has deficit 0. -/
def State.zeroIdle (s : State) : State :=
  let fs := s.readyFuncs
  { s with funcs := s.funcs.map fun (e : Nat × Func) => (e.1, if fs.contains e.1 then e.2 else { e.2 with deficit := 0 }) }

/-- The queue whose head launch starts next, with the deficits after it. -/
def State.pick (s : State) : Option (State × Nat) :=
  let rs := s.ready
  let fs := s.readyFuncs
  let top := rs.foldl (fun m x => max m x.2.level) 0
  if rs.isEmpty ∨ s.resumeFirst top then none
  else s.zeroIdle.robin (rs.filter fun x => x.2.level == top) fs 300

/-- The head launch of queue `q` starts if it is the one that arbitration picks and `ok` of its type: it leaves the queue. -/
def State.launch (s : State) (q : Nat) (ok : Nat → Bool) (k : State → Launch → State) : State :=
  match s.pick with
  | none => s
  | some (s1, p) =>
    match (s.queue q).waiting with
    | [] => s
    | l :: rest => if p = q ∧ ok l.type then k (s1.updQueue q fun x => { x with waiting := rest }).zeroIdle l else s

/-! ### Launches (24 R347 R348 R354, 02 R18 R21, 16 R317) -/

def execNoopLaunch (q : Nat) (s : State) : Out :=
  .next (s.launch q (· == 0) fun s l => s.finishLaunch q l 0 0)

/-- The grid of a launch, before it is placed. -/
def State.newGrid (s : State) (q : Nat) (l : Launch) (c : CodeObj) (k : Kcb) : Grid where
  state := .running
  queue := q
  seq := l.seq
  func := queueFunc q
  ctx := (s.queue q).ctx
  code := l.code
  kcb := k
  entry := BitVec.ofNat 64 (c.text + k.entry)
  rngk := (s.argKey q l).getD 0
  ptroot := (s.ctxRegs (s.queue q).ctx.toNat).ptroot
  pkt := l.words
  trips := k.trips l
  nc := (k.ofKind l .core).foldl (· * ·) 1
  nd := (k.ofKind l .die).foldl (· * ·) 1
  members := []
  keys := []
  ranges := []
  joined := []
  arrived := []
  point := []
  window := []
  released := []
  heard := []
  pkgHeard := []
  aovr := false
  early := l.early
  trig := false
  started := 0
  triggered := 0
  owed := []
  fault := none
  saved := []
  savedEng := []
  senders := []
  far := []
  sguard := (s.ctxRegs (s.queue q).ctx.toNat).sguard.getD k.elastic
  cores := []
  order := s.starts
  resume := none

/-- The grid stands on its placement: its contexts begin, and point 0 opens the windows of a timetabled one (14 R284 R287). -/
def Grid.on (g : Grid) (p : Placed) : Grid :=
  match p with
  | .members ms => { g with
      members := ms, keys := ttKeys ms
      window := (ms.flatMap Member.clusters).foldl (fun t cl => t.set cl (65536, 0)) [] }
  | .slots ks => { g with keys := ks, cores := (ks.map (· / 2)).eraseDups }

/-- A grid starts under the number of its start (24 R346). -/
def State.startGrid (s : State) (g : Grid) (p : Placed) : State :=
  let g := g.on p
  let gid := s.starts
  let s1 := (({ s with grids := s.grids.set gid g, starts := s.starts + 1 } : State).takeRoot g.ctx).updQueue g.queue fun x =>
    { x with live := x.live ++ [gid] }
  g.keys.foldl (fun s k => s.occupy g gid k) s1

def State.kernelLaunch (s : State) (q : Nat) (l : Launch) : State :=
  match s.rejection q l with
  | 0 =>
    match s.codeOf q l, s.kcbOf q l with
    | some c, some k =>
      if k.empty l then s.finishLaunch q l 0 0
      else match s.place? [] q l k with
        | some p => s.startGrid (s.newGrid q l c k) p
        | none => s
    | _, _ => s
  | n + 1 => s.finishLaunch q l 2 (n + 1)

/-- A kernel launch, or a packet of a reserved type. -/
def execKernelLaunch (q : Nat) (s : State) : Out :=
  .next (s.launch q (fun t => t == 1 || decide (t > 2)) fun s l => s.kernelLaunch q l)

/-- Image bytes of a kiosk store, 64 at a time, or the fault of the first line that cannot be read: an error is not delivered
(27 R377; DEDUCED, assumption log 55). -/
def State.imageLines (s : State) (ctx : BitVec 8) (va : Nat) : Nat → Except Flt (List Byte)
  | 0 => .ok []
  | n + 1 =>
    match s.vread ctx va 64, s.imageLines ctx (va + 64) n with
    | some l, .ok r => .ok (l ++ r)
    | none, _ => .error (match s.queueAddr ctx va 1 with
        | some pa => (s.readFault ctx pa 64).getD (5, BitVec.ofNat 64 va, 4)
        | none => (5, BitVec.ofNat 64 va, 5))
    | _, .error f => .error f

/-- The registers of a kiosk program at its start. -/
def kioskRegs (arg : Word64) : Regs := { Regs.entry with s := Regs.entry.s.set (1 : Fin 64) arg }

/-- A halted kiosk core is set up and runs; one whose image cannot be read takes the fault before its first bundle. -/
def State.runKiosk (s : State) (ctx : BitVec 8) (l : Launch) (c : CodeObj) (n : KioskNote) : State :=
  let key := 2048 + l.tc 0
  let old := s.ctx key
  let img := s.imageLines ctx n.img ((n.len + 63) / 64)
  let x := Ctx.ofKey key
  let s1 := ({ s with icache := s.icache.del key } : State).setCtx key { x with
    run := .running
    ctxId := ctx
    regs := kioskRegs l.arg
    pc := BitVec.ofNat 64 (c.text + n.entry)
    next := BitVec.ofNat 64 (c.text + n.entry)
    ls := Memory.writeN [] 0 ((img.toOption.getD []).take n.len)
    ltt := (c.ltts[n.lttx]?).getD x.ltt
    kiosk := { Kiosk.reset with image := (l.code, l.kidx), mbox := if old.kiosk.fault.isSome then [] else old.kiosk.mbox } }
  match img with
  | .error f => s1.onKey key (·.takeFault ⟨f.1, 0, 0, f.2.1, f.2.2⟩)
  | .ok _ => s1

def State.kioskLaunch (s : State) (q : Nat) (l : Launch) : State :=
  match s.rejection q l with
  | 0 =>
    match s.codeOf q l with
    | none => s
    | some c =>
      match c.kiosks[l.kidx]? with
      | none => s
      | some n => (s.runKiosk (s.queue q).ctx l c n).finishLaunch q l 0 0
  | n + 1 => s.finishLaunch q l 2 (n + 1)

def execKioskStart (q : Nat) (s : State) : Out :=
  .next (s.launch q (· == 2) fun s l => s.kioskLaunch q l)

/-- A launch after one aging interval of `n` ticks: its level rises by one, to at most 7 (24 R352). -/
def Launch.raise (l : Launch) (n : Nat) : Launch :=
  if l.ready < n then l else { l with ready := l.ready - n, age := if l.level < 7 then l.age + 1 else l.age }

/-- A launch that has been ready for AGE × 2^16 die-0 ticks rises by one level. -/
def execAgingRaise (q : Nat) (s : State) : Out :=
  match s.readyHead q with
  | none => .next s
  | some _ =>
    if (s.queue q).age = 0 then .next s
    else .next (s.updQueue q fun x => { x with waiting := match x.waiting with
      | l :: r => l.raise (x.age.toNat * 2 ^ 16) :: r
      | [] => [] })

end Sys2Proof.Machine
end

