-- ==== Sys2Proof/Machine/Retire.lean ====
section
/-! DEFINITION. The commands that a context has under way, the retirement of grids, and changes of a partition that have waited
(08 R188, 02 R36 R39, 13 R280 R281, 11 R228, 23 R335). -/
namespace Sys2Proof.Machine

/-! ### What a context has under way -/

/-- A collective whose ranks are not all there keeps its command, and so does a request that finds its mailbox full. -/
def State.stuck (s : State) (t : State) : Bool := s.cur.active.length == t.cur.active.length && t.trap.isNone

/-- Running command `i` of the context in focus goes on: its next access, or its end. -/
def State.finishAt (s : State) (i : Nat) : Option State :=
  let s := { s with trap := none }
  match s.cur.active[i]? with
  | none => none
  | some c => match c.kind with
    | .copy | .copyk => if s.copyWaits c.prog.id then none else some (s.copyRun i c)
    | .kreq k => some (s.mailArrive i c k.val) |>.filter (!s.stuck ·)
    | .coll => some (s.collRun i c []) |>.filter (!s.stuck ·)
    | .csig => if s.sigComing c.prog.id then none else some (s.csigRun i c)
    | .xsend => none

/-- The first running command that can go on does. -/
def State.finishCmd (s : State) : Option State := (List.range s.cur.active.length).findSome? s.finishAt

/-- A circuit engine's load or page. -/
def State.helpEngine (s : State) (cl : Nat) : Option State :=
  let e := s.engine cl
  if e.loading.isSome && e.obj.isNone then (if s.imageComing cl then none else some (s.cloadFinish cl))
  else (e.obj.bind (·.due.find? fun p => !s.pageComing cl p)).map fun p => s.pageArrive cl p

/-! ### Retirement (02 R36 R39, 13 R280 R281, 11 R228) -/

def Engine.quiet (e : Engine) (ks : List Nat) : Bool :=
  e.queue.all (fun c => !ks.contains c.key) && (e.pass.all fun c => !ks.contains c.key)
    && (e.loading.all fun c => !ks.contains c.key)

/-- A pending LS request concerns one of the contexts. -/
def ElReq.concerns (e : ElReq) (ks : List Nat) : Bool := ks.contains e.key || e.owner.any ks.contains

/-- No command or access of the contexts is under way. -/
def State.keysQuiet (s : State) (ks : List Nat) : Bool :=
  ks.all (fun k => let c := s.ctx k; c.settled && c.queue.isEmpty && c.active.isEmpty)
    && s.elReqs.all (fun e => !e.concerns ks) && s.engines.all fun e => e.2.quiet ks

/-- A request to a kiosk that runs: its mailbox comes free. -/
def State.kioskComing (s : State) (c : EngCmd) : Bool :=
  match c.kind with
  | .kreq k => (s.ctx (2048 + k.val)).run == .running
  | _ => false

/-- No command of the context in focus can start or go on. -/
def State.ctxStill (s : State) : Bool :=
  s.startHead.isNone && s.finishCmd.isNone && !s.cur.active.any s.kioskComing

/-- The engine runs nothing of the contexts, and the head of its queue cannot run. -/
def State.engineStill (s : State) (cl : Nat) (ks : List Nat) : Bool :=
  let e := s.engine cl
  e.quiet ks || (e.loading.isNone && e.pass.isNone && (s.circHead cl).isNone && e.queue.all fun c => c.wait == 0)

/-- What an ended grid has left waits for what it can no longer give: tokens, ranks of a collective, a kiosk that does not run
(DEDUCED, assumption log 27). -/
def State.gridStill (s : State) (ks : List Nat) : Bool :=
  ks.all (fun k => (s.ctx k).settled && (s.focusOn k).ctxStill) && s.elReqs.all (fun e => !e.concerns ks)
    && s.engines.all fun e => s.engineStill e.1 ks

/-- The contexts of a grid are free again, and its engines unbound. -/
def State.release (s : State) (gid : Nat) (ks : List Nat) : State :=
  let s1 := { s with
    engines := s.engines.map fun (e : Nat × Engine) =>
      (e.1, if e.2.bound = some gid then { Engine.reset with store := e.2.store } else e.2)
    fabric := s.fabric.filter fun p => p.grid != gid
    ports := s.ports.map fun (p : Nat × Port) => (p.1, p.2.discard gid)
    elReqs := s.elReqs.filter fun e => !ks.contains e.key }
  ks.foldl (fun s k => ({ s with icache := s.icache.del k } : State).setCtx k (Ctx.ofKey k)) s1

/-- A context of a function stands on a cluster that it is to lose. -/
def State.holdsRemoved (s : State) (fn : Nat) (clusters : Word64) : Bool :=
  s.grids.any fun (_, g) => g.func == fn && g.keys.any fun k => !clusters.getLsbD (k / 32)

/-- Changes of a partition that waited for grids to leave take effect (23 R335, 24 R353). -/
def State.settleAsked (s : State) : State :=
  { s with funcs := s.funcs.map fun (e : Nat × Func) => match e.2.asked with
      | some w => if s.holdsRemoved e.1 w then e else (e.1, { e.2 with clusters := w, asked := none })
      | none => e }

/-! ### Failed units (25 R365 R367) -/

def failedCluster (u : FailedUnit) : Nat :=
  match u with
  | .vUnit c _ => c / 16
  | .core c => c / 16
  | .spare cl => cl

/-- The map when a core is lost: its cluster's spare serves it. -/
def State.outOfService (s : State) (core : Nat) : State :=
  let cl := core / 16
  let m := s.clusterEntry cl
  { s with
    coreMap := s.coreMap.set core { s.coreEntry core with out := true }
    clusterMap := if m.inuse ∨ m.spbad then s.clusterMap else s.clusterMap.set cl ⟨Fin.ofNat 16 core, true, false⟩ }

/-- F's map after a failure. -/
def State.remap (s : State) (u : FailedUnit) : State :=
  match u with
  | .vUnit c unit =>
    let m := s.coreEntry c
    if m.v0u = m.v1u then (if m.v0u = unit then s.outOfService c else s)
    else { s with coreMap := s.coreMap.set c { m with v0u := !unit, v1u := !unit } }
  | .core c => s.outOfService c
  | .spare cl => { s with clusterMap := s.clusterMap.set cl { s.clusterEntry cl with spbad := true } }

/-- A cluster holds a context. -/
def State.clusterHolds (s : State) (cl : Nat) : Bool :=
  s.allCtxs.any fun e => e.2.kind == .compute && e.2.cluster == cl && e.2.grid.isSome

/-- The recorded failures whose cluster holds no context are written into the map. -/
def State.settleFailures (s : State) : State :=
  s.failures.foldl (fun s u =>
    if s.clusterHolds (failedCluster u) then s else { s.remap u with failures := s.failures.erase u }) s

/-- Nothing runs on what a row serves: an HBM address below 2^52, the LS of a core, the circuit store and the word memory of a cluster, the
store of a kiosk core (27 R379; DEDUCED, assumption log 44). -/
def State.rowFree (s : State) (a : Nat) : Bool :=
  let kiosks (b : Nat) : Bool := s.allCtxs.all fun e => !(e.2.kind == .kiosk && e.2.run == .running && e.2.gid / 16 == b)
  if a < 2 ^ 52 then kiosks (s.target a)
  else if a < 2 ^ 53 then !s.clusterHolds ((a - 2 ^ 52) / 2 ^ 24)
  else if a < 2 ^ 54 then !s.clusterHolds ((a - 2 ^ 53) / 2 ^ 22)
  else if a < 2 ^ 55 then !s.clusterHolds ((a - 2 ^ 54) / 2 ^ 19)
  else kiosks ((a - 2 ^ 55) / 2 ^ 21)

/-- Rows with a word that has been corrected 16 times are replaced as soon as nothing holds them, and their bad lines with them
(27 R379). -/
def State.replaceRows (s : State) : State :=
  let ds := (s.corrected.filter fun e => decide (e.2 ≥ 16) && s.rowFree e.1).map Prod.fst
  { s with
    corrected := s.corrected.filter fun e => !ds.contains e.1
    bad := s.bad.filter fun l => !ds.any fun a => a / 64 == l }

/-- What waited for contexts to leave: changes of partitions, of the map, and of rows. -/
def State.settle (s : State) : State := s.settleAsked.settleFailures.replaceRows

/-- The grid retires: its writes have performed, an early trigger that has not fired does, its record is posted, then its signal
advances (02 R37). -/
def State.retire (s : State) (gid : Nat) (g : Grid) : State :=
  let s1 := (s.performAll fun u => g.keys.contains u.key).earlyTrigger gid
  let trig := (s1.grids.get? gid).any Grid.trig
  let s2 := (if g.kcb.elastic then s1 else s1.applyIngress g.ctx.toNat (s1.ctxRegs g.ctx.toNat).ingress.length).release gid g.keys
  let s3 := ({ s2 with
    grids := s2.grids.del gid
    funcs := s2.funcs.map fun (e : Nat × Func) => (e.1, e.2.withdraw gid) } : State).updQueue g.queue fun x =>
      { x with live := x.live.filter (· != gid) }
  (((s3.postCpl g.ctx g.queue g.pkt
    (recordWords (if g.fault.isSome then 1 else 0) 0 g.queue g.seq g.aovr trig (g.fault.getD []))).signal g.queue g.pkt)).settle

def State.gridRetire (s : State) (gid : Nat) : State :=
  match s.grids.get? gid with
  | none => s
  | some g =>
    if g.fault.isSome then
      if s.keysQuiet g.keys || s.gridStill g.keys then s.retire gid g else s
    else if g.state = .running ∧ g.saved.isEmpty ∧ (g.keys.all fun k => s.ctxOver g k) ∧ s.keysQuiet g.keys then s.retire gid g
    else s

def execGridRetire (grid : Nat) (s : State) : Out := .next (s.gridRetire grid)

end Sys2Proof.Machine
end

