-- ==== Sys2Proof/Machine/Preempt.lean ====
section
/-! DEFINITION. Pre-emption and resumption (02 R42 R43, 11 R246, 24 R355 R356, 25 R359 R360, 14 R284). -/
namespace Sys2Proof.Machine

/-! ### Completing it (02 R42 steps 3 and 4) -/

/-- An XSEND's read or its token: it has issued, so it completes. -/
def LsPend.isSend (p : LsPend) : Bool :=
  match p.op with
  | .payload _ | .tokenDone .. => true
  | _ => false

/-- One access or command of the context in focus completes. -/
def State.finishOne (s : State) : Option State :=
  match s.cur.firstOut with
  | some i => some (s.arriveAt i)
  | none =>
    match s.cur.lsPend.find? LsPend.isSend with
    | some p =>
      let s1 := s.mapCur fun c => { c with lsPend := c.lsPend.erase p }
      some (match s1.runLs p with
        | .error f => s1.takeFault ⟨f.1, posMask p.pos, p.addr, f.2.1, f.2.2⟩
        | .ok t => t)
    | none => s.startHead.or s.finishCmd

/-- An elastic LS request of the contexts, or one before it at its LS, is granted, in a tick of its own. -/
def State.finishGrant (s : State) (ks : List Nat) : Option State :=
  let ls := (s.elReqs.filter (·.concerns ks)).map fun e => lsCore e.key
  let s1 := { s with lsReqs := [] }
  (s.elReqs.zipIdx.find? fun x => ls.contains (lsCore x.1.key) && s1.elFree (s.elNow (lsCore x.1.key) + 1) (x.2, x.1)).map fun x =>
    s1.elGrantBy (s.elNow (lsCore x.1.key) + 1) x.2

/-- The engine that has commands of the contexts goes on. -/
def State.finishEngine (s : State) (ks : List Nat) : Option State :=
  (s.engines.find? fun e => !e.2.quiet ks).map fun e => (s.helpEngine e.1).getD (s.engineTick e.1)

/-- What the contexts have under way completes, a step at a time. -/
def State.finishAll (s : State) (ks : List Nat) : Nat → State
  | 0 => s
  | n + 1 =>
    match ks.findSome? (fun k => ((s.focusOn k).finishOne).map fun t => t.focusOn s.focus) with
    | some t => t.finishAll ks n
    | none =>
      match s.finishGrant ks with
      | some t => t.finishAll ks n
      | none =>
        match s.finishEngine ks with
        | some t => t.finishAll ks n
        | none => s

/-- Nothing of a context is left but what is saved: results in flight, later rows, and waits on a condition. -/
def State.keySettled (s : State) (k : Nat) : Bool :=
  let c := s.ctx k
  c.firstOut.isNone && c.queue.isEmpty && c.active.isEmpty && !c.lsPend.any LsPend.isSend
    && s.elReqs.all (fun e => !e.concerns [k]) && s.engines.all fun e => e.2.quiet [k]

/-! ### Saving (02 R42 step 5, 11 R246) -/

/-- A context as it is saved: the data of its XRECVs has arrived, and the waits that end with their command have ended. -/
def Ctx.saved (c : Ctx) : Ctx :=
  { c.landStep.landStep with holds := c.holds.filter fun h => match h with
      | .preempted | .resume | .atomic | .chnk | .elastic .. | .circuit _ => false
      | _ => true }

/-- Contexts of a grid are saved and their slots are free. -/
def State.saveCtxs (s : State) (gid : Nat) (ks : List Nat) : State :=
  let s1 := s.performAll fun u => ks.contains u.key
  let s2 := s1.updGrid gid fun g => { g with
    saved := ks.foldl (fun t k => t.set k (s1.ctx k).saved) g.saved
    keys := g.keys.filter fun k => !ks.contains k }
  ks.foldl (fun s k => ({ s with icache := s.icache.del k } : State).setCtx k (Ctx.ofKey k)) s2

/-- Engines of the grid in clusters where it has no context left are saved and unbound. -/
def State.saveEngines (s : State) (gid : Nat) : State :=
  match s.grids.get? gid with
  | none => s
  | some g =>
    let es := s.engines.filter fun e => e.2.bound == some gid && g.keys.all fun k => k / 32 != e.1
    let s1 := s.updGrid gid fun g => { g with
      savedEng := es.foldl (fun t (cl, e) => t.set cl e) g.savedEng
      state := if g.keys.isEmpty then .preempted else g.state }
    es.foldl (fun s e => s.updEngine e.1 fun _ => Engine.reset) s1

/-- PRE-EMPTION (DEDUCED, assumption log 47): every context of the grid freezes at its bundle boundary, what it has under way completes, and it is saved: a
timetabled grid whole, an elastic one context by context. A context with a command that cannot complete yet stays frozen, and
the event may come again. A fault that arrives before the save ends the grid (24 R356). -/
def State.preemptGrid (s : State) (gid : Nat) : State :=
  match s.grids.get? gid with
  | none => s
  | some g =>
    if g.state = .running then
      let s1 := s.updKeys g.keys fun c => { c with holds := c.holds.filter (· != .preempted) ++ [.preempted] }
      let s2 := s1.finishAll g.keys (2 ^ 20)
      match s2.grids.get? gid with
      | none => s2
      | some h =>
        if h.state = .running then
          let ks := g.keys.filter s2.keySettled
          if !g.kcb.elastic ∧ ks ≠ g.keys then s2 else ((s2.saveCtxs gid ks).saveEngines gid).settle
        else s2
    else s

/-! ### Triggers (24 R355) -/

/-- A save of the grid is under way. -/
def State.saving (s : State) (g : Grid) : Bool := g.keys.any fun k => (s.ctx k).holds.contains .preempted

/-- Running grids of a lower level with contexts in a partition. -/
def State.victims (s : State) (fn level : Nat) : List (Nat × Grid) :=
  let p := s.partition fn
  s.grids.filter fun (_, g) => g.state == .running && decide (g.level < level) && g.keys.any fun k => p.contains (k / 32)

/-- The lowest level first, and the latest started within a level. -/
def goesFirst (a b : Nat × Grid) : Bool := a.2.level < b.2.level || (a.2.level == b.2.level && a.2.order > b.2.order)

/-- Pre-empting running grids of lower level would make the room that `fits` asks for, and the grid is the first of them. -/
def State.yields (s : State) (gid fn level : Nat) (fits : List Nat → Bool) : Bool :=
  let vs := s.victims fn level
  fits (vs.flatMap fun x => x.2.keys) && vs.any fun x => x.1 == gid && vs.all fun y => y.1 == gid || goesFirst x y

/-- A ready launch cannot be placed, or a pre-empted grid cannot resume, which is a ready launch too, and the grid is the first
that makes room for it. -/
def State.mustYield (s : State) (gid : Nat) : Bool :=
  s.queues.any (fun (q, _) => match s.readyHead q with
    | none => false
    | some l => !s.startable q l && (match s.kcbOf q l with
      | none => false
      | some k => s.yields gid (queueFunc q) l.level fun gone => (s.place? gone q l k).isSome))
  || s.grids.any fun (_, g) => !g.saved.isEmpty && g.fault.isNone && !s.restorable [] g
      && s.yields gid g.func g.level fun gone => s.restorable gone g

/-- Pre-emption for a more urgent launch, or a save that goes on. -/
def execPreempt (grid : Nat) (s : State) : Out :=
  match s.grids.get? grid with
  | none => .next s
  | some g => if s.saving g || s.mustYield grid then .next (s.preemptGrid grid) else .next s

/-- A function may act on a context: its own, or any for the PF (23 R334 R335). -/
def State.owns (s : State) (fn ctx : Nat) : Bool := fn == 0 || (s.ctxRegs ctx).func.toNat == fn

def execPreemptRegister (func : Nat) (ctx : BitVec 8) (s : State) : Out :=
  s.inOrder func 0x0200 (ctx.setWidth 64)
    (if s.owns func ctx.toNat then
      .next (((s.grids.filter fun e => e.2.ctx == ctx).map Prod.fst).foldl State.preemptGrid s)
     else .next s)

/-- Another shared function that holds one of the clusters has a launch or a resumption ready. -/
def State.waitsFor (s : State) (fn : Nat) : Bool :=
  s.funcs.any fun (n, f) => n != fn && f.shared && f.clusters &&& (s.func fn).clusters != 0
    && (s.queues.any (fun (q, _) => queueFunc q == n && (s.readyHead q).isSome)
      || s.grids.any fun (_, g) => g.func == n && !g.saved.isEmpty)

/-- The slice of a shared function has passed, in die-0 ticks, and another waits for its clusters. -/
def execSliceExpiry (func : Nat) (s : State) : Out :=
  let f := s.func func
  if f.shared && decide (f.slice.toNat ≤ f.used) && s.waitsFor func then
    .next ((((s.grids.filter fun e => e.2.func == func).map Prod.fst).foldl State.preemptGrid s).updFunc func fun f =>
      { f with used := 0 })
  else .next s

/-! ### Resumption (24 R356, 02 R42, 14 R284, 25 R359 R360) -/

/-- The wait entries of a context follow it to its new place. -/
def Func.moveWaits (f : Func) (gid : Nat) (m : Nat → Nat) : Func :=
  { f with twaits := f.twaits.map fun t => { t with keys := t.keys.map fun k => if k.1 = gid then (gid, m k.2) else k } }

/-- A context no longer waits on a page. -/
def Func.leaveWait (f : Func) (me : Nat × Nat) (ctx : BitVec 8) (page : Nat) : Func :=
  { f with twaits := (f.twaits.map fun t =>
      if t.ctx == ctx && t.va == page then { t with keys := t.keys.filter (· != me) } else t).filter fun t => !t.keys.isEmpty }

/-- A walk for a handle is pending. -/
def Hold.walks (h : Hold) (i : Fin 8) : Bool :=
  match h with
  | .walk j .. => i == j
  | _ => false

/-- The live handles of the context in focus, those of a strand that has not ended (06 R139), are re-walked at their virtual bases, but for
one that a pending XLT replaces. -/
def State.rewalkHandles (s : State) : State :=
  if s.cur.run ≠ .running then s
  else (List.finRange 8).foldl (fun s i => match s.cur.regs.h.get i with
    | none => s
    | some h => if s.cur.holds.any (·.walks i) then s else s.walkHandle i (BitVec.ofNat 64 h.va) h.buf 0 none 0) s

/-- The pending walks of the context in focus restart; a walk that ends leaves its wait entry. -/
def State.restartWalks (s : State) (gid : Nat) : State :=
  let pages := (s.cur.holds.filterMap fun h => match h with
    | .walk _ va .. => some (bits va.toNat 12 36)
    | _ => none).eraseDups
  let s1 := pages.foldl (fun s p => s.rewalk p) s
  let fn := (s1.ctxRegs s1.cur.ctxId.toNat).func.toNat
  pages.foldl (fun s p =>
    if s.cur.holds.any (·.onPage p) then s
    else s.updFunc fn fun f => f.leaveWait (gid, s.focus) s.cur.ctxId p) s1

/-- A saved context stands at a new key: the LTT and the guard are loaded again, and a barrier that has passed is left. -/
def State.restoreCtx (s : State) (gid : Nat) (g : Grid) (key : Nat) (c : Ctx) : State :=
  let x := s.freshCtx g gid key
  let c1 := { c with
    gid := x.gid, second := x.second, ltt := x.ltt, guard := x.guard
    holds := c.holds.filter fun h => match h with
      | .bar d n => g.arrived.contains (d, x.place d, n.val, key)
      | _ => true }
  let ended := (s.grids.get? gid).any fun h => h.fault.isSome
  (({ s with icache := s.icache.del key } : State).setCtx key (if ended then c1.stop else c1)).onKey key fun s =>
    if ended then s else s.rewalkHandles.restartWalks gid

/-- A table of renumbered keys. -/
def moveTab {α : Type} (m : Nat → Nat) (t : Tab α) : Tab α := t.foldl (fun u e => u.set (m e.1) e.2) []

/-- A timetabled grid stands on other clusters under its old ranks. -/
def Grid.moveTo (g : Grid) (ms : List Member) : Grid :=
  let key := renumber (ttKeys g.members) (ttKeys ms)
  let cl := renumber (g.members.flatMap Member.clusters) (ms.flatMap Member.clusters)
  let die := renumber (g.members.map Member.die) (ms.map Member.die)
  { g with
    state := .running
    members := ms
    keys := ttKeys ms
    saved := []
    savedEng := []
    arrived := g.arrived.map fun a => (a.1, if a.1 then die a.2.1 else cl a.2.1, a.2.2.1, key a.2.2.2)
    point := moveTab cl g.point
    window := moveTab cl g.window
    released := moveTab die g.released
    heard := g.heard.map fun h => (die h.1, die h.2.1, h.2.2)
    owed := g.owed.map fun o => (key o.1, o.2)
    far := g.far.map fun f => (key f.1, f.2)
    senders := g.senders.foldl (fun t e => t.set (64 * key (e.1 / 64) + e.1 % 64) (key e.2)) [] }

/-- Saved engines are bound again; the object's loads go on through the moved context. -/
def State.restoreEngines (s : State) (gid : Nat) (es : Tab Engine) (cl key : Nat → Nat) : State :=
  es.foldl (fun s (c, e) => s.updEngine (cl c) fun _ => { e with
    bound := some gid
    obj := e.obj.map fun o => { o with srcKey := key o.srcKey } }) s

/-- Payloads of the grid that can land do, before the resume completes (02 R42). -/
def State.landGrid (s : State) (gid : Nat) : Nat → State
  | 0 => s
  | n + 1 =>
    match s.fabric.findIdx? (fun p => p.grid == gid && s.mayLand p) with
    | some i => (s.landPayload i).landGrid gid n
    | none => s

/-- PTROOT and SGUARD as they stand are used from here on (23 R336). -/
def State.newRoot (s : State) (g : Grid) : Grid :=
  let r := s.ctxRegs g.ctx.toNat
  { g with ptroot := r.ptroot, sguard := r.sguard.getD g.kcb.elastic }

/-- A context that has been restored waits for the release of the resumption, if it has anything left to run. -/
def Ctx.await (c : Ctx) (g : Grid) (key : Nat) : Ctx :=
  if c.run = .stopped ∨ g.overAt c key then c else { c with holds := c.holds ++ [.resume] }

/-- A timetabled grid stands again on clusters that can take it, under its old ranks: an alignment point, whose release lets its domains go on
(14 R284) (DEDUCED, assumption log 47). -/
def State.resumePlaced (s : State) (gid : Nat) (g : Grid) (ms : List Member) : State :=
  let key := renumber (ttKeys g.members) (ttKeys ms)
  let cl := renumber (g.members.flatMap Member.clusters) (ms.flatMap Member.clusters)
  let g1 := { s.newRoot (g.moveTo ms) with resume := some ([], []) }
  let s1 := { s.takeRoot g.ctx with
    grids := s.grids.set gid g1
    fabric := s.fabric.map fun (p : Payload) => if p.grid = gid then { p with src := key p.src, dst := key p.dst } else p
    funcs := s.funcs.map fun (e : Nat × Func) => (e.1, e.2.moveWaits gid key) }
  let s2 := (moveTab key g.saved).foldl (fun s (k, c) => s.restoreCtx gid g1 k c) (s1.restoreEngines gid g.savedEng cl key)
  (moveTab key g.saved).foldl (fun s e => s.updCtx e.1 (·.await g1 e.1)) s2

def State.resumeWhole (s : State) (gid : Nat) : State :=
  let s1 := s.landGrid gid 4096
  match s1.grids.get? gid with
  | none => s1
  | some g =>
    if g.fault.isSome then s1
    else match s1.wholePlace [] g with
      | none => s1
      | some ms => s1.resumePlaced gid g ms

/-- One saved strand of an elastic grid goes on in a free slot of its cluster. -/
def State.resumeStrand (s : State) (gid key : Nat) : State :=
  match s.grids.get? gid with
  | none => s
  | some g =>
    match g.saved.get? key, s.strandSlot [] g key with
    | some c, some k =>
      if g.fault.isSome then s
      else
        let m := renumber [key] [k]
        let g1 := s.newRoot { g with
          state := .running
          keys := g.keys ++ [k]
          saved := g.saved.del key
          savedEng := g.savedEng.del (key / 32)
          joined := g.joined.map m
          owed := g.owed.map fun o => (m o.1, o.2)
          arrived := g.arrived.map fun a => (a.1, a.2.1, a.2.2.1, m a.2.2.2) }
        let es := (g.savedEng.filter fun e => e.1 == key / 32)
          ++ s.engines.filter fun e => e.2.bound == some gid && e.1 == key / 32
        let s1 := { s.takeRoot g.ctx with
          grids := s.grids.set gid g1
          funcs := s.funcs.map fun (e : Nat × Func) => (e.1, e.2.moveWaits gid m) }
        (s1.restoreEngines gid es id m).restoreCtx gid g1 k c
    | _, _ => s

/-- RESUMPTION: a pre-empted grid goes on ahead of every unstarted launch of its level; point by point as 02 R42 saved it. -/
def State.gridResume (s : State) (gid : Nat) : State :=
  match s.grids.get? gid with
  | none => s
  | some g =>
    if s.resumable g ∧ (s.ready.all fun x => decide (x.2.level ≤ g.level))
        ∧ (s.grids.all fun x => decide (x.2.level ≤ g.level) || !s.resumable x.2) then
      if g.kcb.elastic then (g.saved.map Prod.fst).foldl (fun s k => s.resumeStrand gid k) s
      else s.resumeWhole gid
    else s

def execGridResume (grid : Nat) (s : State) : Out := .next (s.gridResume grid)

end Sys2Proof.Machine
end

