-- ==== Sys2Proof/Machine/Host.lean ====
section
/-! DEFINITION. What the host runtime, firmware, the links and the board do to the package: contexts, seals and logs,
translation waits, LTT patches, attestation, interrupts, host writes, errors, failures, reset and clocks (01 R10, 13 R280, 23,
25 R359 to R367, 26, 27). -/
namespace Sys2Proof.Machine

/-! ### Contexts (23 R334 R342) -/

/-- H creates a context for its own function, which exists; an id is free again only after its destruction. -/
def execContextCreate (func : Nat) (ctx : BitVec 8) (s : State) : Out :=
  if (s.ctxRegs ctx.toNat).alive ∨ !s.funcLives func then .next s
  else .next { s with ctxs := s.ctxs.set ctx.toNat { CtxRegs.reset with func := BitVec.ofNat 8 func, alive := true } }

/-- A grid, a kiosk program, a launch or an enabled queue of the context is there: its destruction waits it out. -/
def State.ctxInUse (s : State) (ctx : BitVec 8) : Bool :=
  s.grids.any (fun e => e.2.ctx == ctx) || s.queues.any (fun e => e.2.ctx == ctx && (e.2.en || !e.2.waiting.isEmpty))
    || s.allCtxs.any fun e => e.2.kind == .kiosk && e.2.run == .running && e.2.ctxId == ctx

/-- A context is destroyed: its seals and logs are released, its counters cleared, its code objects gone. -/
def execContextDestroy (func : Nat) (ctx : BitVec 8) (s : State) : Out :=
  if !(s.ctxRegs ctx.toNat).alive || !s.owns func ctx.toNat || s.ctxInUse ctx then .next s
  else .next { s with
    ctxs := s.ctxs.set ctx.toNat CtxRegs.reset
    seals := s.seals.filter fun e => e.2.ctx != ctx
    logs := s.logs.filter fun e => e.2.ctx != ctx
    codes := s.codes.filter fun e => e.2.ctx != ctx }

/-! ### Seals and audit logs (23 R340 to R343) -/

/-- The status of a request block: BUSY falls (DEDUCED, assumption log 39). -/
def State.sealStatus (s : State) (fn status index : Nat) : State :=
  s.updFunc fn fun f => { f with seal3 := BitVec.ofNat 64 (status + 2 ^ 8 * index) }

/-- An address of an HBM stack in service. -/
def State.inHbm (s : State) (a : Nat) : Bool := decide (s.target a < 8) && s.serves (s.target a)

/-- A range that no seal or log may have: empty or too long, outside HBM, or over another seal or log. -/
def State.badRange (s : State) (base : BitVec 36) (len : Nat) : Bool :=
  let a := base.toNat * 2 ^ 16
  let n := len * 2 ^ 16
  len == 0 || decide (len > 2 ^ 20) || decide (a + n > 2 ^ 52) || (s.sealed a n).isSome
    || (s.pmap.any fun r => decide (r.target ≥ 8) && decide (r.base < a + n) && decide (a < r.base + r.size))
    || (List.range len).any fun i => !(s.inHbm (a + 2 ^ 16 * i) && s.inHbm (a + 2 ^ 16 * i + (2 ^ 16 - 1)))

/-- The checks of a request in order: its context, its range, then what `free` finds. -/
def State.request (s : State) (fn : Nat) (free : Option Nat) : Except Nat Nat :=
  let f := s.func fn
  if !(s.ctxRegs (bits f.seal0.toNat 0 8)).alive || !s.owns fn (bits f.seal0.toNat 0 8) then .error 3
  else if s.badRange (f.seal1.extractLsb' 16 36) (bits f.seal2.toNat 0 21) then .error 2
  else match free with
    | none => .error 1
    | some i => .ok i

def overlap (a n b m : Nat) : Bool := decide (b < a + n) && decide (a < b + m)

/-- Every outstanding write and atomic into a range performs (23 R341 step 3). -/
def State.drainRange (s : State) (a n : Nat) : State :=
  let s1 := s.performAll fun u => overlap a n u.pa u.bytes.length
  (s1.allCtxs.flatMap fun e => (e.2.outst.filter fun o =>
      o.data.isNone && o.op.isAtomic && o.op.parts.any fun p => overlap a n p.1 p.2.1).map fun o => (e.2.reqCore, o.seq)).foldl
    (fun s x => s.performTo x.1 x.2) s1

/-- A host write into the range stands in an ingress buffer: F still drains (DEDUCED, assumption log 39). -/
def State.draining (s : State) (f : Func) : Bool :=
  let a := bits f.seal1.toNat 16 36 * 2 ^ 16
  let n := bits f.seal2.toNat 0 21 * 2 ^ 16
  s.ctxs.any fun e => e.2.ingress.any fun w => overlap a n w.1 w.2.length

/-- The seal that a request block asks for, before it is measured. -/
def Func.asksSeal (f : Func) : Seal :=
  ⟨false, f.seal0.truncate 8, f.seal1.extractLsb' 16 36, bits f.seal2.toNat 0 21, List.replicate 48 0⟩

/-- Steps 3 to 5 of a seal whose range stands installed in register `i`: what was admitted drains, the region is measured, and LIVE is set.
While F drains, nothing else happens; a region that cannot be read is a bad range (23 R341; DEDUCED, assumption log 39). -/
def State.sealFinish (s : State) (func i : Nat) (x : Seal) : State :=
  let a := x.base.toNat * 2 ^ 16
  let n := x.len * 2 ^ 16
  if s.draining (s.func func) then s
  else if (s.badLine a n).isSome then ({ s with seals := s.seals.del i } : State).sealStatus func 2 0
  else
    let t := s.drainRange a n
    ({ t with seals := t.seals.set i { x with live := true, meas := sha384 (t.pread a n) } } : State).sealStatus func 0 i

/-- KIND 0: the range is installed in the lowest free register, unless it is already, and then the seal goes on (23 R341). -/
def execSealRequest (func : Nat) (s : State) : Out :=
  let f := s.func func
  let x := f.asksSeal
  if !f.seal3.getLsbD 16 || f.seal0.getLsbD 9 then .next s
  else match s.seals.find? fun e => e.2 == x with
    | some e => .next (s.sealFinish func e.1 x)
    | none =>
      match s.request func ((List.range 256).find? fun i => !s.seals.any (·.1 == i)) with
      | .error n => .next (s.sealStatus func n 0)
      | .ok i => .next (({ s with seals := s.seals.set i x } : State).sealFinish func i x)

/-- KIND 1: a log is set up; no digest is taken. -/
def execAuditLogRequest (func : Nat) (s : State) : Out :=
  let f := s.func func
  if !f.seal3.getLsbD 16 || !f.seal0.getLsbD 9 then .next s
  else
    let log := bits f.seal0.toNat 16 6
    match s.request func (if (s.logs.get? log).isSome then none else some log) with
    | .error n => .next (s.sealStatus func n 0)
    | .ok i =>
      let base : BitVec 36 := f.seal1.extractLsb' 16 36
      let len := bits f.seal2.toNat 0 21
      .next (({ s with logs := s.logs.set i ⟨f.seal0.truncate 8, base, len, 0, 0, List.replicate 48 0⟩ } : State).sealStatus
        func 0 0)

/-! ### Access tables (23 R338) -/

/-- The defined bits of an entry. -/
def entryMask : Word32 := 0x0000FF1F#32

def execAtdataWrite (w : Word64) (s : State) : Out :=
  let tgt := bits s.atsel.toNat 0 8
  let mid := bits s.atsel.toNat 8 12
  .next { s with access := s.access.set (tgt * 4096 + mid) (w.truncate 32 &&& entryMask) }

/-! ### Translation waits (25 R359) -/

/-- What a read of TWPOP returns: the oldest entry that was not popped. -/
def TWait.word (t : TWait) : Word64 := BitVec.ofNat 64 (1 + 2 ^ 8 * t.ctx.toNat + 2 ^ 16 * t.buf.val + 2 ^ 32 * t.tag)

/-- A read of TWPOP pops the oldest entry, returns it, and leaves its fields 0; TWVA keeps the page (00 R6). -/
def execTwpop (func : Nat) (s : State) : Out :=
  match (s.func func).twaits.find? (fun t => !t.popped) with
  | none => .next (s.updFunc func fun f => { f with readOut := 0 })
  | some t => .next (s.updFunc func fun f => { f with
      twaits := f.twaits.map fun x => if x.tag = t.tag then { x with popped := true } else x
      readOut := t.word
      twVa := BitVec.ofNat 64 (t.va * 4096) })

/-- Walks of the function that found no free entry are posted now. -/
def State.postAll (s : State) (fn : Nat) : State :=
  s.allCtxs.foldl (fun s (k, c) =>
    if (s.ctxRegs c.ctxId.toNat).func.toNat = fn then
      c.holds.foldl (fun s h => match h with
        | .walk _ va buf .. => if (s.ctx k).holds.contains h then s.onKey k fun s => s.postWait va buf else s
        | _ => s) s
    else s) s

/-- The first walk of a context on a page. -/
def Ctx.walkOn (c : Ctx) (page : Nat) : Option Hold := c.holds.find? (·.onPage page)

/-- The context of a grid with a key, resident or saved. -/
def State.member (s : State) (gid key : Nat) : Ctx := ((s.grids.get? gid).bind (·.saved.get? key)).getD (s.ctx key)

/-- The fault of a waiter whose translation is abandoned, if it still waits on the page (25 R359 R364). -/
def State.walkFault (s : State) (page gid key : Nat) : Option FaultWords :=
  match (s.member gid key).walkOn page with
  | some (.walk _ va _ addr pos _) => some ⟨5, match pos with | some p => posMask p | none => 0, addr, va, 9⟩
  | _ => none

/-- A waiting grid ends: translation abandoned. A context that is saved ends it too. -/
def State.abandon (s : State) (page gid key : Nat) : State :=
  match s.walkFault page gid key, (s.grids.get? gid).bind (·.saved.get? key), s.grids.get? gid with
  | none, _, _ => s
  | some f, some c, some g => s.endGrid gid (faultRecord c g f)
  | some f, _, _ => s.onKey key fun s => s.takeFault f

/-- The waiters of an entry, grid and key of each, in the order in which their faults are received (02 R40). -/
def State.waiters (s : State) (t : TWait) : List (Nat × Nat) :=
  inFaultOrder (fun x => (x.2, (s.walkFault t.va x.1 x.2).getD ⟨5, 0, 0, 0, 9⟩)) t.keys

/-- The entry of a tag completes: every merged walk restarts, or every waiting grid ends. -/
def State.twdone (s : State) (fn : Nat) (w : Word64) : State :=
  match (s.func fn).twaits.find? (fun t => t.tag == bits w.toNat 0 6) with
  | none => s
  | some t =>
    let s1 := s.updFunc fn fun f => { f with twaits := f.twaits.filter fun x => x.tag != t.tag }
    let s2 := if w.getLsbD 8 then (s.waiters t).foldl (fun s (g, k) => s.abandon t.va g k) s1
      else (s.waiters t).foldl (fun s (g, k) =>
        -- a pre-empted waiter walks again when it resumes
        if ((s.grids.get? g).bind (·.saved.get? k)).isSome then s else s.onKey k fun s => s.rewalk t.va) s1
    s2.postAll fn

def execTwdone (func : Nat) (w : Word64) (s : State) : Out := s.inOrder func 0x0310 w (.next (s.twdone func w))

/-! ### LTT patches (25 R362) -/

/-- A grid runs the object. -/
def State.codeRuns (s : State) (code : Nat) : Bool := s.grids.any fun e => e.2.code == code && e.2.state != .preempted

/-- PABASE of entry `i` of a template. -/
def patchLtt (t : Vector (Word64 × Word64) 64) (i : Fin 64) (pa : BitVec 31) : Vector (Word64 × Word64) 64 :=
  t.set i ((t.get i).1, BitVec.ofNat 64 (pa.toNat * 2 ^ 21))

/-- The patch that the two words name: STATUS 0 applied, 1 the object runs, 2 a bad index or handle. -/
def State.lttPatch (s : State) (fn : Nat) (w0 w1 : Word64) : State :=
  let code := bits w0.toNat 32 32
  let tmpl := bits w0.toNat 8 6
  let i := bits w0.toNat 14 6
  let st (s : State) (n : Nat) : State := s.updFunc fn fun f => { f with lttSt := n }
  match s.codes.get? code with
  | none => st s 2
  | some c =>
    match c.ltts[tmpl]? with
    | none => st s 2
    | some t =>
      if i = 0 ∨ c.ctx.toNat ≠ bits w0.toNat 0 8 ∨ !s.owns fn c.ctx.toNat then st s 2
      else if s.codeRuns code then st s 1
      else st { s with codes := s.codes.set code { c with
        ltts := c.ltts.set tmpl (patchLtt t (Fin.ofNat 64 i) (w1.extractLsb' 21 31)) } } 0

def lttWord0 : Word64 := 0xFFFFFFFF000FFFFF#64
def lttWord1 : Word64 := 0x000FFFFFFFE00000#64

/-- A write of word 0 of the block: with GO the patch is applied. -/
def State.lttGo (s : State) (fn : Nat) (w0 : Word64) : State :=
  let s1 := s.updFunc fn fun f => { f with ltt0 := w0 &&& lttWord0 }
  if w0.getLsbD 20 then s1.lttPatch fn w0 (s1.func fn).ltt1 else s1

def State.lttBase (s : State) (fn : Nat) (w1 : Word64) : State := s.updFunc fn fun f => { f with ltt1 := w1 &&& lttWord1 }

/-- Writes of the block's word 1, then its word 0. -/
def execLttpatch (func : Nat) (w0 w1 : Word64) (s : State) : Out :=
  if s.boot.step ≠ 8 ∨ !s.funcLives func then .next s
  else s.afterWaits func [.reg 0x0408 w1, .reg 0x0400 w0] (.next ((s.lttBase func w1).lttGo func w0))

/-! ### Attestation (27 R384 R385) -/

def mapBits (n : Nat) (f : Nat → Bool) : List Byte :=
  bytesOfNat (n / 8) ((List.range n).foldl (fun m i => if f i then m + 2 ^ i else m) 0)

/-- The seal entries of a report. -/
def sealEntry (i : Nat) (x : Seal) : List Byte :=
  [BitVec.ofNat 8 i, x.ctx, 0, 0, 0, 0, 0, 0] ++ bytesOfNat 8 (x.base.toNat + 2 ^ 36 * x.len) ++ x.meas

/-- Bytes 0 to LEN − 97 of a report. -/
def State.report (s : State) (fn : Nat) : List Byte :=
  let ss := s.seals.filter fun e => e.2.live && (s.ctxRegs e.2.ctx.toNat).func.toNat == fn
  bytesOfNat 2 1 ++ bytesOfNat 2 ss.length ++ bytesOfNat 4 (344 + 64 * ss.length)
    ++ (s.boot.fwMeas ++ List.replicate 48 0).take 48
    ++ (bytesOfWords (s.func fn).nonce ++ List.replicate 32 0).take 32
    ++ bytesOf 8 s.cohort ++ [3, BitVec.ofNat 8 fn, 0, 0, 0, 0, 0, 0]
    ++ mapBits 64 s.clusterOut
    ++ mapBits 64 (fun cl => (s.clusterEntry cl).inuse)
    ++ mapBits 1024 s.splitCore
    ++ ss.flatMap fun e => sealEntry e.1 e.2

/-- Master id of the core that runs firmware: the standby's once it has taken over (23 R337, 01 R10). -/
def State.fwMaster (s : State) : Nat := if s.standby.contains .management then 0x8C1 else 0x8C0

/-- F builds, signs and writes the report, an access of the management core over the host link, with the certificate behind it; one that
cannot be written ends with STATUS 1 (27 R383 R384; DESIGN CHOICE, assumption log 6). -/
def execAttestationRequest (func : Nat) (s : State) : Out :=
  let f := s.func func
  if !f.att0.getLsbD 1 then .next s
  else if f.linkErr ∨ !s.admits 0x0C s.fwMaster 1 none then .next (s.updFunc func fun f => { f with att0 := 4 })
  else
    let b := s.report func
    let bs := b ++ ecdsaSign s.boot.secret s.freeCount b ++ Config.certificate s.boot.secret
    .next (({ s.draw with hostMem := s.hostMem.writeN (bits f.att1.toNat 6 42 * 64) bs } : State).updFunc func fun f =>
      { f with att0 := 0 })

/-! ### Interrupts and errors (26 R370, 27 R377 R379 R380) -/

/-- A write of IMASK: a bit that is set while its cause is 1 makes the interrupt write at once. -/
def State.maskWrite (s : State) (fn : Nat) (w : Word64) : State :=
  let f := s.func fn
  let m : BitVec 3 := w.truncate 3
  let s1 := s.updFunc fn fun f => { f with imask := m }
  if m &&& ~~~f.imask &&& f.cause = 0 then s1 else s1.interrupt fn

def execInterruptMaskWrite (func : Nat) (w : Word64) (s : State) : Out := s.inOrder func 0x0518 w (.next (s.maskWrite func w))

/-- CECNT and UECNT as one word. -/
def State.errorWord (s : State) : Word64 := s.uecnt ++ s.cecnt

/-- A read of the PF's error counts returns them and clears them. -/
def execErrorCountRead (s : State) : Out :=
  .next { s.updFunc 0 (fun f => { f with readOut := s.errorWord }) with cecnt := 0, uecnt := 0 }

/-- A 64-bit word is corrected in place once more; at 16 corrections F replaces its row as soon as nothing holds it (27 R379 R380). -/
def execSpareRowReplace (addr : Nat) (s : State) : Out :=
  let a := addr / 8 * 8
  let n := min 16 ((s.corrected.get? a).getD 0 + 1)
  .next ({ s with cecnt := satInc s.cecnt, corrected := s.corrected.set a n } : State).replaceRows

/-- An access of a context of the function over the host link. -/
def State.overLink (s : State) (fn : Nat) (ctx : BitVec 8) (pa : Nat) : Bool :=
  (s.ctxRegs ctx.toNat).func.toNat == fn && s.target pa == 0x0C

/-- The pending operations and stores of a context over the link, with the fault of each, by its place in issue order (DEDUCED,
assumption log 44). -/
def State.linkFaults (s : State) (fn : Nat) (e : Nat × Ctx) : List (Nat × FaultWords) :=
  (e.2.outst.filterMap fun o =>
    (o.op.parts.find? fun p => o.data.isNone && s.overLink fn e.2.ctxId p.1).map fun p =>
      (e.1, (⟨14, posMask o.pos, o.addr, BitVec.ofNat 64 p.1, 0⟩ : FaultWords)))
  ++ (s.reqq.filter fun u => u.key == e.1 && s.overLink fn u.ctx u.pa).map fun u => (e.1, ⟨14, 0, 0, BitVec.ofNat 64 u.pa, 0⟩)

/-- Of the faults of one context, the first. -/
def firstFaults : List (Nat × FaultWords) → List (Nat × FaultWords)
  | [] => []
  | x :: l => x :: (firstFaults l).filter fun y => y.1 != x.1

/-- The pending accesses of a function over its link complete with error: loads, atomics and stores perform nothing, and the grids of
those that made them end, each with the foremost fault (27 R377, 02 R40). -/
def State.linkFail (s : State) (fn : Nat) : State :=
  let fs := inFaultOrder id (s.allCtxs.flatMap fun e => firstFaults (s.linkFaults fn e))
  let s1 := { s with reqq := s.reqq.filter fun u => !s.overLink fn u.ctx u.pa }
  let s2 := s1.updKeys (fs.map Prod.fst) fun c => { c with outst := c.outst.filter fun o =>
      !(o.data.isNone && o.op.parts.any fun p => s.overLink fn c.ctxId p.1) }
  fs.foldl (fun s (k, f) => s.onKey k (·.takeFault f)) s2

/-- The function's link begins to retrain, and its pending accesses complete with error, a report that is being built too; or it has
retrained (DEDUCED, assumption log 44). -/
def execHostLinkRetrain (func : Nat) (s : State) : Out :=
  .next (if (s.func func).linkErr then s.updFunc func fun f => { f with linkErr := false }
    else (s.updFunc func fun f => { f with linkErr := true, att0 := if f.att0.getLsbD 1 then 4 else f.att0 }).linkFail func)

/-! ### Flits that fail (26 R374) -/

/-- The flit of the slot that passed last has failed: it waits for a slack slot. A flit that fails eight retransmissions makes the
port train. -/
def Port.retry (p : Port) : Port :=
  match p.last with
  | none => p
  | some f =>
    let f := { f with fails := f.fails + 1 }
    { p with last := none, again := p.again ++ [f], training := p.training || decide (f.fails > 8) }

def execFlitRetransmit (port : Nat) (s : State) : Out := .next (s.updPort port Port.retry)

/-- A port that trains has trained, and sends again; one that cannot is reported to F and sends no more until its lanes are spared. Which of
the two is a free value (26 R374; DESIGN CHOICE, assumption log 44). -/
def execPortRetrain (port : Nat) (s : State) : Out :=
  if !(s.port port).training then .next s
  else .next (s.draw.updPort port fun p =>
    if Config.retrains s.freeCount then { p with training := false, again := p.again.map fun f => { f with fails := 0 } }
    else { p with training := false, failed := true })

/-! ### Failures and standby units (01 R10, 25 R365 R367) -/

/-- The boot ROM's checks of an image (27 R382). -/
def Boot.accepts (b : Boot) (i : FwImage) : Bool :=
  sha384 i.key == b.vkh && decide (i.version ≥ b.minVer.toNat) && ecdsaVerifies i.key i.sig i.body

/-- The image that a boot ROM starts: the flash holds two copies, and the standby's attempts are those of the management core. -/
def Boot.image (b : Boot) : Option FwImage := if b.fusesOk then (b.images.take 2).find? b.accepts else none

/-- Firmware starts at level F on the management core or its standby, from its first byte (DESIGN CHOICE, assumption log 58). -/
def Ctx.firmwareOf (key : Nat) (body : List Byte) : Ctx := { Ctx.ofKey key with run := .running, ls := Memory.writeN [] 0 body }

/-- The firmware that is accepted starts on the management core, or on its standby once that has taken over; the other stands still. -/
def State.startFirmware (s : State) : State :=
  match s.boot.image with
  | some i =>
    let key := if s.standby.contains .management then 2177 else 2176
    (s.setCtx (4353 - key) (Ctx.ofKey (4353 - key))).setCtx key (Ctx.firmwareOf key i.body)
  | none => s

/-- A standby unit on die 1 takes over: no identifier changes and no grid ends. The standby management core starts the firmware anew, which
then is master 0x8C1 (01 R10, 23 R337; DESIGN CHOICE, assumption log 58). -/
def execStandbyTakeover (u : StandbyUnit) (s : State) : Out :=
  if s.standby.contains u then .next s
  else
    let t := { s with standby := s.standby ++ [u] }
    .next (if u = .management then t.startFirmware else t)

/-- The grids that use a unit: one that is in service. -/
def State.unitGrids (s : State) (u : FailedUnit) : List (Nat × Nat) :=
  let cores : List Nat := match u with
    | .vUnit c unit =>
      let m := s.coreEntry c
      if m.out || !(m.v0u == unit || m.v1u == unit) then [] else [c]
    | .core c => if (s.coreEntry c).out then [] else [c]
    | .spare cl =>
      let m := s.clusterEntry cl
      if m.inuse then [16 * cl + m.repl.val] else []
  cores.flatMap fun c => [2 * c, 2 * c + 1].filterMap fun k => (s.ctx k).grid.map fun g => (k, g)

/-- A unit fails: its grids end, and F records the failure; once its cluster holds no context, F rewrites the map. The
fault is that of the register check, and which register it names is a free value (DESIGN CHOICE, assumption log 6). -/
def execUnitFailure (u : FailedUnit) (s : State) : Out :=
  let f : FaultWords := ⟨15, 0, 0, BitVec.ofNat 64 ((Config.freeByte (64 * s.freeCount)).toNat
    + 2 ^ 8 * (Config.freeByte (64 * s.freeCount + 1)).toNat), 0⟩
  let s1 := (s.unitGrids u).foldl (fun s (k, _) => s.onKey k fun s => s.takeFault f) s.draw
  .next ({ s1 with failures := if s1.failures.contains u then s1.failures else s1.failures ++ [u] } : State).settleFailures

/-! ### Host writes (13 R280, 26 R368) -/

/-- The physical bytes that a template reaches (DEDUCED, assumption log 40). -/
def lttReaches (t : Vector (Word64 × Word64) 64) (pa len : Nat) : Bool :=
  t.toList.any fun e =>
    let base := bits e.2.toNat 21 31 * 2 ^ 21
    e.1.getLsbD 0 && decide (pa < base + bits e.1.toNat 48 16 * 2 ^ 21) && decide (base < pa + len)

/-- A timetabled grid of the context that has not retired reaches the bytes, through its LTT or as its LS: they wait for an HWIN
(DEDUCED, assumption log 40). -/
def State.hostWaits (s : State) (ctx : BitVec 8) (pa len : Nat) : Bool :=
  s.grids.any (fun (_, g) => g.ctx == ctx && !g.kcb.elastic
    && (((s.codes.get? g.code).bind (·.ltts[g.kcb.lttx]?)).any fun t => lttReaches t pa len))
  || (s.lsTarget ctx pa).any fun a => !(s.lsCtx a.1).elastic

/-- The parts of a write, one for each 64-byte line. -/
def linesOf (pa : Nat) (bs : List Byte) : Nat → List (Nat × List Byte)
  | 0 => []
  | n + 1 =>
    if bs.isEmpty then []
    else
      let k := 64 - pa % 64
      (pa, bs.take k) :: linesOf (pa + k) (bs.drop k) n

/-- The lines of a host write arrive: each performs, or enters the ingress buffer of its context. With the buffer full the rest
waits on the host link (13 R280, 26 R368); a line that its target does not admit does not perform. -/
def State.hostLines (func : Nat) (ctx : BitVec 8) : List (Nat × List Byte) → State → State
  | [], s => s
  | l :: ls, s =>
    let r := s.ctxRegs ctx.toNat
    if (s.physFault (0x900 + func) ctx 0 l.1 l.2.length 1).isSome then State.hostLines func ctx ls s
    else if !s.hostWaits ctx l.1 l.2.length then State.hostLines func ctx ls (s.hostPerform ctx l)
    else if r.ingress.length < 64 then
      State.hostLines func ctx ls { s with ctxs := s.ctxs.set ctx.toNat { r with ingress := r.ingress ++ [l] } }
    else s.updFunc func fun f => { f with waits := f.waits ++ [.mem ctx l.1 (l.2 ++ ls.flatMap Prod.snd)] }

/-- A host write of a function to memory, in one of its contexts (23 R333). -/
def State.hostWrite (s : State) (func : Nat) (ctx : BitVec 8) (pa : Nat) (bytes : List Byte) : State :=
  State.hostLines func ctx (linesOf pa bytes bytes.length) s

def execHostWrite (func : Nat) (ctx : BitVec 8) (pa : Nat) (bytes : List Byte) (s : State) : Out :=
  if !s.owns func ctx.toNat then .next s
  else s.afterWaits func [.mem ctx pa bytes] (.next (s.hostWrite func ctx pa bytes))

/-! ### Clocks (27 R387) -/

def State.updDie (s : State) (d : Nat) (f : Die → Die) : State :=
  let i : Fin 4 := Fin.ofNat 4 d
  { s with dies := s.dies.set i (f (s.dies.get i)) }

/-- A throttle step changes only how many ticks pass per second. -/
def execThrottleSet (die : Nat) (step : Fin 16) (s : State) : Out := .next (s.updDie die fun d => { d with throttle := step })

def execThermalStop (die : Nat) (s : State) : Out := .next (s.updDie die fun d => { d with stopped := true })

def execDieCooled (die : Nat) (s : State) : Out := .next (s.updDie die fun d => { d with stopped := false })

/-! ### Bring-up (27 R381 R382 R386) -/

/-- Steps 2 to 8: the last completed, the one that failed, and the firmware that runs. -/
def Boot.run (b : Boot) : Boot :=
  if !b.fusesOk then { b with step := 1, fail := 2, fwMeas := [] }
  else match b.image with
    | none => { b with step := 2, fail := 3, fwMeas := [] }
    | some i =>
      let b := { b with fwMeas := sha384 i.body }
      if b.badDies.contains 0 ∧ b.badDies.contains 1 then { b with step := 5, fail := 6 }
      else if !b.alignOk then { b with step := 6, fail := 7 }
      else { b with step := 8, fail := 0 }

/-- The units whose standbys bring-up finds in service: all three without die 0, the management core where only its boot ROM gets no image
(27 R382 R386; DESIGN CHOICE, assumption log 58). -/
def Boot.lost (b : Boot) : List StandbyUnit :=
  if b.badDies.contains 0 then [.arbiter, .dispatcher, .management] else if b.romOk then [] else [.management]

/-- The ports that never carry: those that did not train, and those of dies out of service (27 R386). -/
def Boot.deadPorts (b : Boot) : List Nat := b.badPorts ++ b.badDies.flatMap fun d => (List.range 12).map (· + 12 * d)

/-- The machine that a boot stage leaves: standbys serve for what is lost, firmware runs, the failures it had recorded are in the map, the
ports that did not train are out, and the cohort id is set. -/
def State.booted (s : State) (b : Boot) : State :=
  let s1 := ({ s with
    boot := b.run
    standby := s.standby ++ b.lost.filter fun u => !s.standby.contains u
    cohort := if b.run.step ≥ 7 then b.cohortId else s.cohort
    ports := if b.run.step ≥ 6 then b.deadPorts.foldl (fun t p => t.set p { Port.reset with failed := true }) s.ports else s.ports } :
      State).startFirmware
  if b.run.step ≥ 4 then s1.settleFailures else s1

/-- DEVICE RESET: every register takes its reset value, then the bring-up steps. What stands outside the registers stays: the
turns to come, HBM and host memory with the lines that have errors, the physical map, F's slot-to-engine map and the failures it
has recorded, the standby units that serve, the cohort id, fuses and flash (DESIGN CHOICE, assumption log 4). -/
def execDeviceReset (s : State) : Out :=
  .next (({ State.reset with
    turns := s.turns, mem := s.mem, hostMem := s.hostMem, bad := s.bad, pmap := s.pmap, coreMap := s.coreMap
    clusterMap := s.clusterMap, failures := s.failures, standby := s.standby, cohort := s.cohort
    freeCount := s.freeCount } : State).booted s.boot)

/-! ### Partitions (23 R335, 24 R353) -/

/-- No cluster belongs to two spatial partitions, those to come included. -/
def State.overlaps (s : State) (fn : Nat) (shared : Bool) (clusters : Word64) : Bool :=
  !shared && s.funcs.any fun (n, f) => n != fn && !f.shared && (f.clusters ||| f.asked.getD 0) &&& clusters != 0

/-- Running grids of a function with a context on a removed cluster. -/
def State.onRemoved (s : State) (fn : Nat) (clusters : Word64) : List Nat :=
  (s.grids.filter fun (_, g) => g.func == fn && g.state == .running && g.keys.any fun k => !clusters.getLsbD (k / 32)).map Prod.fst

/-- The PF writes a word of a VF's control block. A change that removes a cluster pre-empts the grids on it first, and waits until they
have left. A VF that holds a cluster exists (DEDUCED, assumption log 59). -/
def State.partitionWrite (s : State) (vf word : Nat) (w : Word64) : State :=
  let fn := vf + 1
  let f := s.func fn
  match word with
  | 0 =>
    let shared := w.getLsbD 16
    let n := bits w.toNat 0 9
    let weight := if 1 ≤ n ∧ n ≤ 256 then n else f.weight
    if s.overlaps fn shared (f.clusters ||| f.asked.getD 0) then s else s.updFunc fn fun f => { f with weight := weight, shared := shared }
  | 1 =>
    if s.overlaps fn f.shared w then s
    else
      let s1 := s.updFunc fn fun f => { f with asked := some w, alive := w != 0 }
      ((s1.onRemoved fn w).foldl State.preemptGrid s1).settleAsked
  | 2 => s.updFunc fn fun f => { f with slice := w.truncate 32 }
  | _ => s

def execPartitionChange (vf word : Nat) (w : Word64) (s : State) : Out :=
  s.inOrder 0 (0x2000 + 0x20 * vf + 8 * word) w (.next (s.partitionWrite vf word w))

/-! ### Registers that have no row of their own (00 R6, 24 R344 R349, 25 R361 R365, 26 R370 R372 R375, 27 R384) -/

/-- A write of queue l of a VF at offset `r` of its registers. -/
def State.queueWrite (s : State) (fn l r : Nat) (w : Word64) : State :=
  let q := 32 * (fn - 1) + l
  let x := s.queue q
  match r with
  | 0x00 => if x.en then s else s.updQueue q fun x => { x with base := BitVec.ofNat 48 (bits w.toNat 6 42 * 64) }
  | 0x08 =>
    let ctx : BitVec 8 := w.extractLsb' 8 8
    if x.en then s.updQueue q fun x => { x with en := w.getLsbD 16 }
    else
      let n := bits w.toNat 0 5
      s.updQueue q fun x => { x with
        log2 := if 4 ≤ n ∧ n ≤ 16 then n else 4
        ctx := ctx
        age := w.extractLsb' 24 8
        en := w.getLsbD 16 && (s.ctxRegs ctx.toNat).alive && (s.ctxRegs ctx.toNat).func.toNat == fn }
  | 0x28 => if x.en then s else s.updQueue q fun x => { x with ovr := w.truncate 48 }
  | _ => s

/-- A privileged special of a context: a running grid goes on with what it took at its start (23 R336). -/
def State.specialWrite (s : State) (ctx n : Nat) (w : Word64) : State :=
  let r := s.ctxRegs ctx
  match n with
  | 0 => { s with ctxs := s.ctxs.set ctx { r with sguard := some (w.getLsbD 0) } }
  | 1 => { s with ctxs := s.ctxs.set ctx { r with ptroot := w.extractLsb' 12 40 } }
  | _ => s

/-- A buffer counter of a context is set (25 R361). -/
def State.counterWrite (s : State) (ctx n : Nat) (w : Word64) : State :=
  let r := s.ctxRegs ctx
  if n < 64 then { s with ctxs := s.ctxs.set ctx { r with bytes := r.bytes.set (Fin.ofNat 64 n) w } }
  else if n < 128 then { s with ctxs := s.ctxs.set ctx { r with stalls := r.stalls.set (Fin.ofNat 64 n) w } }
  else s

/-- A slot-table entry of a port; ignored while payloads of a placed grid stand at the port (26 R372). A table written anew puts the spared
lanes of a port that failed while the device ran into service (26 R374, 25 R367; DESIGN CHOICE, assumption log 44). -/
def State.slotWrite (s : State) (fn p n : Nat) (w : Word64) : State :=
  let die := p / 12
  let held := (List.range 16).any fun i => (s.func fn).clusters.getLsbD (16 * die + i)
  let x := s.port p
  let busy := (x.wait ++ x.again ++ x.last.toList).any fun f => (s.grids.get? f.grid).any (·.state == .running)
  if p ≥ 48 ∨ n ≥ 4096 ∨ !held ∨ busy then s
  else
    let v := bits w.toNat 8 16 * 256 + (if n % 16 = 15 then 2 else bits w.toNat 0 1)
    s.updPort p fun x => { x with slots := x.slots.set n (BitVec.ofNat 32 v), failed := s.boot.deadPorts.contains p }

def groupWord0 : Word64 := 0x0000FFFFFFFF3FFF#64
def groupWord1 : Word64 := 0x0000FFFFFFFFFFFF#64

def State.groupWrite (s : State) (ctx off : Nat) (w : Word64) : State :=
  let k := ctx * 4096 + off / 16
  let old := (s.groups.get? k).getD (0, 0)
  { s with groups := s.groups.set k (if off % 16 = 0 then (w &&& groupWord0, old.2) else (old.1, w &&& groupWord1)) }

/-- The seal request block: a write with GO starts the request (23 R340). -/
def Func.sealWrite (f : Func) (r : Nat) (w : Word64) : Func :=
  if f.seal3.getLsbD 16 then f
  else match r with
    | 0x00 =>
      let g := { f with seal0 := w &&& 0x3F02FF#64 }
      if w.getLsbD 8 then { g with seal3 := BitVec.twoPow 64 16 } else g
    | 0x08 => { f with seal1 := w &&& 0x000FFFFFFFFF0000#64 }
    | 0x10 => { f with seal2 := w &&& 0x1FFFFF#64 }
    | _ => f

/-- The attestation block. -/
def Func.attWrite (f : Func) (r : Nat) (w : Word64) : Func :=
  if f.att0.getLsbD 1 then f
  else if r = 0 then (if w.getLsbD 0 then { f with att0 := 2 } else f)
  else if r = 8 then { f with att1 := w &&& 0x0000FFFFFFFFFFC0#64 }
  else if 16 ≤ r ∧ r < 48 then { f with nonce := (f.nonce ++ [0, 0, 0, 0]).take 4 |>.set (r / 8 - 2) w }
  else f

/-- The interrupt block, but for IMASK. -/
def Func.intWrite (f : Func) (r : Nat) (w : Word64) : Func :=
  match r with
  | 0x00 => { f with iaddr := BitVec.ofNat 48 (bits w.toNat 2 46 * 4) }
  | 0x08 => { f with idata := w.truncate 32 }
  | 0x10 => { f with cause := f.cause &&& ~~~(w.truncate 3) }
  | _ => f

/-- The next state of a meaning that always has one. -/
def State.after (s : State) (o : Out) : State :=
  match o with
  | .next t => t
  | _ => s

/-- A write at an offset of a function's window, under the access code of the field. A write of a field that a read clears is
ignored, and one at an offset that is no register's acts on the register that holds it, where there is one (DESIGN CHOICE, assumption log 48). -/
def State.windowWrite (s : State) (fn off : Nat) (w : Word64) : State :=
  if off < 0x0100 then s
  else if off < 0x0120 then s.updFunc fn fun f => f.sealWrite (off - 0x0100) w
  else if off = 0x0200 then s.after (execPreemptRegister fn (w.truncate 8) s)
  else if off = 0x0310 then s.twdone fn w
  else if off = 0x0400 then s.lttGo fn w
  else if off = 0x0408 then s.lttBase fn w
  else if off = 0x0518 then s.maskWrite fn w
  else if 0x0500 ≤ off ∧ off < 0x0518 then s.updFunc fn fun f => f.intWrite (off - 0x0500) w
  else if 0x0700 ≤ off ∧ off < 0x0730 then s.updFunc fn fun f => f.attWrite (off - 0x0700) w
  else if 0x2000 ≤ off ∧ off < 0x3000 then
    (if fn = 0 then s.partitionWrite ((off - 0x2000) / 32) ((off - 0x2000) % 32 / 8) w else s)
  else if 0x10000 ≤ off ∧ off < 0x10800 then
    let l := (off - 0x10000) / 64
    let r := off % 64
    let q := 32 * (fn - 1) + l
    if fn = 0 then s
    else if r = 0x10 then s.after (execDoorbell q (w.truncate 32) s)
    else if r = 0x20 then (if w.getLsbD 2 then s.after (execQueueReset q s) else s)
    else s.queueWrite fn l r w
  else if 0x20000 ≤ off ∧ off < 0x40000 then
    let c := (off - 0x20000) / 512
    if s.owns fn c then s.specialWrite c (off % 512 / 8) w else s
  else if 0x40000 ≤ off ∧ off < 0x42000 then
    s.updFunc fn fun f => { f with ctrs := f.ctrs.set ((off - 0x40000) / 8) w }
  else if 0x100000 ≤ off ∧ off < 0x140000 then
    let c := (off - 0x100000) / 1024
    if s.owns fn c then s.counterWrite c (off % 1024 / 8) w else s
  else if 0x300000 ≤ off ∧ off < 0x3C0000 then s.slotWrite fn ((off - 0x300000) / 16384) (off % 16384 / 4) w
  else if 0x1000000 ≤ off ∧ off < 0x2000000 then
    let c := (off - 0x1000000) / 65536
    if s.owns fn c then s.groupWrite c (off % 65536) w else s
  else s

/-- The writes of a function that waited on its link go on, in order, until one waits again (26 R368). -/
def State.goOn (s : State) (fn : Nat) : List HostWait → State
  | [] => s
  | h :: l =>
    let t := match h with
      | .reg off w => s.windowWrite fn off w
      | .mem ctx pa bs => s.hostWrite fn ctx pa bs
    if (t.func fn).waits.isEmpty then t.goOn fn l else t.updFunc fn fun f => { f with waits := f.waits ++ l }

/-- The waiting writes of every function go on as far as there is room. -/
def State.drainLink (s : State) : State :=
  (s.funcs.map Prod.fst).foldl (fun s fn =>
    if (s.func fn).waits.isEmpty then s
    else (s.updFunc fn fun f => { f with waits := [] }).goOn fn (s.func fn).waits) s

/-- A write of the management core's register block (23 R336 R338). -/
def State.firmwareWrite (s : State) (off : Nat) (w : Word64) : State :=
  if off = 0x1000 then { s with atsel := w.truncate 20 }
  else if off = 0x1008 then s.after (execAtdataWrite w s)
  else if 0x20000 ≤ off ∧ off < 0x40000 then s.specialWrite ((off - 0x20000) / 512) (off % 512 / 8) w
  else s

/-- A write of the slot-to-engine map; ignored while the cluster holds a context (25 R365). -/
def State.mapWrite (s : State) (off : Nat) (w : Word64) : State :=
  if off < 0x2000 then
    let c := off / 8
    if s.clusterHolds (c / 16) then s
    else { s with coreMap := s.coreMap.set c ⟨w.getLsbD 0, w.getLsbD 1, w.getLsbD 2⟩ }
  else if off < 0x2200 then
    let cl := (off - 0x2000) / 8
    if s.clusterHolds cl then s
    else { s with clusterMap := s.clusterMap.set cl ⟨Fin.ofNat 16 (bits w.toNat 0 4), w.getLsbD 4, w.getLsbD 5⟩ }
  else s

/-- REGISTER_WRITE: `func` 0 to 128 is a function's window, which is dead until bring-up is over (27 R386); 129 is the management
core's register block, which F reaches before any entry is set, and 130 the slot-to-engine map (DESIGN CHOICE, assumption log 15). A write
that its target does not admit does not perform (23 R338 R339). -/
def execRegisterWrite (func : Nat) (off : Nat) (w : Word64) (s : State) : Out :=
  if func = 129 then .next (s.firmwareWrite off w)
  else if func = 130 then .next (if s.admits 0x83 s.fwMaster 1 none then s.mapWrite off w else s)
  else if func > 128 then .next s
  else s.inOrder func off w (.next (s.windowWrite func off w))

/-! ### Reads (00 R6) -/

/-- A seal register's words (23 R342). -/
def Seal.word (x : Seal) (i : Nat) : Word64 :=
  if !x.live then 0
  else match i with
    | 0 => BitVec.ofNat 64 (1 + 2 ^ 8 * x.ctx.toNat)
    | 1 => BitVec.ofNat 64 (2 ^ 16 * x.base.toNat)
    | 2 => BitVec.ofNat 64 x.len
    | i => if i ≤ 8 then ((wordsOfBytes 6 x.meas)[i - 3]?).getD 0 else 0

/-- What a read at an offset of the seal registers returns: those that `ok` allows. -/
def State.sealRead (s : State) (off : Nat) (ok : Seal → Bool) : Word64 :=
  match s.seals.get? (off / 128) with
  | some x => if ok x then x.word (off % 128 / 8) else 0
  | none => 0

/-- A queue's registers; fields that are written only read 0 (24 R344). -/
def Queue.word (x : Queue) (r : Nat) : Word64 :=
  match r with
  | 0x00 => x.base.setWidth 64
  | 0x08 => BitVec.ofNat 64 (x.log2 + 2 ^ 8 * x.ctx.toNat + (if x.en then 2 ^ 16 else 0) + 2 ^ 24 * x.age.toNat)
  | 0x18 => x.tail ++ x.head
  | 0x20 => if !x.en then 0 else if x.halted then 2 else 1
  | 0x28 => x.ovr.setWidth 64
  | _ => 0

/-- A privileged special at its offset. -/
def State.specialRead (s : State) (ctx n : Nat) : Word64 := s.privSpecial (BitVec.ofNat 8 ctx) (0x100 + n)

/-- A context's buffer counters. -/
def CtxRegs.word (r : CtxRegs) (n : Nat) : Word64 :=
  if n < 64 then r.bytes.get (Fin.ofNat 64 n) else if n < 128 then r.stalls.get (Fin.ofNat 64 n) else 0

/-- The words of a function's control block: what was written last, before it takes effect too (24 R353, 00 R6). -/
def Func.control (f : Func) (word : Nat) : Word64 :=
  match word with
  | 0 => BitVec.ofNat 64 (f.weight + if f.shared then 2 ^ 16 else 0)
  | 1 => f.asked.getD f.clusters
  | 2 => f.slice.setWidth 64
  | _ => 0

def State.bootstat (s : State) : Word64 := BitVec.ofNat 64 (s.boot.step + 2 ^ 4 * s.boot.fail)

/-- What the registers of a function's window hold. -/
def State.windowWord (s : State) (fn off : Nat) : Word64 :=
  let f := s.func fn
  match off with
  | 0x0100 => f.seal0
  | 0x0108 => f.seal1
  | 0x0110 => f.seal2
  | 0x0118 => f.seal3
  | 0x0300 => ((f.twaits.find? fun t => !t.popped).map TWait.word).getD 0
  | 0x0308 => f.twVa
  | 0x0400 => f.ltt0
  | 0x0408 => f.ltt1
  | 0x0410 => BitVec.ofNat 64 f.lttSt
  | 0x0500 => f.iaddr.setWidth 64
  | 0x0508 => f.idata.setWidth 64
  | 0x0510 => f.cause.setWidth 64
  | 0x0518 => f.imask.setWidth 64
  | 0x0600 => if fn = 0 then s.errorWord else 0
  | 0x0608 => if fn = 0 then BitVec.ofNat 64 (s.uekind.toNat + 2 ^ 12 * s.ueloc.toNat) else 0
  | 0x0700 => f.att0
  | 0x0708 => f.att1
  | 0x0800 => if fn = 0 then s.bootstat else 0
  | _ =>
    if 0x0710 ≤ off ∧ off < 0x0730 then (f.nonce[(off - 0x0710) / 8]?).getD 0
    else if 0x2000 ≤ off ∧ off < 0x3000 then
      (if fn = 0 then (s.func ((off - 0x2000) / 32 + 1)).control (off % 32 / 8) else 0)
    else if 0x8000 ≤ off ∧ off < 0x10000 then s.sealRead (off - 0x8000) fun x => s.owns fn x.ctx.toNat
    else if 0x10000 ≤ off ∧ off < 0x10800 then
      (if fn = 0 then 0 else (s.queue (32 * (fn - 1) + (off - 0x10000) / 64)).word (off % 64))
    else if 0x20000 ≤ off ∧ off < 0x40000 then
      (if s.owns fn ((off - 0x20000) / 512) then s.specialRead ((off - 0x20000) / 512) (off % 512 / 8) else 0)
    else if 0x40000 ≤ off ∧ off < 0x42000 then f.ctr ((off - 0x40000) / 8)
    else if 0x100000 ≤ off ∧ off < 0x140000 then
      (if s.owns fn ((off - 0x100000) / 1024) then (s.ctxRegs ((off - 0x100000) / 1024)).word (off % 1024 / 8) else 0)
    else if 0x300000 ≤ off ∧ off < 0x3C0000 then ((s.port ((off - 0x300000) / 16384)).entry (off % 16384 / 4)).setWidth 64
    else if 0x1000000 ≤ off ∧ off < 0x2000000 then
      let c := (off - 0x1000000) / 65536
      let e := (s.groups.get? (c * 4096 + off % 65536 / 16)).getD (0, 0)
      if s.owns fn c then (if off % 16 = 0 then e.1 else e.2) else 0
    else 0

/-- What a host read at an offset of a function's window returns: 0 where its target does not admit the read, and only BOOTSTAT where bring-up
found no firmware (23 R339, 27 R382). The reads of TWPOP and of the error counts, which clear what they return, are steps of their own. -/
def State.windowRead (s : State) (fn off : Nat) : Word64 :=
  if (decide (s.boot.fail = 2 ∨ s.boot.fail = 3) && !(fn == 0 && off == 0x0800)) || !s.reaches fn off 0 then 0 else s.windowWord fn off

/-- What a read of the management core's register block returns (23 R336 R338 R342). -/
def State.firmwareRead (s : State) (off : Nat) : Word64 :=
  if off = 0x1000 then s.atsel.setWidth 64
  else if off = 0x1008 then ((s.access.get? (bits s.atsel.toNat 0 8 * 4096 + bits s.atsel.toNat 8 12)).getD 0#32).setWidth 64
  else if 0x8000 ≤ off ∧ off < 0x10000 then s.sealRead (off - 0x8000) fun _ => true
  else if 0x20000 ≤ off ∧ off < 0x40000 then s.specialRead ((off - 0x20000) / 512) (off % 512 / 8)
  else 0

/-- What a read of the slot-to-engine map by F returns, where the map admits it (25 R365, 23 R338). -/
def State.mapRead (s : State) (off : Nat) : Word64 :=
  if !s.admits 0x83 s.fwMaster 0 none then 0
  else if off < 0x2000 then
    let m := s.coreEntry (off / 8)
    BitVec.ofNat 64 ((if m.v0u then 1 else 0) + (if m.v1u then 2 else 0) + (if m.out then 4 else 0))
  else if off < 0x2200 then
    let m := s.clusterEntry ((off - 0x2000) / 8)
    BitVec.ofNat 64 (m.repl.val + (if m.inuse then 16 else 0) + (if m.spbad then 32 else 0))
  else 0

end Sys2Proof.Machine
end

