-- ==== Sys2Proof/Machine/Objects.lean ====
section
/-! DEFINITION. Code objects: the container, KCBs and kiosk notes, relocations, LTT templates, the binding of the portable form,
and symbols across the objects of a context (16 R312 to R323). -/
namespace Sys2Proof.Machine

/-! ### KCBs and notes (16 R315 R317, 02 R16 R17) -/

def levelKind : Nat → LevelKind
  | 1 => .temporal
  | 2 => .core
  | 3 => .die
  | _ => .unused

/-- A loop-table level, none where it breaks a limit. -/
def levelOf (w : Word64) : Option Level :=
  let n := w.toNat
  let kind := levelKind (bits n 0 2)
  let arg := bits n 3 3
  let count := bits n 32 32
  if kind = .unused then some ⟨.unused, none, 1⟩
  else if bits n 2 1 = 1 then (if arg ≤ 5 then some ⟨kind, some (Fin.ofNat 8 arg), 0⟩ else none)
  else if kind = .temporal ∧ count > 65535 then none
  else some ⟨kind, none, count⟩

/-- Order of the kinds from the innermost level out (02 R17). -/
def LevelKind.rank : LevelKind → Option Nat
  | .unused => none
  | .temporal => some 0
  | .core => some 1
  | .die => some 2

/-- Kinds from level 0 out: no core level outside a die level, and no temporal level outside a core level. -/
def rising : List Nat → Bool
  | [] => true
  | a :: l => !(a != 0 && l.contains (a - 1)) && rising l

/-- A KCB of a type-1 note, none where it breaks R16, R17 or R315. The cohort shape of an elastic kernel and the chunk size of a
timetabled one are ignored (02 R16, 14 R283). -/
def kcbOfNote (templates textLen : Nat) (ws : List Word64) : Option Kcb := do
  let levels ← ((ws.drop 3).take 6).mapM levelOf
  let lsf := blk ws 0 32 10
  let drain := blk ws 1 0 21
  let cdie := blk ws 1 24 2
  let chunk := blk ws 1 36 17
  let entry := (blkWord ws 2).toNat
  let elastic := (blkWord ws 0).getLsbD 8
  if ws.length = 9 ∧ blk ws 0 0 8 = 1 ∧ lsf ≤ 512 ∧ 1 ≤ drain ∧ drain ≤ 2 ^ 20 ∧ (elastic ∨ cdie ≠ 3)
      ∧ (¬elastic ∨ 1 ≤ chunk ∧ chunk ≤ 65536)
      ∧ entry % 8 = 0 ∧ entry < textLen ∧ blk ws 0 16 6 < templates ∧ rising (levels.filterMap fun l => l.kind.rank) then
    return ⟨elastic, !(blkWord ws 0).getLsbD 9, blk ws 0 16 6, lsf * 2048, drain, 2 ^ cdie,
      blk ws 1 26 6 + 1, blk ws 1 32 4 + 1, chunk, entry, levels⟩
  else none

/-- A kiosk program of a type-2 note as it stands in the file; its image is checked once it is relocated. -/
def kioskOfNote (templates textLen : Nat) (ws : List Word64) : Option KioskNote :=
  let entry := (blkWord ws 1).toNat
  let img := (blkWord ws 2).toNat
  let len := blk ws 3 0 18
  if ws.length = 4 ∧ blk ws 0 0 8 = 1 ∧ entry % 8 = 0 ∧ entry < textLen ∧ blk ws 0 8 6 < templates ∧ len ≤ 131072 then
    some ⟨blk ws 0 8 6, entry, img, len⟩
  else none

/-- The limits of a kiosk-store image (16 R317). -/
def KioskNote.imageOk (n : KioskNote) : Bool := n.img % 64 == 0 && (n.img != 0 || n.len == 0)

/-- Notes of a type that the loader reads. -/
def notesOf (i : ElfImage) (type : Nat) : List Note := i.notes.filter fun n => n.name == "Ronxel" && n.type == type

/-! ### The portable form (16 R320 to R322, 03 R66) -/

/-- Profile-B latency of a syllable's result (03 R66, 06 to 12). -/
def latS (op : Nat) : Nat :=
  if op = 0x12 ∨ op = 0x13 then 3
  else if op = 0x14 ∨ op = 0x15 ∨ op = 0x45 then 24
  else if op = 0x44 then 20
  else if 0x40 ≤ op ∧ op ≤ 0x49 then 4
  else if op = 0x74 then 0
  else 1

def latV (w : Nat) : Nat :=
  let op := opc w
  if 0x10 ≤ op ∧ op ≤ 0x1A then (if vFmt w = 1 then 6 else 4)
  else if 0x1B ≤ op ∧ op ≤ 0x1F then 8
  else if 0x2C ≤ op ∧ op ≤ 0x31 then 1
  else if op = 0x38 ∨ op = 0x3A ∨ (0x54 ≤ op ∧ op ≤ 0x56) ∨ op = 0x59 ∨ op = 0x6D then 3
  else if op = 0x39 ∨ op = 0x5A ∨ (op = 0x60 ∧ vFn w ≠ 0) then 6
  else if (0x40 ≤ op ∧ op ≤ 0x44) ∨ op = 0x53 then 5
  else if op = 0x48 ∨ op = 0x49 ∨ op = 0x4A ∨ op = 0x4C ∨ op = 0x60 ∨ op = 0x6F then 1
  else if op = 0x52 ∨ op = 0x58 then 4
  else if op = 0x5B then 7
  else if op = 0x68 ∨ op = 0x69 then
    (if vFn w = 1 then 5 else if vFn w = 2 then 7 else if vFmt w < 3 then 5 else 3)
  else if op = 0x6A ∨ op = 0x6B then (if vFmt w < 3 then 5 else 3)
  else if op = 0x6C then (if vFn w = 1 then 5 else 7)
  else 2

def latM (op : Nat) : Nat :=
  match op with
  | 0x12 => 1
  | 0x14 => 2
  | 0x13 => 3
  | 0x15 => 5
  | _ => 8

def latL (w : Nat) : Nat :=
  let op := opc w
  if op = 0x10 ∨ op = 0x12 ∨ op = 0x2C then 6
  else if op = 0x30 ∨ op = 0x31 then (if bits w 30 4 ≤ 1 then 6 else 0)
  else if op = 0x14 then 9
  else if op = 0x16 ∨ op = 0x51 then 8
  else if op = 0x18 then 16
  else if op = 0x40 then 4
  else if op = 0x29 ∨ op = 0x3B then 2
  else if op = 0x3C then 1
  else 0

def latB (w : Nat) : Nat :=
  match cls w with
  | 0 => latS (opc w)
  | 1 => latV w
  | 2 => latM (opc w)
  | 3 => latL w
  | _ => 1

/-- A bundle of a stored text: the number of its first syllable, its syllables, and their annotations. -/
structure PBundle where
  start : Nat
  words : List Word64
  notes : List Word64
  deriving DecidableEq, Repr

/-- Only NOP and H syllables. -/
def PBundle.padding (b : PBundle) : Bool := b.words.all fun w => cls w.toNat == 7 || (cls w.toNat == 0 && opc w.toNat == 0)

/-- Syllables up to a stop bit, at most eight. -/
def takeBundle : Nat → List Word64 → List Word64
  | 0, _ => []
  | _, [] => []
  | n + 1, w :: l => if w.getLsbD 63 then [w] else w :: takeBundle n l

def splitText (start : Nat) : Nat → List Word64 → List Word64 → List PBundle
  | 0, _, _ => []
  | n + 1, ws, ns =>
    if ws.isEmpty then []
    else
      let b := takeBundle 8 ws
      ⟨start, b, ns.take b.length⟩ :: splitText (start + b.length) n (ws.drop b.length) (ns.drop b.length)

/-- Predicates that a syllable reads, beside its guard. -/
def predReads (w : Nat) : List Nat :=
  let op := opc w
  [300 + bits w 45 6] ++
    (if cls w = 0 ∧ op = 0x31 then [300 + bits w 29 6, 300 + bits w 22 6]
     else if cls w = 0 ∧ (op = 0x32 ∨ op = 0x34 ∨ op = 0x35) then [300 + bits w 29 6]
     else if cls w = 1 ∧ (op = 0x55 ∨ op = 0x56) then [300 + bits w 14 6]
     else [])

def PBundle.slots (b : PBundle) : List Slot := slotsOf (b.words.map BitVec.toNat)

/-- The unit that delivers on a bypass (03 R63). -/
def slotDelivers (s : Slot) (key : Nat) : Bool :=
  match key with
  | 96 => cls s.w == 0
  | 97 => cls s.w == 3
  | 2032 => cls s.w == 1 && !s.unit1
  | 2033 => cls s.w == 1 && s.unit1
  | 2034 => cls s.w == 3
  | 2035 => cls s.w == 2
  | _ => false

/-- What a register is made of: a stream register of its base and its strides (03 R48). -/
def keyParts (k : Nat) : List Nat := k :: (List.range 6).flatMap (keyStride k)

/-- Latency of what bundle `b` produces for a source: of the syllables that write a register of `keys` or deliver on a bypass of
them, or of all where none does (DESIGN CHOICE, assumption log 42). -/
def PBundle.latFor (b : PBundle) (keys : List Nat) : Nat :=
  let ks := keys.flatMap keyParts
  let hit := b.slots.filter fun s => (destKeys s.w).any ks.contains || keys.any (slotDelivers s)
  ((if hit.isEmpty then b.slots else hit).map fun s => latB s.w).foldl max 0

/-- Registers a syllable reads, its guard left out. -/
def slotReads (s : Slot) : List Nat := readKeys s.w s.x ++ (predReads s.w).tail

/-- A list without as many of each number as another one has. -/
def less (a b : List Nat) : List Nat := b.foldl List.erase a

/-- A field of a syllable with another value. -/
def slotPut (s : Slot) (lo n v : Nat) : Slot := { s with w := s.w - bits s.w lo n * 2 ^ lo + v % 2 ^ n * 2 ^ lo }

/-- The registers that a syllable reads through the field of `n` bits from `lo`: those that depend on it, each as often as it does. -/
def slotThrough (s : Slot) (lo n : Nat) : List Nat :=
  let low := less (slotReads s) (slotReads (slotPut s lo n 0))
  low ++ less (less (slotReads s) (slotReads (slotPut s lo n (2 ^ n - 1)))) low

/-- The fields of DA and of DB (16 R320, 04 R72 to R77). -/
def fieldsA (w : Nat) : List (Nat × Nat) :=
  match cls w with
  | 0 => if opc w = 0x64 then [(24, 7)] else [(29, 7)]
  | 1 => [(24, 10)]
  | 2 => [(29, 10)]
  | 3 => [(23, 7), (13, 7)]
  | 5 => [(30, 7)]
  | _ => []

def fieldsB (w : Nat) : List (Nat × Nat) :=
  match cls w with
  | 0 => if opc w = 0x64 then [] else [(22, 7)]
  | 1 => [(14, 10)]
  | 2 => [(16, 10)]
  | 5 => [(23, 7)]
  | _ => []

/-- The registers of the four annotated sources of a syllable: field a, va, aspec or base; field b, vb or bspec; a third source in
an X or the data register of a store; the guard (16 R320). -/
def slotSources (s : Slot) : List (List Nat) :=
  let a := (fieldsA s.w).flatMap fun f => slotThrough s f.1 f.2
  let b := (fieldsB s.w).flatMap fun f => slotThrough s f.1 f.2
  [a, b, less (less (slotReads s) a) b, [300 + bits s.w 45 6]]

/-- The annotated sources of a bundle: how many bundles back the producer stands, and the registers read. -/
def PBundle.sources (b : PBundle) : List (Nat × List Nat) :=
  b.slots.flatMap fun s =>
    let a := ((b.notes[s.pos.val]?).getD 0).toNat
    (([0, 16, 32, 48].zip (slotSources s)).map fun (lo, keys) => (bits a lo 16, keys)).filter fun x => x.1 != 0

/-- Pairs of writers of one register: the latencies of the earlier and of the later. -/
def PBundle.rewrites (a b : PBundle) : List (Nat × Nat) :=
  a.slots.flatMap fun x => b.slots.filterMap fun y =>
    if (destKeys x.w).any (destKeys y.w).contains then some (latB x.w, latB y.w) else none

/-- The level-0 LOOP of a bundle: body length in stored bundles, and whether it rotates. -/
def PBundle.loop? (b : PBundle) : Option (Nat × Bool) :=
  b.slots.findSome? fun s =>
    if cls s.w = 0 ∧ opc s.w = 0x64 ∧ bits s.w 41 3 = 0 then some (bits s.w 18 6 + 1, bits s.w 17 1 == 1) else none

/-- A bundle as it has been bound: its stored number among all bundles, the bundle, and its tick. -/
structure Bound where
  num  : Nat
  b    : PBundle
  at_  : Nat
  deriving DecidableEq, Repr

/-- The loop whose body is being bound: its first tick, the stored number of its last bundle, and how many bundles that are no
padding precede the body. -/
structure OpenLoop where
  tick : Nat
  last : Nat
  pre  : Nat
  deriving DecidableEq, Repr

structure Binding where
  done  : List Bound
  tick  : Nat
  open_ : Option OpenLoop
  loops : List (Nat × Nat)
  deriving DecidableEq, Repr

/-- Ticks a loop body needs so that what an earlier iteration produces has landed. -/
def Binding.bodyLen (g : Binding) (o : OpenLoop) : Nat :=
  let body := g.done.drop o.pre
  let n := body.length
  let need := body.zipIdx.flatMap fun (x, i) =>
    (x.b.sources.filterMap fun (d, keys) =>
      if d ≤ i then none
      else
        let k := (d - i + n - 1) / n
        match body[(k * n + i - d) % n]? with
        | some j => some ((j.at_ + j.b.latFor keys - x.at_ + k - 1) / k)
        | none => none)
    ++ body.flatMap fun j => (j.b.rewrites x.b).map fun (a, b) => j.at_ + a + 1 - b - x.at_
  need.foldl max (max 1 (g.tick - o.tick))

/-- The body ends before bundle `num`: padding is appended to it. -/
def Binding.close (g : Binding) (num : Nat) : Except Nat Binding :=
  match g.open_ with
  | none => .ok g
  | some o =>
    if num ≤ o.last then .ok g
    else
      let n := g.bodyLen o
      if n > 64 then .error 7
      else .ok { g with tick := o.tick + n, open_ := none, loops := g.loops ++ [(o.tick, n)] }

/-- One bundle is bound. -/
def Binding.add (g : Binding) (num : Nat) (b : PBundle) : Except Nat Binding :=
  if b.notes.any (fun a => [0, 16, 32, 48].any fun lo => bits a.toNat lo 16 == 65535) then .error 7
  else if b.padding then .ok g
  else if (b.loop?.any fun l => l.2) then .error 7
  else
    let i := g.done.length
    let floor := (g.open_.map OpenLoop.pre).getD 0
    if g.open_.isNone ∧ b.sources.any (fun s => decide (s.1 > i)) then .error 7
    else
      let prod := b.sources.filterMap fun (d, keys) =>
        if d ≤ i - floor then (g.done[i - d]?).map fun j => j.at_ + j.b.latFor keys else none
      let order := g.done.flatMap fun j => (j.b.rewrites b).map fun (x, y) => j.at_ + x + 1 - y
      let e := (prod ++ order).foldl max g.tick
      let g1 := { g with done := g.done ++ [⟨num, b, e⟩], tick := e + 1 }
      match b.loop? with
      | some (n, _) => .ok { g1 with open_ := some ⟨e + 1, num + n, i + 1⟩ }
      | none => .ok g1

def bindAll : List (PBundle × Nat) → Binding → Except Nat Binding
  | [], g => g.close (2 ^ 64)
  | (b, n) :: l, g =>
    match g.close n with
    | .error e => .error e
    | .ok g1 =>
      match g1.add n b with
      | .error e => .error e
      | .ok g2 => bindAll l g2

/-- One syllable: a NOP with its stop bit. -/
def padWord : Word64 := BitVec.twoPow 64 63

/-- Syllables of tick `t` of the bound text. -/
def Binding.wordsAt (g : Binding) (t : Nat) : List Word64 :=
  match g.done.find? (·.at_ == t) with
  | some x => x.b.words
  | none => [padWord]

/-- Where tick `t` begins in the bound text, in syllables. -/
def Binding.place (g : Binding) (t : Nat) : Nat :=
  t + ((g.done.filter (·.at_ < t)).map fun x => x.b.words.length - 1).foldl (· + ·) 0

/-- Where a stored syllable number stands in the bound text: in its own bundle, or at the start of the gap it stood in. -/
def Binding.move (g : Binding) (n : Nat) : Nat :=
  match g.done.find? (fun x => decide (x.b.start ≤ n) && decide (n < x.b.start + x.b.words.length)) with
  | some x => g.place x.at_ + (n - x.b.start)
  | none => g.place ((g.done.filter (·.b.start < n)).foldl (fun m x => max m (x.at_ + 1)) 0)

/-- Field of `n` bits from `lo` replaced. -/
def setBits (w : Word64) (lo n v : Nat) : Word64 :=
  BitVec.ofNat 64 (w.toNat - bits w.toNat lo n * 2 ^ lo + v % 2 ^ n * 2 ^ lo)

/-- Branch offsets and loop bodies of a bound syllable. -/
def Binding.retarget (g : Binding) (x : Bound) (w : Word64) : Word64 :=
  let n := w.toNat
  if cls n = 0 ∧ (opc n = 0x60 ∨ opc n = 0x62) then
    let off := (BitVec.ofNat 24 (bits n 20 24)).toInt
    let new : Int := g.move ((x.b.start : Int) + off).toNat - g.place x.at_
    setBits w 20 24 (BitVec.ofInt 24 new).toNat
  else if cls n = 0 ∧ opc n = 0x64 ∧ bits n 41 3 = 0 then
    match g.loops.find? (fun l => l.1 == x.at_ + 1) with
    | some l => setBits w 18 6 (l.2 - 1)
    | none => w
  else w

def Binding.text (g : Binding) : List Word64 :=
  (List.range g.tick).flatMap fun t => match g.done.find? (·.at_ == t) with
    | some x => x.b.words.map (g.retarget x)
    | none => [padWord]

/-- The first text section. -/
def textIdx (secs : List Section) : Nat := secs.findIdx fun s => match s.kind with | .text => true | _ => false

def textOf (secs : List Section) : Section := (secs[textIdx secs]?).getD ⟨.text, 0, []⟩

/-- A code object under construction: what binding and relocation change. -/
structure Draft where
  secs   : List Section
  syms   : List ElfSym
  relocs : List Reloc
  kcbs   : List Kcb
  kiosks : List KioskNote
  deriving DecidableEq, Repr

/-- A relocation of a bound object: one whose symbol stands in the text names with its addend the same syllable as before (16 R321). -/
def boundReloc (r : Reloc) (syms : List ElfSym) (text : Nat) (off : Nat → Nat) : Reloc :=
  let r1 := if r.section_ = text then { r with offset := off r.offset } else r
  match syms[r.sym]? with
  | some s => if s.sec = some text then
      { r1 with addend := (off ((s.value : Int) + r.addend).toNat : Int) - off s.value } else r1
  | none => r1

/-- The object rebound to profile B. -/
def Draft.bind (o : Draft) (port : List Word64) : Except Nat Draft :=
  let i := textIdx o.secs
  let t := textOf o.secs
  let ws := wordsOfBytes (t.bytes.length / 8) t.bytes
  let bs := splitText 0 (ws.length + 1) ws port
  match bindAll bs.zipIdx ⟨[], 0, none, []⟩ with
  | .error e => .error e
  | .ok g =>
    let off (n : Nat) : Nat := 8 * g.move (n / 8) + n % 8
    .ok { o with
      secs := o.secs.set i { t with bytes := bytesOfWords g.text }
      syms := o.syms.map fun s => if s.sec = some i then { s with value := off s.value } else s
      relocs := (o.relocs.filter fun r => r.section_ != i || g.done.any fun x =>
          decide (8 * x.b.start ≤ r.offset) && decide (r.offset < 8 * (x.b.start + x.b.words.length))).map fun r => boundReloc r o.syms i off
      kcbs := o.kcbs.map fun k => { k with profA := false, entry := off k.entry }
      kiosks := o.kiosks.map fun k => { k with entry := off k.entry } }

/-! ### Symbols (16 R323) -/

/-- Loaded address of a definition. -/
def CodeObj.addrOf (c : CodeObj) (s : ElfSym) : Option Nat := (s.sec.bind (c.secs[·]?)).map fun x => x.base + s.value

/-- Bytes of a definition. -/
def CodeObj.body (c : CodeObj) (s : ElfSym) : List Byte :=
  match s.sec.bind (c.secs[·]?) with
  | some x => (x.bytes.drop s.value).take s.size
  | none => []

/-- Global definitions of a name over the objects of a context, in load order. -/
def defsOf (cs : List CodeObj) (name : String) : List (CodeObj × ElfSym) :=
  cs.flatMap fun c => (c.syms.filter fun s => s.name == name && s.sec.isSome && !s.loc).map fun s => (c, s)

/-- The winner: the earliest strong definition, else the earliest weak one. -/
def winner (cs : List CodeObj) (name : String) : Option Nat :=
  let ds := defsOf cs name
  ((ds.find? fun d => d.2.strong).or ds.head?).bind fun d => d.1.addrOf d.2

/-- A strong definition of `c` that an earlier object defines with another body. -/
def conflicts? (cs : List CodeObj) (c : CodeObj) : Bool :=
  c.syms.any fun s => s.strong && s.sec.isSome && !s.loc && (defsOf cs s.name).any fun d =>
    d.2.strong && (d.2.size != s.size || d.1.body d.2 != c.body s)

/-- A reference of `c`: its address, 0 for an undefined weak one; a strong one that is undefined is load error 4. A local symbol
is its own object's. -/
def resolveSym (cs : List CodeObj) (c : CodeObj) (s : ElfSym) : Except Nat Nat :=
  match (if s.loc then c.addrOf s else winner cs s.name) with
  | some a => .ok a
  | none => if s.strong then .error 4 else .ok 0

/-! ### Relocations and templates (16 R314 R318) -/

/-- The start of the bundle that holds syllable `n`. -/
def bundleStart (ws : List Word64) : Nat → Nat
  | 0 => 0
  | n + 1 => match ws[n]? with
    | some w => if w.getLsbD 63 then n + 1 else bundleStart ws n
    | none => n + 1

/-- A section's 64-bit word at an offset, replaced. -/
def patchSection (s : Section) (off : Nat) (f : Word64 → Word64) : Section :=
  let w := BitVec.ofNat 64 (leNat ((s.bytes.drop off).take 8))
  { s with bytes := s.bytes.take off ++ bytesOf 8 (f w) ++ s.bytes.drop (off + 8) }

/-- An object as linked. -/
structure Linked where
  secs : List Section
  ltts : List (Vector (Word64 × Word64) 64)
  kiosks : List KioskNote
  deriving DecidableEq, Repr

/-- An entry for a virtual range; none where it does not fit (06 R137). -/
def lttEntry (va len : Nat) (low : Nat) (pa : Word64) : Option (Word64 × Word64) :=
  let base := va / 2 ^ 21
  let n := (va + len - base * 2 ^ 21 + 2 ^ 21 - 1) / 2 ^ 21
  if n = 0 ∨ n > 65535 ∨ base + n > 2 ^ 27 then none
  else some (BitVec.ofNat 64 (low + base * 2 ^ 21 + n * 2 ^ 48), pa &&& 0x000FFFFFFFE00000#64)

/-- Valid entries share a virtual address. -/
def lttOverlap (a b : Word64 × Word64) : Bool :=
  let va (e : Word64 × Word64) : Nat := bits e.1.toNat 21 27
  let n (e : Word64 × Word64) : Nat := bits e.1.toNat 48 16
  a.1.getLsbD 0 && b.1.getLsbD 0 && decide (va a < va b + n b) && decide (va b < va a + n a)

def lttsBad (t : Vector (Word64 × Word64) 64) : Bool :=
  let es := t.toList.zipIdx
  es.any fun (a, i) => (a.1.getLsbD 0 && bits a.1.toNat 48 16 == 0) || es.any fun (b, j) => i != j && lttOverlap a b

/-- An entry without the bits that are reserved in it, which read 0 (06 R137, 00 R7). -/
def lttClean (e : Word64 × Word64) : Word64 × Word64 := (e.1 &&& 0xFFFFFFFFFFE007FF#64, e.2 &&& 0x000FFFFFFFE00000#64)

/-- The templates of `.ltt` as they stand in the section. -/
def rawLtts (secs : List Section) : List (Vector (Word64 × Word64) 64) :=
  secs.flatMap fun s => match s.kind with
    | .ltt => (List.range (s.bytes.length / 1024)).map fun t =>
        let ws := (wordsOfBytes 128 (s.bytes.drop (1024 * t))).toArray
        Vector.ofFn fun i => lttClean (ws.getD (2 * i.val) 0, ws.getD (2 * i.val + 1) 0)
    | _ => []

/-- Entry 0 of every template maps the text with PR and PX. -/
def CodeObj.textEntries (c : CodeObj) (ts : List (Vector (Word64 × Word64) 64)) :
    Except Nat (List (Vector (Word64 × Word64) 64)) :=
  ts.zipIdx.mapM fun (t, i) => match lttEntry c.text c.textLen (1 + 2 + 16) (c.lttBase.getD (64 * i) 0) with
    | some e => .ok (t.set (0 : Fin 64) e)
    | none => .error 3

/-- Sections whose relocations the loader recognises (16 R313). -/
def secRelocated (k : SecKind) : Bool :=
  match k with
  | .text | .data | .ltt => true
  | _ => false

/-- A value of 64 bits, signed or not (DESIGN CHOICE, assumption log 42). -/
def fits64 (v : Int) : Bool := decide (-(2 ^ 63) ≤ v) && decide (v < 2 ^ 64)

/-- One relocation: S + A in its field, or for a template entry S alone (16 R314 R318). -/
def Linked.reloc (l : Linked) (c : CodeObj) (r : Reloc) (s : Nat) : Except Nat Linked :=
  let v : Int := s + r.addend
  match l.secs[r.section_]? with
  | none =>
    let k := r.section_ - l.secs.length
    match l.kiosks[k]? with
    | some n => if r.type = 4 ∧ r.offset = 16 ∧ fits64 v then
        .ok { l with kiosks := l.kiosks.set k { n with img := (BitVec.ofInt 64 v).toNat } } else .error 6
    | none => .error 6
  | some sec =>
    let put (f : Word64 → Word64) : Except Nat Linked := .ok { l with secs := l.secs.set r.section_ (patchSection sec r.offset f) }
    if !secRelocated sec.kind then .ok l
    else if r.offset + 8 > sec.bytes.length then .error 6
    else if (r.type = 1 ∨ r.type = 2 ∨ r.type = 4) ∧ !fits64 v then .error 6
    else match r.type with
      | 1 => put fun w => setBits w 0 32 (BitVec.ofInt 64 v).toNat
      | 2 => put fun w => setBits w 0 32 ((BitVec.ofInt 64 v).toNat / 2 ^ 32)
      | 3 =>
        let ws := wordsOfBytes (sec.bytes.length / 8) sec.bytes
        let d := v - (sec.base + 8 * bundleStart ws (r.offset / 8) : Nat)
        if d % 8 ≠ 0 ∨ d / 8 < -(2 ^ 23) ∨ d / 8 ≥ 2 ^ 23 then .error 6
        else put fun w => setBits w 20 24 (BitVec.ofInt 24 (d / 8)).toNat
      | 4 => put fun _ => BitVec.ofInt 64 v
      | 5 =>
        let e := r.offset / 16
        match l.ltts[e / 64]? with
        | none => .error 6
        | some t =>
          if r.offset % 16 ≠ 0 then .error 6
          else if e % 64 = 0 then .error 3
          else match lttEntry s (c.lttLen.getD e 0) (1 + bits (t.get (Fin.ofNat 64 e)).1.toNat 1 10 * 2)
              (c.lttBase.getD e 0) with
            | none => .error 3
            | some x => .ok { l with ltts := l.ltts.set (e / 64) (t.set (Fin.ofNat 64 e) x) }
      | _ => .error 6

/-- Relocations in order. -/
def linkAll (cs : List CodeObj) (c : CodeObj) : List Reloc → Linked → Except Nat Linked
  | [], l => if l.ltts.any lttsBad then .error 3 else if l.kiosks.any (fun n => !n.imageOk) then .error 2 else .ok l
  | r :: rs, l =>
    match c.syms[r.sym]? with
    | none => .error 6
    | some s =>
      match resolveSym cs c s with
      | .error e => .error e
      | .ok a =>
        match l.reloc c r a with
        | .error e => .error e
        | .ok l1 => linkAll cs c rs l1

/-- An object linked among the objects of its context. -/
def CodeObj.link (c : CodeObj) (cs : List CodeObj) : Except Nat Linked :=
  if c.syms.any (fun s => s.sec.isNone && s.strong && !s.loc && (winner cs s.name).isNone) then .error 4
  else match c.textEntries (rawLtts c.secs) with
    | .error e => .error e
    | .ok ts => linkAll cs c c.relocs ⟨c.secs, ts, c.kiosks⟩

/-! ### Loading and unloading (16 R319 R323) -/

/-- The ELF header (16 R312). -/
def headerOk (i : ElfImage) : Bool := i.class64 && i.lsb && i.type_ == 3 && i.machine == 0x5E86 && i.flags == 0

/-- The alignment of a section's address (16 R313). -/
def sectionAligned (s : Section) : Bool :=
  s.base % (match s.kind with | .circuit => 32 | .ltt => 16 | _ => 8) == 0

/-- Bytes of a part that an image's header names: where it ends. -/
def imageEnd (ws : List Word64) : Nat :=
  let h := CircHeader.ofWords ws
  [64, h.offW + (if h.paged then 0 else 32 * h.nw), h.offT + 16 * h.nt, h.offS + 1024, h.offL + 2 * h.nl, h.offO + 2 * h.no,
    h.offP + 8 * h.np].foldl max 0

/-- The page table of a paged image at `base`, whose pages follow the image from the next 64-byte boundary on (DESIGN CHOICE,
assumption log 42): KIND 1, with the buffer number as it stands (11 R234 R247). -/
def pageTable (base pages nt : Nat) (old : List Word64) : List Word64 :=
  (List.range nt).flatMap fun p =>
    [(blkWord old (2 * p) &&& 0x3F0000#64) + 1, BitVec.ofNat 64 (base + pages + 65536 * p)]

/-- The loader fills the page tables of the circuit images that stand one after another from offset `off` on. -/
def fillPages (base : Nat) : Nat → Nat → List Byte → List Byte
  | 0, _, bs => bs
  | n + 1, off, bs =>
    let ws := wordsOfBytes 8 ((bs.drop off).take 64)
    let h := CircHeader.ofWords ws
    if bs.length < off + 64 ∨ !h.ok then bs
    else
      let last := off + imageEnd ws
      if h.paged then
        let pages := (base + last + 63) / 64 * 64 - base
        let t := off + h.offT
        let old := wordsOfBytes (2 * h.nt) ((bs.drop t).take (16 * h.nt))
        let bs' := bs.take t ++ bytesOfWords (pageTable base pages h.nt old) ++ bs.drop (t + 16 * h.nt)
        fillPages base n ((pages + 32 * h.nw + 31) / 32 * 32) bs'
      else fillPages base n ((last + 31) / 32 * 32) bs

def sectionFilled (s : Section) : Section :=
  match s.kind with
  | .circuit => { s with bytes := fillPages s.base s.bytes.length 0 s.bytes }
  | _ => s

/-- Steps 1 and 2: the checks of the header and of the notes, and the sections in their places. A section off its alignment is no
object of the container's form (DESIGN CHOICE, assumption log 42). -/
def draftOf (i : ElfImage) : Except Nat Draft :=
  if !headerOk i || i.sections.any (fun s => !sectionAligned s) then .error 1
  else
    let len := (textOf i.sections).bytes.length
    let ts := (rawLtts i.sections).length
    match ((notesOf i 1).mapM fun n => kcbOfNote ts len n.words), ((notesOf i 2).mapM fun n => kioskOfNote ts len n.words) with
    | some kcbs, some kiosks => .ok ⟨i.sections.map sectionFilled, i.symbols, i.relocs, kcbs, kiosks⟩
    | _, _ => .error 2

def Draft.object (d : Draft) (i : ElfImage) (func : Nat) (ctx : BitVec 8) : CodeObj :=
  ⟨func, ctx, (textOf d.secs).base, (textOf d.secs).bytes.length, d.secs, d.syms, d.relocs, d.kcbs, d.kiosks, [], i.lttBase,
    i.lttLen, false⟩

/-- An object of a context, checked and linked among the older ones, before and after the binding that its load asks for: steps 1
to 4 of a load in their order. -/
def objectOf (i : ElfImage) (func : Nat) (ctx : BitVec 8) (old : List CodeObj) : Except Nat (CodeObj × Linked) :=
  match draftOf i with
  | .error e => .error e
  | .ok d =>
    let c := d.object i func ctx
    if conflicts? old c then .error 5
    else match c.link (old ++ [c]) with
      | .error e => .error e
      | .ok l =>
        match i.port with
        | none => .ok (c, l)
        | some p =>
          if !(i.bind && d.kcbs.any Kcb.profA) then .ok (c, l)
          else match d.bind p with
            | .error e => .error e
            | .ok d1 =>
              let c1 := d1.object i func ctx
              match c1.link (old ++ [c1]) with
              | .error e => .error e
              | .ok l1 => .ok (c1, l1)

/-- Where the loader's byte goes: through a template, else through the context's page tables; none where neither maps it or the write, one of
host function `fn`, fails at its target (23 R337 R339). -/
def State.placed (s : State) (fn : Nat) (ctx : BitVec 8) (ts : List (Vector (Word64 × Word64) 64)) (va : Nat) : Option Nat :=
  let pa := match ts.findSome? (fun t => (lttFind t va).map fun e => lttPhys e va) with
    | some pa => some pa
    | none => match s.walk none ctx (s.rootOf ctx) (BitVec.ofNat 64 va) 0 with
      | .handle h => some (h.pa + (va - h.va))
      | _ => none
  pa.filter fun pa => (s.physFault (0x900 + fn) ctx (BitVec.ofNat 64 va) pa 1 1).isNone

/-- Bytes of a linked object with their addresses; the templates are no memory. -/
def Linked.image (l : Linked) : List (Nat × Byte) :=
  l.secs.flatMap fun x => match x.kind with
    | .ltt => []
    | _ => x.bytes.zipIdx.map fun (b, i) => (x.base + i, b)

/-- The loader writes bytes, all of them or none (DESIGN CHOICE, assumption log 42). -/
def State.loadBytes (s : State) (fn : Nat) (ctx : BitVec 8) (ts : List (Vector (Word64 × Word64) 64)) : List (Nat × Byte) → Option State
  | [] => some s
  | (va, b) :: l =>
    match s.placed fn ctx ts va with
    | none => none
    | some pa => (s.pwrite pa [b]).loadBytes fn ctx ts l

/-- A linked object stands in memory with the bytes that are new, and its text leaves the instruction caches (16 R319 step 5);
load error 3 where a byte has no place (DESIGN CHOICE, assumption log 42). -/
def State.install (s : State) (h : Nat) (c : CodeObj) (l : Linked) (new : List (Nat × Byte)) : Except Nat State :=
  match s.loadBytes c.func c.ctx l.ltts new with
  | none => .error 3
  | some s1 => .ok (({ s1 with codes := s1.codes.set h { c with ltts := l.ltts, kiosks := l.kiosks, ready := true } } :
      State).invalidate (fun _ => true) c.text c.textLen)

/-- A grid runs or a launch waits that uses an object. -/
def State.codeUsed (s : State) (h : Nat) (c : CodeObj) : Bool :=
  s.grids.any (fun e => e.2.code == h) || s.queues.any fun e => e.2.ctx == c.ctx && e.2.waiting.any fun l => l.code == h

/-- The objects of a context, in load order. -/
def State.objects (s : State) (ctx : BitVec 8) : List (Nat × CodeObj) := s.codes.filter fun e => e.2.ctx == ctx

/-- An object whose references change, with the link it had and the link it gets. -/
structure Relink where
  handle : Nat
  obj    : CodeObj
  was    : Linked
  now    : Linked
  deriving DecidableEq, Repr

/-- The objects whose references change when the context's objects become `cs`, or the load error of one that cannot be linked. -/
def State.rebound (s : State) (ctx : BitVec 8) (skip : Nat) (cs : List CodeObj) : Except Nat (List Relink) :=
  let old := (s.objects ctx).map Prod.snd
  ((s.objects ctx).filter fun e => e.1 != skip).foldlM (fun r (h, c) =>
    match c.link old, c.link cs with
    | .ok a, .ok b => .ok (if a = b then r else r ++ [⟨h, c, a, b⟩])
    | _, .error e => .error e
    | .error e, _ => .error e) []

/-- The templates of the new link, with the PABASE of every entry that LTTPATCH has rewritten as it stands (25 R362). -/
def Relink.ltts (r : Relink) : List (Vector (Word64 × Word64) 64) :=
  r.now.ltts.zipIdx.map fun (t, i) => match r.obj.ltts[i]?, r.was.ltts[i]? with
    | some a, some b => Vector.ofFn fun j => if (a.get j).2 = (b.get j).2 then t.get j else ((t.get j).1, (a.get j).2)
    | _, _ => t

/-- The bytes that repatching changes. -/
def Relink.bytes (r : Relink) : List (Nat × Byte) :=
  ((r.was.image.zip r.now.image).filter fun x => x.1 != x.2).map Prod.snd

/-- Objects are repatched under R319 steps 3 and 5; none while a grid uses one of them: the load waits. -/
def State.rebind (s : State) (rs : List Relink) : Option (Except Nat State) :=
  if rs.any fun r => s.codeUsed r.handle r.obj then none
  else some (rs.foldlM (fun s r => s.install r.handle r.obj { r.now with ltts := r.ltts } r.bytes) s)

/-- A handle above every other, so that handles are in load order (DESIGN CHOICE, assumption log 42). -/
def State.newHandle (s : State) : Nat := s.codes.foldl (fun m e => max m (e.1 + 1)) 1

/-- The latest load error of a function; 0 where its latest load succeeded (16 R319). -/
def State.loadResult (s : State) (func e : Nat) : State := s.updFunc func fun f => { f with loadErr := e }

/-- The load of an object into a context: a failure at any step leaves the context as it was and reports its load error (16 R319).
A load that displaces the winner of a symbol waits while a grid uses an object that it repatches: nothing happens until it is asked
for again (DESIGN CHOICE, assumption log 42). -/
def execCodeObjectLoad (func : Nat) (ctx : BitVec 8) (img : ElfImage) (s : State) : Out :=
  let r := s.ctxRegs ctx.toNat
  if !r.alive || !s.owns func ctx.toNat || !s.funcLives func then .next s
  else
    let old := (s.objects ctx).map Prod.snd
    match objectOf img r.func.toNat ctx old with
    | .error e => .next (s.loadResult func e)
    | .ok (c, l) =>
      match s.rebound ctx 0 (old ++ [c]) with
      | .error e => .next (s.loadResult func e)
      | .ok rs =>
        match s.rebind rs with
        | none => .next s
        | some (.error e) => .next (s.loadResult func e)
        | some (.ok t) =>
          match t.install s.newHandle c l l.image with
          | .error e => .next (s.loadResult func e)
          | .ok u => .next (u.loadResult func 0)

/-- An object leaves its context, unless a strong reference would be left undefined or a grid uses it. -/
def execCodeObjectUnload (func : Nat) (ctx : BitVec 8) (code : Nat) (s : State) : Out :=
  match s.codes.get? code with
  | none => .next s
  | some c =>
    if c.ctx ≠ ctx || !s.owns func ctx.toNat || !s.funcLives func || s.codeUsed code c then .next s
    else
      let cs := ((s.objects ctx).filter fun e => e.1 != code).map Prod.snd
      match s.rebound ctx code cs with
      | .error _ => .next s
      | .ok rs =>
        match s.rebind rs with
        | some (.ok t) => .next { t with codes := t.codes.del code }
        | _ => .next s

end Sys2Proof.Machine
end

