-- ==== Sys2Proof/Machine/ScalarFp.lean ====
section
/-! DEFINITION. Scalar FP64 instructions of class S (07 R151 to R153). -/
namespace Sys2Proof.Machine

/-- The mode of an S-class operation: a resolved RSTO rounds RNE (05 R102). -/
def State.rmS (s : State) (rm : Rm) : Rnd :=
  match s.rmode rm with
  | .rsto => Rnd.rne
  | r => ⟨r, 0⟩

def f64 (w : Word64) : Fl := FFmt.f64.unpack w.toNat

def w64 (x : Nat × Ev) : Word64 × Ev := (BitVec.ofNat 64 x.1, x.2)

/-- A rounded operation of A, B and the old destination. -/
def State.sFp (s : State) (o : SFp) (lat : Nat) (reads : List SReg) (f : Rnd → Fl → Fl → Fl → Nat × Ev) : Out :=
  s.when o.g
    (let (v, ev) := w64 (f (s.rmS o.rm) (f64 (s.rs o.a)) (f64 (s.rs o.b)) (f64 (s.rs o.d)))
     .next ((s.ebp reads).putS o.d lat v ev))

def execFadd (o : SFp) (s : State) : Out := s.sFp o 4 [o.a, o.b] fun q a b _ => FFmt.f64.add q a b

def execFsub (o : SFp) (s : State) : Out := s.sFp o 4 [o.a, o.b] fun q a b _ => FFmt.f64.add q a b.neg

def execFmul (o : SFp) (s : State) : Out := s.sFp o 4 [o.a, o.b] fun q a b _ => FFmt.f64.mul q a b

def execFma (o : SFp) (s : State) : Out := s.sFp o 4 [o.d, o.a, o.b] fun q a b d => FFmt.f64.fma q a b d

def execFdiv (o : SFp) (s : State) : Out := s.sFp o 20 [o.a, o.b] fun q a b _ => FFmt.f64.div q a b

def execFsqrt (g : Guard) (d a : SReg) (rm : Rm) (s : State) : Out :=
  s.when g
    (let (v, ev) := w64 (FFmt.f64.sqrt (s.rmS rm) (f64 (s.rs a)))
     .next ((s.ebp [a]).putS d 24 v ev))

def execFcmp (g : Guard) (pd : Fin 64) (cc : FCc) (a b : SReg) (s : State) : Out :=
  s.when g
    (let (v, ev) := fcmpHolds cc (f64 (s.rs a)) (f64 (s.rs b))
     .next ((s.ebp [a, b]).putP pd 4 (BitVec.allOnes 64) (allLanes v) ev))

/-- The conversions of 07 R153. -/
def fcvt (kind : FcvtKind) (q : Rnd) (a : Word64) : Word64 × Ev :=
  let int (x : Int × Ev) : Word64 × Ev := (BitVec.ofInt 64 x.1, x.2)
  match kind with
  | .toi => int ((f64 a).toInt q (-(2 ^ 63)) (2 ^ 63 - 1))
  | .tou => int ((f64 a).toInt q 0 (2 ^ 64 - 1))
  | .fromi => w64 (FFmt.f64.ofInt q a.toInt)
  | .fromu => w64 (FFmt.f64.ofInt q a.toNat)
  | .tof32 => w64 (FFmt.f32.ofFl q (f64 a))
  | .fromf32 => w64 (FFmt.f64.ofFl q (FFmt.f32.unpack a.toNat))
  | .rint => w64 (FFmt.f64.rint q (f64 a))

def execFcvt (g : Guard) (kind : FcvtKind) (rm : Rm) (d a : SReg) (s : State) : Out :=
  s.when g
    (let (v, ev) := fcvt kind (s.rmS rm) (s.rs a)
     .next ((s.ebp [a]).putS d 4 v ev))

def State.sMinMax (s : State) (g : Guard) (mx : Bool) (d a b : SReg) : Out :=
  s.when g
    (let (v, ev) := w64 (FFmt.f64.minMax mx (s.rs a).toNat (s.rs b).toNat)
     .next ((s.ebp [a, b]).putS d 4 v ev))

def execFmin (g : Guard) (d a b : SReg) (s : State) : Out := s.sMinMax g false d a b

def execFmax (g : Guard) (d a b : SReg) (s : State) : Out := s.sMinMax g true d a b

end Sys2Proof.Machine
end

