-- ==== Sys2Proof/Machine/VectorFp.lean ====
section
/-! DEFINITION. Vector floating point: arithmetic, sign operations, comparison, classes and exponents (09 R200 to R202, R207).
-/
namespace Sys2Proof.Machine

/-- Ticks of the group VADD to VCPS: 4 (5 in profile A) for F32 and BF16, 6 for F64 (09 R200, 03 R66 R67). -/
def State.vfLat (s : State) (f : FpFmt) : Nat := if fpPair f then 6 else s.fpLat 4

/-- A rounded operation of a and b. -/
def State.vFp2 (s : State) (o : VFp) (f : FFmt → Rnd → Fl → Fl → Nat × Ev) : Out :=
  let rm := s.rmode o.rm
  let a := s.rv64 (fpPair o.fmt) o.a
  let b := s.rv64 (fpPair o.fmt) o.b
  .next ((s.drew rm).vLanes o.g (fpPair o.fmt) o.d (s.vfLat o.fmt) [o.a, o.b] fun i =>
    fbits (f (fpf o.fmt) (s.rnd rm i.val) (flOf o.fmt (a.get i)) (flOf o.fmt (b.get i))))

/-- A fused operation of a, b and c; c is the destination when no X names it. -/
def State.vFp3 (s : State) (o : VFma) (f : FFmt → Rnd → Fl → Fl → Fl → Nat × Ev) : Out :=
  let v := o.o
  let rc := o.c.getD v.d
  let rm := s.rmode v.rm
  let a := s.rv64 (fpPair v.fmt) v.a
  let b := s.rv64 (fpPair v.fmt) v.b
  let c := s.rv64 (fpPair v.fmt) rc
  .next ((s.drew rm).vLanes v.g (fpPair v.fmt) v.d (s.vfLat v.fmt) [v.a, v.b, rc] fun i =>
    fbits (f (fpf v.fmt) (s.rnd rm i.val) (flOf v.fmt (a.get i)) (flOf v.fmt (b.get i)) (flOf v.fmt (c.get i))))

/-- A rounded operation of one source at 8 ticks. -/
def State.vFp1 (s : State) (o : VFpUn) (f : FFmt → Rnd → Fl → Nat × Ev) : Out :=
  let rm := s.rmode o.rm
  let a := s.rv64 (fpPair o.fmt) o.a
  .next ((s.drew rm).vLanes o.g (fpPair o.fmt) o.d 8 [o.a] fun i =>
    fbits (f (fpf o.fmt) (s.rnd rm i.val) (flOf o.fmt (a.get i))))

/-- An exact operation on the bit patterns of a and b. -/
def State.vBits2 (s : State) (o : VFpBin) (f : FFmt → Nat → Nat → Nat × Ev) : Out :=
  let n := (fpf o.fmt).p + (fpf o.fmt).eb
  let a := s.rv64 (fpPair o.fmt) o.a
  let b := s.rv64 (fpPair o.fmt) o.b
  .next (s.vLanes o.g (fpPair o.fmt) o.d (s.vfLat o.fmt) [o.a, o.b] fun i =>
    fbits (f (fpf o.fmt) ((a.get i).toNat % 2 ^ n) ((b.get i).toNat % 2 ^ n)))

/-- An exact operation on the bit pattern of a. -/
def State.vBits1 (s : State) (o : VFpOne) (pairD : Bool) (lat : Nat) (f : FFmt → Nat → Nat) : Out :=
  let n := (fpf o.fmt).p + (fpf o.fmt).eb
  let a := s.rv64 (fpPair o.fmt) o.a
  .next (s.vLanes o.g pairD o.d lat [o.a] fun i => (BitVec.ofNat 64 (f (fpf o.fmt) ((a.get i).toNat % 2 ^ n)), 0))

def execVadd (o : VFp) (s : State) : Out := s.vFp2 o FFmt.add

def execVsub (o : VFp) (s : State) : Out := s.vFp2 o fun f q a b => f.add q a b.neg

def execVmul (o : VFp) (s : State) : Out := s.vFp2 o FFmt.mul

def execVfma (o : VFma) (s : State) : Out := s.vFp3 o FFmt.fma

def execVfms (o : VFma) (s : State) : Out := s.vFp3 o fun f q a b c => f.fma q a b c.neg

def execVfnma (o : VFma) (s : State) : Out := s.vFp3 o fun f q a b c => f.fma q a.neg b c

def execVmin (o : VFpBin) (s : State) : Out := s.vBits2 o fun f a b => f.minMax false a b

def execVmax (o : VFpBin) (s : State) : Out := s.vBits2 o fun f a b => f.minMax true a b

/-- A sign operation: a NaN yields the canonical NaN, quietly (09 R200). -/
def signOp (f : FFmt) (a : Nat) (neg : Bool) : Nat :=
  if (f.unpack a).isNan then f.nanBits else a % f.signBit + f.sgn neg

def execVabs (o : VFpOne) (s : State) : Out := s.vBits1 o (fpPair o.fmt) (s.vfLat o.fmt) fun f a => signOp f a false

def execVneg (o : VFpOne) (s : State) : Out :=
  s.vBits1 o (fpPair o.fmt) (s.vfLat o.fmt) fun f a => signOp f a (decide (a < f.signBit))

def execVcps (o : VFpBin) (s : State) : Out := s.vBits2 o fun f a b => (signOp f a (decide (b ≥ f.signBit)), 0)

def execVrcp (o : VFpUn) (s : State) : Out := s.vFp1 o FFmt.rcp

def execVsqrt (o : VFpUn) (s : State) : Out := s.vFp1 o FFmt.sqrt

def execVrsq (o : VFpUn) (s : State) : Out := s.vFp1 o FFmt.rsq

def execVexp2 (o : VFpUn) (s : State) : Out := s.vFp1 o FFmt.exp2

def execVlog2 (o : VFpUn) (s : State) : Out := s.vFp1 o FFmt.log2

def execVcmp (g : Guard) (pd : Fin 64) (cc : FCc) (fmt : FpFmt) (ra rb : VReg) (s : State) : Out :=
  let a := s.rv64 (fpPair fmt) ra
  let b := s.rv64 (fpPair fmt) rb
  .next (s.vCmp g pd [ra, rb] fun i => fcmpHolds cc (flOf fmt (a.get i)) (flOf fmt (b.get i)))

/-- The class mask of a value (09 R202). -/
def classMask (f : FFmt) (a : Nat) : Nat :=
  match f.unpack a with
  | .nan sig => if sig then 2 ^ 8 else 2 ^ 9
  | .inf n => if n then 2 ^ 0 else 2 ^ 7
  | .fin n m _ =>
    if m = 0 then (if n then 2 ^ 3 else 2 ^ 4)
    else if m < 2 ^ (f.p - 1) then (if n then 2 ^ 2 else 2 ^ 5)
    else if n then 2 ^ 1 else 2 ^ 6

def execVclass (o : VFpOne) (s : State) : Out := s.vBits1 o false 2 classMask

/-! ### Exponents (09 R207) -/

/-- ⌊log2 |a|⌋ with its special values. -/
def expx (f : FFmt) (a : Nat) : Nat :=
  match f.unpack a with
  | .fin _ m e => if m = 0 then 0x80000000 else (((bitLen m : Int) - 1 + e).emod (2 ^ 32)).toNat
  | _ => 0x7FFFFFFF

def execVexpx (o : VFpOne) (s : State) : Out := s.vBits1 o false 2 expx

/-- a × 2^b, rounded; b beyond ±5000 rounds as at that bound. -/
def ldx (f : FFmt) (q : Rnd) (a : Fl) (b : Int) : Nat × Ev :=
  match a with
  | .fin n m e => f.roundFin q n m (e + max (-5000) (min 5000 b))
  | x => f.ofFl q x

def execVldx (o : VFp) (s : State) : Out :=
  let rm := s.rmode o.rm
  let a := s.rv64 (fpPair o.fmt) o.a
  let b := s.rv o.b
  .next ((s.drew rm).vLanes o.g (fpPair o.fmt) o.d 2 [o.a, o.b] fun i =>
    fbits (ldx (fpf o.fmt) (s.rnd rm i.val) (flOf o.fmt (a.get i)) (b.get i).toInt))

/-- a × 2^−⌊log2 |a|⌋. -/
def mant (f : FFmt) (a : Nat) : Nat :=
  match f.unpack a with
  | .fin n m _ => if m = 0 then a else (f.roundFin Rnd.rne n m (1 - (bitLen m : Int))).1
  | .inf _ => a
  | .nan _ => f.nanBits

def execVmant (o : VFpOne) (s : State) : Out := s.vBits1 o (fpPair o.fmt) 2 mant

end Sys2Proof.Machine
end

