-- ==== Sys2Proof/Machine/VectorInt.lean ====
section
/-! DEFINITION. Vector integer operations and conversions (09 R203 to R205). -/
namespace Sys2Proof.Machine

/-- An integer operation of a and b, wrapped mod 2^n. -/
def State.vInt2 (s : State) (o : VInt) (lat : Nat) (f : IntFmt → Int → Int → Int × Ev) : Out :=
  let a := s.rv64 (intPair o.fmt) o.a
  let b := s.rv64 (intPair o.fmt) o.b
  .next (s.vLanes o.g (intPair o.fmt) o.d lat [o.a, o.b] fun i =>
    let r := f o.fmt (intVal o.fmt (a.get i)) (intVal o.fmt (b.get i))
    (intPut o.fmt r.1, r.2))

/-- An operation on the element's bits. -/
def State.vRaw2 (s : State) (o : VInt) (lat : Nat) (f : Nat → Nat → Nat → Nat) : Out :=
  let a := s.rv64 (intPair o.fmt) o.a
  let b := s.rv64 (intPair o.fmt) o.b
  .next (s.vLanes o.g (intPair o.fmt) o.d lat [o.a, o.b] fun i =>
    (intPut o.fmt (f (intBits o.fmt) (intRaw o.fmt (a.get i)) (intRaw o.fmt (b.get i))), 0))

def State.vRaw1 (s : State) (o : VIntUn) (f : Nat → Nat → Nat) : Out :=
  let a := s.rv64 (intPair o.fmt) o.a
  .next (s.vLanes o.g (intPair o.fmt) o.d 2 [o.a] fun i =>
    (intPut o.fmt (f (intBits o.fmt) (intRaw o.fmt (a.get i))), 0))

def satIf (sat : Bool) (f : IntFmt) (v : Int) : Int × Ev := if sat then intSat f v else (v, 0)

def execViadd (sat : Bool) (o : VInt) (s : State) : Out := s.vInt2 o 2 fun f a b => satIf sat f (a + b)

def execVisub (sat : Bool) (o : VInt) (s : State) : Out := s.vInt2 o 2 fun f a b => satIf sat f (a - b)

def execVimul (o : VInt) (s : State) : Out := s.vInt2 o 2 fun _ a b => (a * b, 0)

def execVimulh (o : VInt) (s : State) : Out := s.vInt2 o 2 fun f a b => ((a * b).fdiv (2 ^ intBits f : Nat), 0)

def execVand (o : VInt) (s : State) : Out := s.vRaw2 o 1 fun _ a b => a &&& b

def execVor (o : VInt) (s : State) : Out := s.vRaw2 o 1 fun _ a b => a ||| b

def execVxor (o : VInt) (s : State) : Out := s.vRaw2 o 1 fun _ a b => a ^^^ b

def execVshl (o : VInt) (s : State) : Out := s.vRaw2 o 1 fun n a b => a <<< (b % n)

def execVshr (o : VInt) (s : State) : Out := s.vRaw2 o 1 fun n a b => a >>> (b % n)

/-- Right shift filling with the element's top bit, whatever the format's signedness. -/
def sarBits (n a k : Nat) : Nat := if a.testBit (n - 1) then (a + (2 ^ k - 1) * 2 ^ n) >>> k else a >>> k

def execVsar (o : VInt) (s : State) : Out := s.vRaw2 o 1 fun n a b => sarBits n a (b % n)

def execVimin (o : VInt) (s : State) : Out := s.vInt2 o 2 fun _ a b => (min a b, 0)

def execVimax (o : VInt) (s : State) : Out := s.vInt2 o 2 fun _ a b => (max a b, 0)

def execVpopc (o : VIntUn) (s : State) : Out := s.vRaw1 o popNat

def execVclz (o : VIntUn) (s : State) : Out := s.vRaw1 o clzNat

def icHolds (cc : ICc) (a b : Int) : Bool :=
  match cc with
  | .eq => a == b
  | .ne => a != b
  | .lt => a < b
  | .le => a ≤ b
  | .gt => a > b
  | .ge => a ≥ b

def execVicmp (g : Guard) (pd : Fin 64) (cc : ICc) (fmt : IntFmt) (ra rb : VReg) (s : State) : Out :=
  let a := s.rv64 (intPair fmt) ra
  let b := s.rv64 (intPair fmt) rb
  .next (s.vCmp g pd [ra, rb] fun i => (icHolds cc (intVal fmt (a.get i)) (intVal fmt (b.get i)), 0))

/-! ### Conversions (09 R205) -/

/-- Whether a conversion rounds with rm. -/
def cvtRounds (src dst : NumFmt) : Bool :=
  match src, dst with
  | .fp a, .fp b => decide ((fpf b).p < (fpf a).p)
  | .fp _, .int _ => true
  | .int _, .fp _ => true
  | .int _, .int _ => false

def cvt (src dst : NumFmt) (q : Rnd) (w : Word64) : Word64 × Ev :=
  match src, dst with
  | .fp a, .fp b => fbits ((fpf b).ofFl q (flOf a w))
  | .fp a, .int b =>
    let r := (flOf a w).toInt q (intMin b) (intMax b)
    (intPut b r.1, r.2)
  | .int a, .fp b => fbits ((fpf b).ofInt q (intVal a w))
  | .int a, .int b =>
    let r := intSat b (intVal a w)
    (intPut b r.1, r.2)

def execVcvt (g : Guard) (src dst : NumFmt) (rm : Rm) (d ra : VReg) (s : State) : Out :=
  let m := if cvtRounds src dst then s.rmode rm else .rne
  let a := s.rv64 (numPair src) ra
  .next ((s.drew m).vLanes g (numPair dst) d 3 [ra] fun i => cvt src dst (s.rnd m i.val) (a.get i))

end Sys2Proof.Machine
end

