-- ==== Sys2Proof/Machine/VectorMove.lean ====
section
/-! DEFINITION. Vector movement, row-axis and column-axis operations, and random numbers (09 R209 to R215, 05 R123 to R125).
-/
namespace Sys2Proof.Machine

def fmtPair (f : Fmt) : Bool :=
  match f with
  | .num n => numPair n
  | .sef => true
  | .mx _ => false

/-- A whole-vector result, one register or a pair, in every lane. -/
def State.vWhole (s : State) (g : Guard) (pair : Bool) (d : VReg) (lat : Nat) (srcs : List VReg)
    (f : Fin 64 → Word64) (ev : Ev := 0) : Out :=
  s.when g (.next ((s.ebp [] srcs).putV64 pair d lat (BitVec.allOnes 64) (Vector.ofFn f) ev))

/-- The lane of a vector at an index mod 64. -/
def laneAt (v : Vec64) (n : Nat) : Word64 := v.get (Fin.ofNat 64 n)

def execVmov (g : Guard) (fmt : Fmt) (d ra : VReg) (s : State) : Out :=
  let a := s.rv64 (fmtPair fmt) ra
  .next (s.vLanes g (fmtPair fmt) d 1 [ra] fun i => (a.get i, 0))

/-- The predicate selects; every lane is written. -/
def execVsel (g : Guard) (pair : Bool) (d ra rb : VReg) (s : State) : Out :=
  let a := s.rv64 pair ra
  let b := s.rv64 pair rb
  let m := s.lanes g
  .next ((s.ebp [] [ra, rb]).putV64 pair d 1 (BitVec.allOnes 64)
    (Vector.ofFn fun i => if m.getLsbD i.val then a.get i else b.get i))

def execVsplat (g : Guard) (d : VReg) (v : Word32) (s : State) : Out :=
  s.vWhole g false d 1 [] fun _ => v.setWidth 64

def execVext (g : Guard) (pair : Bool) (d ra rb : VReg) (n : Fin 64) (s : State) : Out :=
  let a := s.rv64 pair ra
  let b := s.rv64 pair rb
  s.vWhole g pair d 2 [ra, rb] fun i => if i.val + n.val < 64 then laneAt a (i.val + n.val) else laneAt b (i.val + n.val)

def execViota (g : Guard) (pair : Bool) (d : VReg) (start : Word32) (s : State) : Out :=
  .next (s.vLanes g pair d 1 [] fun i => (start.signExtend 64 + BitVec.ofNat 64 i.val, 0))

/-! ### Row axis (09 R210 to R212) -/

def execVrotr (o : VIdx) (s : State) : Out :=
  let a := s.rv64 (fmtPair o.fmt) o.a
  s.vWhole o.g (fmtPair o.fmt) o.d 2 [o.a] fun i => laneAt a (i.val + o.n.val)

def execVbcr (o : VIdx) (s : State) : Out :=
  let a := s.rv64 (fmtPair o.fmt) o.a
  s.vWhole o.g (fmtPair o.fmt) o.d 2 [o.a] fun _ => a.get o.n

def execVperm (g : Guard) (fmt : Fmt) (d ra rb : VReg) (s : State) : Out :=
  let a := s.rv64 (fmtPair fmt) ra
  let b := s.rv rb
  s.vWhole g (fmtPair fmt) d 3 [ra, rb] fun i => laneAt a ((b.get i).toNat % 64)

/-- The set bits of a mask, ascending. -/
def setLanes (m : Mask) : List Nat := (List.range 64).filter fun i => m.getLsbD i

def execVcmpr (g : Guard) (fmt : Fmt) (d ra : VReg) (pm : Fin 64) (s : State) : Out :=
  let a := s.rv64 (fmtPair fmt) ra
  let src := (setLanes (s.cur.pred pm)).toArray
  s.vWhole g (fmtPair fmt) d 3 [ra] fun i =>
    match src[i.val]? with
    | some j => laneAt a j
    | none => 0

def execVexpd (g : Guard) (fmt : Fmt) (d ra : VReg) (pm : Fin 64) (s : State) : Out :=
  let a := s.rv64 (fmtPair fmt) ra
  let m := s.cur.pred pm
  let pos := setLanes m
  s.vWhole g (fmtPair fmt) d 3 [ra] fun i => if m.getLsbD i.val then laneAt a (pos.idxOf i.val) else 0

/-! ### Reductions and scans (05 R123 to R125, 09 R211 R213) -/

/-- One combine, and the form in which an element is delivered. -/
def combine (o : VRed) (q : Rnd) (a b : Word64) : Word64 × Ev :=
  match o.fmt with
  | .fp f =>
    let n := (fpf f).p + (fpf f).eb
    match o.op with
    | .max => fbits ((fpf f).minMax true (a.toNat % 2 ^ n) (b.toNat % 2 ^ n))
    | .min => fbits ((fpf f).minMax false (a.toNat % 2 ^ n) (b.toNat % 2 ^ n))
    | _ => fbits ((fpf f).add q (flOf f a) (flOf f b))
  | .int f =>
    let x := intVal f a
    let y := intVal f b
    match o.op with
    | .sum =>
      let r := if o.sat then intSat f (x + y) else (x + y, 0)
      (intPut f r.1, r.2)
    | .max => (intPut f (max x y), 0)
    | .min => (intPut f (min x y), 0)
    | .and => (intPut f (intRaw f a &&& intRaw f b : Nat), 0)
    | .or => (intPut f (intRaw f a ||| intRaw f b : Nat), 0)
    | .xor => (intPut f (intRaw f a ^^^ intRaw f b : Nat), 0)

/-- The first element of a scan as a result of its format (05 R97 R99 R100). -/
def deliver (f : NumFmt) (a : Word64) : Word64 × Ev :=
  match f with
  | .fp f =>
    let n := (fpf f).p + (fpf f).eb
    match flOf f a with
    | .nan s => (BitVec.ofNat 64 (fpf f).nanBits, nvIf s)
    | _ => (BitVec.ofNat 64 (a.toNat % 2 ^ n), 0)
  | .int f => (intPut f (intVal f a), 0)

/-- A reduction rounds RNE under RSTO and draws nothing (09 R211). -/
def State.rmRed (s : State) (rm : Rm) : Rnd :=
  match s.rmode rm with
  | .rsto => Rnd.rne
  | r => ⟨r, 0⟩

/-- One level of the tree: the first half combined with the second. -/
def treeLevel (op : Word64 → Word64 → Word64 × Ev) (x : List Word64) : List Word64 × Ev :=
  let h := x.length / 2
  let r := (x.take h).zipWith op (x.drop h)
  (r.map Prod.fst, Ev.union (r.map Prod.snd))

/-- The fixed tree of 2^n elements (05 R123 R124). -/
def treeReduce (op : Word64 → Word64 → Word64 × Ev) : Nat → List Word64 → Word64 × Ev
  | 0, x => (x.headD 0, 0)
  | n + 1, x =>
    let (y, e) := treeLevel op x
    let (r, e') := treeReduce op n y
    (r, e ||| e')

/-- y[i] := op(y[i−1], x[i]) from y on (05 R125). -/
def scanFrom (op : Word64 → Word64 → Word64 × Ev) : Word64 → List Word64 → List (Word64 × Ev)
  | _, [] => []
  | y, x :: l => op y x :: scanFrom op (op y x).1 l

def scan (o : VRed) (q : Rnd) (xs : List Word64) : List (Word64 × Ev) :=
  match xs with
  | [] => []
  | x :: l => deliver o.fmt x :: scanFrom (combine o q) (deliver o.fmt x).1 l

def execVredr (o : VRed) (s : State) : Out :=
  let p := numPair o.fmt
  let (r, ev) := treeReduce (combine o (s.rmRed o.rm)) 6 (s.rv64 p o.a).toList
  s.vWhole o.g p o.d 4 [o.a] (fun _ => r) ev

def execVscanr (o : VRed) (s : State) : Out :=
  let p := numPair o.fmt
  let y := scan o (s.rmRed o.rm) (s.rv64 p o.a).toList
  let arr := (y.map Prod.fst).toArray
  s.vWhole o.g p o.d 5 [o.a] (fun i => arr.getD i.val 0) (Ev.union (y.map Prod.snd))

/-! ### Column axis (09 R213) -/

def execVrotc (g : Guard) (_fmt : NumFmt) (d ra : VReg) (n : Fin 16) (s : State) : Out :=
  s.when g (.next (s.putVs d 4 ((List.range 16).map fun i => s.rv (ra.plus ((i + n.val) % 16)))))

def execVbcc (g : Guard) (_fmt : NumFmt) (d ra : VReg) (n : Fin 16) (s : State) : Out :=
  s.when g (.next (s.putVs d 3 ((List.range 16).map fun _ => s.rv (ra.plus n.val))))

/-- Lane l of the 16 rows of a tile. -/
def columnOf (t : Vector Vec 16) (l : Fin 64) : List Word64 := t.toList.map fun r => (r.get l).setWidth 64

def execVredc (o : VRed) (s : State) : Out :=
  let t := s.rtile o.a
  let q := s.rmRed o.rm
  let r : Vector (Word64 × Ev) 64 := Vector.ofFn fun l => treeReduce (combine o q) 4 (columnOf t l)
  s.vWhole o.g false o.d 6 [] (fun i => (r.get i).1) (Ev.union (r.toList.map Prod.snd))

def execVscanc (o : VRed) (s : State) : Out :=
  let t := s.rtile o.a
  let q := s.rmRed o.rm
  let y : Vector (Array (Word64 × Ev)) 64 := Vector.ofFn fun l => (scan o q (columnOf t l)).toArray
  s.when o.g
    (.next (s.putVs o.d 7
      ((List.range 16).map fun i => Vec.ofLanes fun l => (((y.get l).getD i (0, 0)).1).setWidth 32)
      (Ev.union (y.toList.flatMap fun a => a.toList.map Prod.snd))))

/-! ### Random numbers (09 R214 R215) -/

def execVrngSet (g : Guard) (a : VReg) (s : State) : Out :=
  let v := s.rv a
  s.when g (.next ((s.ebp [] [a]).put 1 [.stoch (v.get 0) ((v.get 2) ++ (v.get 1)) (v.get 3)] none))

/-- Word k of the generator's output. -/
def Ctr.word (c : Ctr) (k : Fin 4) : Nat :=
  match k with
  | 0 => c.c0
  | 1 => c.c1
  | 2 => c.c2
  | 3 => c.c3

/-- (w >> 8) × 2^−24 in F32, exactly. -/
def unitF32 (w : Nat) : Nat := (FFmt.f32.roundFin Rnd.rne false (w / 2 ^ 8) (-24)).1

def execVrngGen (g : Guard) (f32 adv : Bool) (word : Fin 4) (d : VReg) (s : State) : Out :=
  let sp := s.cur.sp
  let s1 := s.mapCur fun c =>
    { c with sp := if adv then { c.sp with base := c.sp.base + 64 } else { c.sp with draw := c.sp.draw + 1 } }
  .next (s1.vLanes g false d 6 [] fun i =>
    let w := (sp.philox i.val).word word
    (BitVec.ofNat 64 (if f32 then unitF32 w else w), 0))

def execVrngGet (g : Guard) (d : VReg) (s : State) : Out :=
  let sp := s.cur.sp
  s.vWhole g false d 6 [] fun i =>
    match i.val with
    | 0 => sp.tid.setWidth 64
    | 1 => (sp.base.setWidth 32).setWidth 64
    | 2 => (sp.base.extractLsb' 32 32).setWidth 64
    | 3 => sp.draw.setWidth 64
    | _ => 0

end Sys2Proof.Machine
end

