-- ==== Sys2Proof/Machine/Dispatch.lean ====
section
/-! DEFINITION. One arm for each constructor of `Instr`: a direct call of its meaning. -/
namespace Sys2Proof.Machine

def exec (i : Instr) (s : State) : Host.Outcome State Fault Refusal :=
  match i with
  | .nop g => Sys2Proof.Machine.execNop g s
  | .hSyllable payload => Sys2Proof.Machine.execHSyllable payload s
  | .add o => Sys2Proof.Machine.execAdd o s
  | .sub o => Sys2Proof.Machine.execSub o s
  | .mul o => Sys2Proof.Machine.execMul o s
  | .mulh u o => Sys2Proof.Machine.execMulh u o s
  | .div u o => Sys2Proof.Machine.execDiv u o s
  | .rem u o => Sys2Proof.Machine.execRem u o s
  | .and o => Sys2Proof.Machine.execAnd o s
  | .or o => Sys2Proof.Machine.execOr o s
  | .xor o => Sys2Proof.Machine.execXor o s
  | .andn o => Sys2Proof.Machine.execAndn o s
  | .shl o => Sys2Proof.Machine.execShl o s
  | .shr o => Sys2Proof.Machine.execShr o s
  | .sar o => Sys2Proof.Machine.execSar o s
  | .rotl o => Sys2Proof.Machine.execRotl o s
  | .min u o => Sys2Proof.Machine.execMin u o s
  | .max u o => Sys2Proof.Machine.execMax u o s
  | .clz o => Sys2Proof.Machine.execClz o s
  | .ctz o => Sys2Proof.Machine.execCtz o s
  | .popc o => Sys2Proof.Machine.execPopc o s
  | .sel o => Sys2Proof.Machine.execSel o s
  | .mov g d b => Sys2Proof.Machine.execMov g d b s
  | .movhi o => Sys2Proof.Machine.execMovhi o s
  | .extr signed o => Sys2Proof.Machine.execExtr signed o s
  | .insr o => Sys2Proof.Machine.execInsr o s
  | .cmp g pd cc a b => Sys2Proof.Machine.execCmp g pd cc a b s
  | .plog g op pd pa pb => Sys2Proof.Machine.execPlog g op pd pa pb s
  | .pcnt g d pa => Sys2Proof.Machine.execPcnt g d pa s
  | .pset g pd b => Sys2Proof.Machine.execPset g pd b s
  | .pget g d pa => Sys2Proof.Machine.execPget g d pa s
  | .pfirst g d pa => Sys2Proof.Machine.execPfirst g d pa s
  | .fadd o => Sys2Proof.Machine.execFadd o s
  | .fsub o => Sys2Proof.Machine.execFsub o s
  | .fmul o => Sys2Proof.Machine.execFmul o s
  | .fma o => Sys2Proof.Machine.execFma o s
  | .fdiv o => Sys2Proof.Machine.execFdiv o s
  | .fsqrt g d a rm => Sys2Proof.Machine.execFsqrt g d a rm s
  | .fcmp g pd cc a b => Sys2Proof.Machine.execFcmp g pd cc a b s
  | .fcvt g kind rm d a => Sys2Proof.Machine.execFcvt g kind rm d a s
  | .fmin g d a b => Sys2Proof.Machine.execFmin g d a b s
  | .fmax g d a b => Sys2Proof.Machine.execFmax g d a b s
  | .movx g d n => Sys2Proof.Machine.execMovx g d n s
  | .movs g n a => Sys2Proof.Machine.execMovs g n a s
  | .strb g an b => Sys2Proof.Machine.execStrb g an b s
  | .strs g an k b => Sys2Proof.Machine.execStrs g an k b s
  | .strz g an => Sys2Proof.Machine.execStrz g an s
  | .br g off => Sys2Proof.Machine.execBr g off s
  | .bri g a => Sys2Proof.Machine.execBri g a s
  | .call g off => Sys2Proof.Machine.execCall g off s
  | .ret g a => Sys2Proof.Machine.execRet g a s
  | .loop o => Sys2Proof.Machine.execLoop o s
  | .loopBackEdge => Sys2Proof.Machine.execLoopBackEdge s
  | .lexit g k => Sys2Proof.Machine.execLexit g k s
  | .rotx g off => Sys2Proof.Machine.execRotx g off s
  | .endStrand g => Sys2Proof.Machine.execEndStrand g s
  | .bar g die n => Sys2Proof.Machine.execBar g die n s
  | .etrig g => Sys2Proof.Machine.execEtrig g s
  | .trap g n => Sys2Proof.Machine.execTrap g n s
  | .chnk g d => Sys2Proof.Machine.execChnk g d s
  | .tkaln g d w => Sys2Proof.Machine.execTkaln g d w s
  | .rfrun g a => Sys2Proof.Machine.execRfrun g a s
  | .rfret g => Sys2Proof.Machine.execRfret g s
  | .rfnorm g a => Sys2Proof.Machine.execRfnorm g a s
  | .lds o => Sys2Proof.Machine.execLds o s
  | .sts o => Sys2Proof.Machine.execSts o s
  | .ldv o => Sys2Proof.Machine.execLdv o s
  | .stv o => Sys2Proof.Machine.execStv o s
  | .ldt o => Sys2Proof.Machine.execLdt o s
  | .stt o => Sys2Proof.Machine.execStt o s
  | .ldvx fmt o => Sys2Proof.Machine.execLdvx fmt o s
  | .stvx fmt rm o => Sys2Proof.Machine.execStvx fmt rm o s
  | .ldrv o => Sys2Proof.Machine.execLdrv o s
  | .strv o => Sys2Proof.Machine.execStrv o s
  | .ldg o => Sys2Proof.Machine.execLdg o s
  | .stg sc o => Sys2Proof.Machine.execStg sc o s
  | .ldgv o => Sys2Proof.Machine.execLdgv o s
  | .stgv sc o => Sys2Proof.Machine.execStgv sc o s
  | .gath sz x o => Sys2Proof.Machine.execGath sz x o s
  | .scat sz sc x o => Sys2Proof.Machine.execScat sz sc x o s
  | .xlt g h a buf => Sys2Proof.Machine.execXlt g h a buf s
  | .lttq g d entry word => Sys2Proof.Machine.execLttq g d entry word s
  | .scl g e addr => Sys2Proof.Machine.execScl g e addr s
  | .scs g e addr => Sys2Proof.Machine.execScs g e addr s
  | .amo g op sc d addr b => Sys2Proof.Machine.execAmo g op sc d addr b s
  | .cas g sc d addr b => Sys2Proof.Machine.execCas g sc d addr b s
  | .vamo g op sc c addr x => Sys2Proof.Machine.execVamo g op sc c addr x s
  | .vamor g op sc d addr x c => Sys2Proof.Machine.execVamor g op sc d addr x c s
  | .drain g sc => Sys2Proof.Machine.execDrain g sc s
  | .drainComplete core => Sys2Proof.Machine.execDrainComplete core s
  | .waita g cc d addr => Sys2Proof.Machine.execWaita g cc d addr s
  | .waitaWake key => Sys2Proof.Machine.execWaitaWake key s
  | .twait g c0 c1 c2 => Sys2Proof.Machine.execTwait g c0 c1 c2 s
  | .tpoll g d t => Sys2Proof.Machine.execTpoll g d t s
  | .hwin g d => Sys2Proof.Machine.execHwin g d s
  | .icinv g cohort d base off => Sys2Proof.Machine.execIcinv g cohort d base off s
  | .tlkp g d k => Sys2Proof.Machine.execTlkp g d k s
  | .tins g w k => Sys2Proof.Machine.execTins g w k s
  | .tinv g w k => Sys2Proof.Machine.execTinv g w k s
  | .copy mask o => Sys2Proof.Machine.execCopy mask o s
  | .copyk mask o => Sys2Proof.Machine.execCopyk mask o s
  | .kreq kiosk o => Sys2Proof.Machine.execKreq kiosk o s
  | .coll o => Sys2Proof.Machine.execColl o s
  | .csig o => Sys2Proof.Machine.execCsig o s
  | .engineCommandStart key => Sys2Proof.Machine.execEngineCommandStart key s
  | .copyComplete key idx => Sys2Proof.Machine.execCopyComplete key idx s
  | .kreqMessageArrive key idx => Sys2Proof.Machine.execKreqMessageArrive key idx s
  | .collectiveComplete key idx peers => Sys2Proof.Machine.execCollectiveComplete key idx peers s
  | .collectiveAbort key idx => Sys2Proof.Machine.execCollectiveAbort key idx s
  | .csigComplete key idx => Sys2Proof.Machine.execCsigComplete key idx s
  | .xsend o => Sys2Proof.Machine.execXsend o s
  | .xrecv g d b off => Sys2Proof.Machine.execXrecv g d b off s
  | .payloadLand idx => Sys2Proof.Machine.execPayloadLand idx s
  | .wsave g k addr => Sys2Proof.Machine.execWsave g k addr s
  | .wload g k addr => Sys2Proof.Machine.execWload g k addr s
  | .cload o => Sys2Proof.Machine.execCload o s
  | .cloadComplete cl => Sys2Proof.Machine.execCloadComplete cl s
  | .cleaf g src => Sys2Proof.Machine.execCleaf g src s
  | .ceval o => Sys2Proof.Machine.execCeval o s
  | .circuitCommandRun cl => Sys2Proof.Machine.execCircuitCommandRun cl s
  | .cevalPassComplete cl => Sys2Proof.Machine.execCevalPassComplete cl s
  | .circuitPageArrive cl page => Sys2Proof.Machine.execCircuitPageArrive cl page s
  | .cout g f32 d b off => Sys2Proof.Machine.execCout g f32 d b off s
  | .crds g f32 d b off => Sys2Proof.Machine.execCrds g f32 d b off s
  | .cput g addr => Sys2Proof.Machine.execCput g addr s
  | .cpflip sync o => Sys2Proof.Machine.execCpflip sync o s
  | .vadd o => Sys2Proof.Machine.execVadd o s
  | .vsub o => Sys2Proof.Machine.execVsub o s
  | .vmul o => Sys2Proof.Machine.execVmul o s
  | .vfma o => Sys2Proof.Machine.execVfma o s
  | .vfms o => Sys2Proof.Machine.execVfms o s
  | .vfnma o => Sys2Proof.Machine.execVfnma o s
  | .vmin o => Sys2Proof.Machine.execVmin o s
  | .vmax o => Sys2Proof.Machine.execVmax o s
  | .vabs o => Sys2Proof.Machine.execVabs o s
  | .vneg o => Sys2Proof.Machine.execVneg o s
  | .vcps o => Sys2Proof.Machine.execVcps o s
  | .vrcp o => Sys2Proof.Machine.execVrcp o s
  | .vsqrt o => Sys2Proof.Machine.execVsqrt o s
  | .vrsq o => Sys2Proof.Machine.execVrsq o s
  | .vexp2 o => Sys2Proof.Machine.execVexp2 o s
  | .vlog2 o => Sys2Proof.Machine.execVlog2 o s
  | .vcmp g pd cc fmt a b => Sys2Proof.Machine.execVcmp g pd cc fmt a b s
  | .vclass o => Sys2Proof.Machine.execVclass o s
  | .viadd sat o => Sys2Proof.Machine.execViadd sat o s
  | .visub sat o => Sys2Proof.Machine.execVisub sat o s
  | .vimul o => Sys2Proof.Machine.execVimul o s
  | .vimulh o => Sys2Proof.Machine.execVimulh o s
  | .vand o => Sys2Proof.Machine.execVand o s
  | .vor o => Sys2Proof.Machine.execVor o s
  | .vxor o => Sys2Proof.Machine.execVxor o s
  | .vshl o => Sys2Proof.Machine.execVshl o s
  | .vshr o => Sys2Proof.Machine.execVshr o s
  | .vsar o => Sys2Proof.Machine.execVsar o s
  | .vimin o => Sys2Proof.Machine.execVimin o s
  | .vimax o => Sys2Proof.Machine.execVimax o s
  | .vpopc o => Sys2Proof.Machine.execVpopc o s
  | .vclz o => Sys2Proof.Machine.execVclz o s
  | .vicmp g pd cc fmt a b => Sys2Proof.Machine.execVicmp g pd cc fmt a b s
  | .vcvt g src dst rm d a => Sys2Proof.Machine.execVcvt g src dst rm d a s
  | .vqnt rm o => Sys2Proof.Machine.execVqnt rm o s
  | .vdqnt o => Sys2Proof.Machine.execVdqnt o s
  | .vexpx o => Sys2Proof.Machine.execVexpx o s
  | .vldx o => Sys2Proof.Machine.execVldx o s
  | .vmant o => Sys2Proof.Machine.execVmant o s
  | .vxmul g d a b => Sys2Proof.Machine.execVxmul g d a b s
  | .vxadd g d a b => Sys2Proof.Machine.execVxadd g d a b s
  | .vxmax g d a b => Sys2Proof.Machine.execVxmax g d a b s
  | .vxnorm g d a => Sys2Proof.Machine.execVxnorm g d a s
  | .vxcvt g kind rm d a => Sys2Proof.Machine.execVxcvt g kind rm d a s
  | .vmov g fmt d a => Sys2Proof.Machine.execVmov g fmt d a s
  | .vsel g pair d a b => Sys2Proof.Machine.execVsel g pair d a b s
  | .vsplat g d v => Sys2Proof.Machine.execVsplat g d v s
  | .vext g pair d a b n => Sys2Proof.Machine.execVext g pair d a b n s
  | .viota g pair d start => Sys2Proof.Machine.execViota g pair d start s
  | .vrotr o => Sys2Proof.Machine.execVrotr o s
  | .vbcr o => Sys2Proof.Machine.execVbcr o s
  | .vredr o => Sys2Proof.Machine.execVredr o s
  | .vscanr o => Sys2Proof.Machine.execVscanr o s
  | .vperm g fmt d a b => Sys2Proof.Machine.execVperm g fmt d a b s
  | .vcmpr g fmt d a pm => Sys2Proof.Machine.execVcmpr g fmt d a pm s
  | .vexpd g fmt d a pm => Sys2Proof.Machine.execVexpd g fmt d a pm s
  | .vrotc g fmt d a n => Sys2Proof.Machine.execVrotc g fmt d a n s
  | .vbcc g fmt d a n => Sys2Proof.Machine.execVbcc g fmt d a n s
  | .vredc o => Sys2Proof.Machine.execVredc o s
  | .vscanc o => Sys2Proof.Machine.execVscanc o s
  | .vrngSet g a => Sys2Proof.Machine.execVrngSet g a s
  | .vrngGen g f32 adv word d => Sys2Proof.Machine.execVrngGen g f32 adv word d s
  | .vrngGet g d => Sys2Proof.Machine.execVrngGet g d s
  | .vmaxw o => Sys2Proof.Machine.execVmaxw o s
  | .vminw o => Sys2Proof.Machine.execVminw o s
  | .vclmpw g d a b k fmt => Sys2Proof.Machine.execVclmpw g d a b k fmt s
  | .vmedw g d a n k fmt => Sys2Proof.Machine.execVmedw g d a n k fmt s
  | .vsatw g d a col k fmt => Sys2Proof.Machine.execVsatw g d a col k fmt s
  | .vadj o => Sys2Proof.Machine.execVadj o s
  | .wmov g hdr d k => Sys2Proof.Machine.execWmov g hdr d k s
  | .wclr g k => Sys2Proof.Machine.execWclr g k s
  | .mstep o => Sys2Proof.Machine.execMstep o s
  | .msteps sparseB o vsel => Sys2Proof.Machine.execMsteps sparseB o vsel s
  | .mzero g acc => Sys2Proof.Machine.execMzero g acc s
  | .mrd g d acc row => Sys2Proof.Machine.execMrd g d acc row s
  | .mwr g acc row a => Sys2Proof.Machine.execMwr g acc row a s
  | .mrdq g mx rm d acc row e => Sys2Proof.Machine.execMrdq g mx rm d acc row e s
  | .kmbox g poll x y => Sys2Proof.Machine.execKmbox g poll x y s
  | .kdone g x y => Sys2Proof.Machine.execKdone g x y s
  | .kgath g y z => Sys2Proof.Machine.execKgath g y z s
  | .kdedup g x y z => Sys2Proof.Machine.execKdedup g x y z s
  | .kpool g y z => Sys2Proof.Machine.execKpool g y z s
  | .kndsc g y n => Sys2Proof.Machine.execKndsc g y n s
  | .ktreeStart g x y => Sys2Proof.Machine.execKtreeStart g x y s
  | .ktreeStep g x => Sys2Proof.Machine.execKtreeStep g x s
  | .ktreeCollect g x y => Sys2Proof.Machine.execKtreeCollect g x y s
  | .kfold g y z => Sys2Proof.Machine.execKfold g y z s
  | .klogAppend g x y log => Sys2Proof.Machine.execKlogAppend g x y log s
  | .klogHead g x y log => Sys2Proof.Machine.execKlogHead g x y log s
  | .klogSign g x y log => Sys2Proof.Machine.execKlogSign g x y log s
  | .kput g x y => Sys2Proof.Machine.execKput g x y s
  | .kroute g x y z => Sys2Proof.Machine.execKroute g x y z s
  | .kheatAdd g x y z => Sys2Proof.Machine.execKheatAdd g x y z s
  | .kheatRead g x y => Sys2Proof.Machine.execKheatRead g x y s
  | .kheatRet g => Sys2Proof.Machine.execKheatRet g s
  | .treeNodeArrive key idx => Sys2Proof.Machine.execTreeNodeArrive key idx s
  | .heatTrapEntry key => Sys2Proof.Machine.execHeatTrapEntry key s
  | .kioskFault key code reason => Sys2Proof.Machine.execKioskFault key code reason s
  | .resultLand key => Sys2Proof.Machine.execResultLand key s
  | .interlockedValueArrive key idx => Sys2Proof.Machine.execInterlockedValueArrive key idx s
  | .icacheFill key => Sys2Proof.Machine.execIcacheFill key s
  | .elasticLsGrant idx => Sys2Proof.Machine.execElasticLsGrant idx s
  | .starvationGuardHold core => Sys2Proof.Machine.execStarvationGuardHold core s
  | .barrierPass grid die place n => Sys2Proof.Machine.execBarrierPass grid die place n s
  | .barrierWatchdog grid die place => Sys2Proof.Machine.execBarrierWatchdog grid die place s
  | .pointReached grid die from_ => Sys2Proof.Machine.execPointReached grid die from_ s
  | .packageReached grid from_ => Sys2Proof.Machine.execPackageReached grid from_ s
  | .strandStart key => Sys2Proof.Machine.execStrandStart key s
  | .earlyTrigger grid => Sys2Proof.Machine.execEarlyTrigger grid s
  | .gridRetire grid => Sys2Proof.Machine.execGridRetire grid s
  | .gridFault key f => Sys2Proof.Machine.execGridFault key f s
  | .doorbell q t => Sys2Proof.Machine.execDoorbell q t s
  | .queueReset q => Sys2Proof.Machine.execQueueReset q s
  | .packetFetch q => Sys2Proof.Machine.execPacketFetch q s
  | .noopLaunch q => Sys2Proof.Machine.execNoopLaunch q s
  | .kernelLaunch q => Sys2Proof.Machine.execKernelLaunch q s
  | .kioskStart q => Sys2Proof.Machine.execKioskStart q s
  | .agingRaise q => Sys2Proof.Machine.execAgingRaise q s
  | .preempt grid => Sys2Proof.Machine.execPreempt grid s
  | .preemptRegister func ctx => Sys2Proof.Machine.execPreemptRegister func ctx s
  | .sliceExpiry func => Sys2Proof.Machine.execSliceExpiry func s
  | .gridResume grid => Sys2Proof.Machine.execGridResume grid s
  | .twpop func => Sys2Proof.Machine.execTwpop func s
  | .twdone func w => Sys2Proof.Machine.execTwdone func w s
  | .lttpatch func w0 w1 => Sys2Proof.Machine.execLttpatch func w0 w1 s
  | .atdataWrite w => Sys2Proof.Machine.execAtdataWrite w s
  | .sealRequest func => Sys2Proof.Machine.execSealRequest func s
  | .auditLogRequest func => Sys2Proof.Machine.execAuditLogRequest func s
  | .contextCreate func ctx => Sys2Proof.Machine.execContextCreate func ctx s
  | .contextDestroy func ctx => Sys2Proof.Machine.execContextDestroy func ctx s
  | .attestationRequest func => Sys2Proof.Machine.execAttestationRequest func s
  | .errorCountRead => Sys2Proof.Machine.execErrorCountRead s
  | .interruptMaskWrite func w => Sys2Proof.Machine.execInterruptMaskWrite func w s
  | .registerWrite func off w => Sys2Proof.Machine.execRegisterWrite func off w s
  | .hostWrite func ctx pa bytes => Sys2Proof.Machine.execHostWrite func ctx pa bytes s
  | .codeObjectLoad func ctx img => Sys2Proof.Machine.execCodeObjectLoad func ctx img s
  | .codeObjectUnload func ctx code => Sys2Proof.Machine.execCodeObjectUnload func ctx code s
  | .flitRetransmit port => Sys2Proof.Machine.execFlitRetransmit port s
  | .portRetrain port => Sys2Proof.Machine.execPortRetrain port s
  | .unitFailure u => Sys2Proof.Machine.execUnitFailure u s
  | .spareRowReplace addr => Sys2Proof.Machine.execSpareRowReplace addr s
  | .standbyTakeover u => Sys2Proof.Machine.execStandbyTakeover u s
  | .deviceReset => Sys2Proof.Machine.execDeviceReset s
  | .throttleSet die step => Sys2Proof.Machine.execThrottleSet die step s
  | .thermalStop die => Sys2Proof.Machine.execThermalStop die s
  | .dieCooled die => Sys2Proof.Machine.execDieCooled die s
  | .hostLinkRetrain func => Sys2Proof.Machine.execHostLinkRetrain func s
  | .partitionChange vf word w => Sys2Proof.Machine.execPartitionChange vf word w s

end Sys2Proof.Machine
end

