-- ==== Sys2Proof/Machine/Tick.lean ====
section
/-! DEFINITION. One tick of a die: its freeze domains resolve their waits, issue bundles or freeze, make the LS accesses of earlier
bundles, meet bank conflicts and land results; then the clock of the die counts (02 R27 to R34 R40 R41, 03 R56 R58 R68, 06 R131 R132
R145, 11 R230, 14 R282, 25 R366). -/
namespace Sys2Proof.Machine

/-! ### Domains (02 R29) -/

/-- The contexts that freeze together with the one in focus, ascending. -/
def State.domain (s : State) : List Nat :=
  match s.grid? with
  | some g =>
    if g.kcb.elastic then [s.focus]
    else
      let ks := g.keys.filter fun k => (s.ctx k).cluster == s.cur.cluster
      if ks.contains s.focus then ks else [s.focus]
  | none => [s.focus]

/-! ### Waits at the start of a tick (02 R28) -/

/-- A wait of a bundle that has not issued: it is tested again (14 R289 R291). -/
def Hold.retests (h : Hold) : Bool :=
  match h with
  | .xrecv .. | .xsend .. => true
  | _ => false

def OutOp.isAwaited (o : OutOp) (chnk : Bool) : Bool :=
  match o with
  | .atomic .. | .vamor .. => !chnk
  | .chnk _ => chnk
  | _ => false

/-- The kiosk cores of a base die that run one image (15 R298). -/
def State.kioskPeers (s : State) : List Nat :=
  ((List.range 16).map fun i => 2048 + 16 * (s.cur.gid / 16) + i).filter fun k =>
    let c := s.ctx k
    c.kind == .kiosk && c.run == .running && c.kiosk.image == s.cur.kiosk.image

/-- A barrier of kiosk cores passes once every one of them has arrived. On a management core it waits for ever: no rule gives it
participants (DESIGN CHOICE, assumption log 65). -/
def State.kioskBar (s : State) (n : Fin 16) : State :=
  let ks := s.kioskPeers
  if s.cur.kind = .kiosk ∧ ks.all (fun k => (s.ctx k).holds.contains (.bar false n)) then
    s.updKeys ks fun c => { c with holds := c.holds.filter (· != .bar false n) }
  else s

/-- The context in focus no longer waits for `h`. -/
def State.unhold (s : State) (h : Hold) : State := s.mapCur fun c => { c with holds := c.holds.erase h }

/-- A waiting STEP steps the entries that have arrived, and answers their number (15 R305). -/
def State.stepLate (s : State) (h : Hold) (d : SReg) (addr : Word64) (pos : Fin 8) : State :=
  let es := s.cur.kiosk.steppable
  if es.isEmpty ∧ s.cur.kiosk.anyRunning then s
  else match (s.unhold h).stepTrees es with
    | .error f => s.takeFault ⟨f.1, posMask pos, addr, f.2.1, f.2.2⟩
    | .ok t => t.mapCur (d.dst.write (BitVec.ofNat 64 es.length))

/-- A wait of the context in focus ends when its condition holds, with what then follows (02 R28). -/
def State.settleHold (s : State) (h : Hold) : State :=
  let go (p : Bool) (f : State → State) : State := if p then f (s.unhold h) else s
  match h with
  | .lsWait die n => go s.lsQuiet (·.arriveBar die n)
  | .waita .. => go (s.cur.waitMet h) id
  | .twait ts => go (s.cur.toksDone ts) id
  | .xrecv .. | .xsend .. => go true id
  | .drain _ n => go s.drained (·.afterDrain n)
  | .atomic => go (s.cur.outst.all fun o => !o.op.isAwaited false) id
  | .chnk => go (s.cur.outst.all fun o => !o.op.isAwaited true) id
  | .circuit (some 0) | .tick 0 => go true id
  | .engFull c => go (s.cur.engCount < 16) (·.enqueue c)
  | .circFull c => go ((s.engine s.cur.cluster).count < 32) (·.circPush c.late)
  | .unbound c => go s.circFree (·.circBind.circPush c.late)
  | .walk _ va buf .. => s.postWait va buf
  | .kmbox d a => match (s.unhold h).mailTake a with
    | some (t, v) => t.mapCur (d.dst.write v)
    | none => s
  | .kstep d addr pos => s.stepLate h d addr pos
  | .bar false n => s.kioskBar n
  | _ => s

/-- The core's guard holds its primary for one tick (02 R34). -/
def Ctx.guardHold (c : Ctx) : Ctx :=
  if c.guard && decide (c.starve ≥ 4096) then { c with starve := 0, holds := c.holds ++ [.tick 1] } else c

/-- The context in focus at the start of a tick. -/
def State.resolve (s : State) : State :=
  let s1 := s.cur.holds.foldl (fun s h => if s.trap.isSome then s else s.settleHold h) s
  let s2 := s1.nextStart.mapCur Ctx.guardHold
  if s2.cur.run = .running ∧ s2.cur.idle = 0 ∧ s2.cur.holds.isEmpty ∧ s2.cur.heatDue then s2.heatTrap else s2

/-! ### Issuing a bundle (03 R56, 04 R85) -/

/-- The order in which the syllables of a bundle act on shared state (09 R215): VRNG.GET first, then S, V0, V1, M, L and K; a
store of a kiosk core after its K syllable. -/
def slotRank (sl : Slot) : Nat :=
  match cls sl.w with
  | 0 => 1
  | 1 => if opc sl.w = 0x60 ∧ vFn sl.w = 2 then 0 else if sl.unit1 then 3 else 2
  | 2 => 4
  | 3 => if opc sl.w = 0x11 ∨ opc sl.w = 0x21 ∨ opc sl.w = 0x23 then 7 else 5
  | 5 => 6
  | _ => 8

def issueOrder (sls : List Slot) : List Slot := (List.range 9).flatMap fun r => sls.filter fun sl => slotRank sl == r

/-- One syllable: the state after it, or the fault it takes with the state before. -/
def State.runSlot (s : State) (sl : Slot) : State × Option FaultWords :=
  match decodeSyl sl.w sl.x with
  | .error _ => (s, none)
  | .ok i =>
    match exec i { s with trap := none, issue := { s.issue with pos := sl.pos, unit1 := sl.unit1 } } with
    | .next t =>
      match t.trap with
      | some f => (s, some f)
      | none => (t, none)
    | _ => (s, none)

/-- The fault with the lower syllable position (02 R40). -/
def lowerFault (a : Option (Fin 8 × FaultWords)) (b : Fin 8 × FaultWords) : Option (Fin 8 × FaultWords) :=
  match a with
  | none => some b
  | some x => if b.1 < x.1 then some b else some x

/-- Syllables one after another, with the fault of the lowest position. -/
def State.runSlots : List Slot → State × Option (Fin 8 × FaultWords) → State × Option (Fin 8 × FaultWords)
  | [], r => r
  | sl :: l, (s, f) =>
    match s.runSlot sl with
    | (t, none) => State.runSlots l (t, f)
    | (t, some x) => State.runSlots l (t, lowerFault f (sl.pos, x))

/-- Every syllable of a bundle reads the loop state as it stood before the bundle (DEDUCED, assumption log 37). -/
def State.runBundle (s : State) (sls : List Slot) : State × Option FaultWords :=
  let pre := s.cur.loop
  let os := issueOrder sls
  let (s1, f1) := State.runSlots (os.filter fun sl => slotRank sl ≤ 1) (s, none)
  let post := s1.cur.loop
  let (s2, f2) := State.runSlots (os.filter fun sl => slotRank sl > 1) (s1.mapCur fun c => { c with loop := pre }, f1)
  (s2.mapCur fun c => { c with loop := post }, f2.map Prod.snd)

/-- Where issue goes on after a bundle of the loop state `pre` (07 R157 R159 R160) (DEDUCED, assumption log 37). -/
def Ctx.advance (c : Ctx) (pre : LoopState) : Ctx :=
  match pre.nest, c.loop.nest with
  | some _, some n =>
    match c.loop.lexit with
    | some k => c.backEdge n (k.val + 1)
    | none =>
      match n.body[n.idx + 1]? with
      | some b => { c with pc := b.addr, next := b.addr, loop := { c.loop with nest := some { n with idx := n.idx + 1 } } }
      | none => c.backEdge n 0
  | _, _ =>
    match c.loop.nest with
    | some n => match n.body.head? with
        | some b => { c with pc := b.addr, next := b.addr }
        | none => { c with pc := c.next }
    | none => { c with pc := c.next }

def State.startIssue (s : State) (b : Bundle) : State :=
  { s.mapCur (fun c => { c with next := b.after }) with issue := ⟨b.addr, b.after, 0, false⟩ }

/-- The owners of a bundle's syllables. -/
def Bundle.slots (b : Bundle) : List Slot := slotsOf (b.words.map BitVec.toNat)

/-- The bundle issues. A bundle of two V syllables on a core with one V unit freezes two ticks more (25 R366). -/
def State.issueBundle (s : State) (b : Bundle) : State × Option FaultWords :=
  let pre := s.cur.loop
  let (t, f) := (s.startIssue b).runBundle b.slots
  let t1 := t.mapCur (·.advance pre)
  (if s.cur.kind == .compute && s.splitCore s.cur.gid && (b.words.filter fun w => cls w.toNat == 1).length == 2 then
    t1.hold (.tick 2) else t1, f)

/-! ### Why a context cannot issue (02 R28) -/

inductive Cause where
  /-- A wait on something outside the core's own issue (11 R230). -/
  | outside
  /-- A wait on the core itself. -/
  | own
  /-- A scoreboarded destination. -/
  | lock (o : Outst)
  | compat
  | limit
  | busy
  deriving DecidableEq, Repr

def Cause.isOutside (c : Cause) : Bool :=
  match c with
  | .outside => true
  | .lock _ => true
  | _ => false

/-- What a context does in a tick in which its domain does not freeze: nothing, a bundle of the given classes, or a wait; a secondary
bundle may lack a slot or a bank (`unfit`). -/
inductive Attempt where
  | quiet
  | unfit
  | issued (s : State) (classes : List Nat)
  | waits (why : List Cause) (holds : List Hold)
  | fault (f : FaultWords)

/-- A context that its domain does not wait for: it stands at a barrier that a context of the domain has still to reach, or before a
barrier with LS accesses of its own to come, which a frozen domain would not make (DEDUCED, assumption log 13). -/
def State.softBar (s : State) (dom : List Nat) : Bool :=
  s.cur.holds.all (fun h => match h with
    | .lsWait .. => true
    | .bar die n =>
      (match s.grid? with
       | none => false
       | some g => dom.any fun k => !g.arrived.contains (die, s.cur.place die, n.val, k) && !s.ctxOver g k)
    | _ => false)

/-- Exposed results in flight, one for each syllable that has issued them: those on their way to their registers, and those whose LS
access or whose streams are still to come (02 R41) (DEDUCED, assumption log 51). -/
def State.inFlight (s : State) : Nat :=
  let c := s.cur
  (((c.flight.filter fun r => !r.writes.isEmpty || r.bp.isSome).map fun r => (r.born, r.pos))
    ++ ((c.lsPend.filter (·.op.isLoad)
      ++ (s.elReqs.filter (·.owner == some s.focus)).filterMap ElReq.load?).map fun p => (p.born, p.pos))
    ++ c.mstep.toList.map fun m => (m.born, m.pos)).eraseDups.length

/-- A wait that is the core's own. -/
def Hold.isOwn (h : Hold) : Bool :=
  match h with
  | .tick _ => true
  | _ => false

/-- The slot classes of a bundle. -/
def Bundle.classes (b : Bundle) : List Nat := b.slots.map fun sl => cls sl.w

/-- Every syllable of a secondary bundle finds its slot class unused by the primary bundle of this tick (02 R32). -/
def slotsFit (used mine : List Nat) : Bool :=
  [(0, 1), (1, 2), (2, 1), (3, 1)].all fun (c, n) => mine.count c == 0 || decide (used.count c + mine.count c ≤ n)

/-- The elastic requests that a bundle has made, of those of the tick. -/
def State.newElastic (s t : State) : List LsReq := (t.lsReqs.drop s.lsReqs.length).filter (·.elastic)

/-- The banks of the bundle's elastic requests are free in this tick, one request against the others of the LS (06 R131, 02 R33). -/
def State.banksFit (s t : State) : Bool := (s.newElastic t).all fun r => s.elFree (s.elNow (lsCore r.key) + 1) (s.elOf r)

/-- Two requests of one bundle that need one bank: the second takes a tick more (DEDUCED, assumption log 29). -/
def overlapping : List LsReq → Nat
  | [] => 0
  | r :: l => (if l.any fun x => x.key == r.key && (banksAt r.addr r.len).any (banksAt x.addr x.len).contains then 1 else 0)
      + overlapping l

/-- The bundle's elastic requests take their banks. -/
def State.takeBanks (s t : State) : State :=
  let rs := s.newElastic t
  let t1 := rs.foldl (fun u r => u.elTake (s.elOf r).2) t
  if overlapping rs = 0 then t1 else t1.hold (.tick (overlapping rs))

/-- What issuing the bundle does, once nothing known before its issue holds it. -/
def State.tryIssue (s : State) (b : Bundle) : Attempt :=
  let (t, f) := s.issueBundle b
  let hs := t.cur.holds.filter Hold.retests
  if !hs.isEmpty then .waits [.outside] hs
  else match f with
    | some x => .fault x
    | none =>
      if t.inFlight > 48 then .waits [.limit] []
      else if s.banksFit t then .issued (s.takeBanks t) b.classes
      else .unfit

/-- The causes known before the bundle issues: interlocks, and a busy L unit (03 R61 R68, 08 R172). -/
def State.stalls (s : State) (sls : List Slot) : List Cause :=
  ((s.locked sls).toList.map Cause.lock) ++ (if s.compat sls then [.compat] else [])
    ++ (if s.cur.lBusy > 0 && sls.any (fun sl => cls sl.w == 3) then [.busy] else [])

/-- Slot classes that the primary bundle of the core has used in this tick. -/
def State.usedBy (s : State) : List Nat := (s.used.get? s.cur.gid).getD []

/-- What the context in focus does; `soft` where its domain does not wait for it. -/
def State.attempt (s : State) (soft : Bool) : Attempt :=
  if !s.cur.holds.isEmpty then
    if soft then .quiet
    else .waits [if s.cur.holds.all Hold.isOwn then .own else .outside] []
  else if s.cur.run ≠ .running then .quiet
  else if s.cur.idle > 0 then .issued (s.mapCur fun c => { c with idle := c.idle - 1 }) []
  else
    match s.nextBundle with
    | (_, some (.miss _)) => .waits [.own] []
    | (_, some (.fault f)) => .fault ⟨f.1, 0, 0, f.2.1, f.2.2⟩
    | (b, none) =>
      match bundleFault s.isKiosk b.addr (b.words.map BitVec.toNat) with
      | some f => .fault f
      | none =>
        match s.stalls b.slots with
        | [] => if s.cur.second && !slotsFit s.usedBy b.classes then .unfit else s.tryIssue b
        | cs => .waits cs []

/-! ### What the contexts of a domain do -/

/-- A context that waits: its causes, and the waits that its bundle records. -/
structure Waiting where
  key : Nat
  why : List Cause
  holds : List Hold

/-- What the contexts of a domain do, tried in ascending order. -/
structure Round where
  st     : State
  waits  : List Waiting
  faults : List (Nat × FaultWords)
  unfit  : Bool
  moved  : Bool

/-- The slots that a primary bundle uses are taken (02 R32). -/
def State.useSlots (s : State) (k : Nat) (cs : List Nat) : State :=
  if k < 2048 ∧ k % 2 = 0 ∧ !cs.isEmpty then { s with used := s.used.set (k / 2) cs } else s

def Round.try_ (soft : List Nat) (r : Round) (k : Nat) : Round :=
  let s := r.st.focusOn k
  match s.attempt (soft.contains k) with
  | .quiet => { r with st := s }
  | .unfit => { r with st := s, unfit := true }
  | .issued t cs => { r with st := t.useSlots k cs, moved := true }
  | .waits why hs => { r with st := s, waits := r.waits ++ [⟨k, why, hs⟩] }
  | .fault f => { r with st := s, faults := r.faults ++ [(k, f)] }

/-- The LS accesses that `which` names come one tick nearer. -/
def Ctx.nearer (which : LsPend → Bool) (c : Ctx) : Ctx :=
  { c with lsPend := c.lsPend.map fun p => if which p then { p with due := p.due - 1 } else p }

/-- What the contexts of a domain do in a tick, from its start, with the state after their waits have been resolved: which of them the
domain does not wait for follows from that state. -/
def State.round (s : State) (dom : List Nat) : State × Round :=
  let s0 := dom.foldl (fun s k => if s.trap.isSome then s else s.onKey k State.resolve) { s with trap := none }
  let soft := dom.filter fun k => (s0.focusOn k).softBar dom
  (s0, dom.foldl (Round.try_ soft) ⟨s0.updKeys dom (Ctx.nearer fun _ => true), [], [], false, false⟩)

/-! ### LS accesses of earlier bundles, and bank conflicts (06 R131 R132) -/

/-- The accesses of the context in focus whose tick has come, in the order they were scheduled, and the faults they meet. -/
def State.runDue (s : State) : State × List (Nat × FaultWords) :=
  (s.cur.lsPend.filter fun p => p.due == 0).foldl (fun (r : State × List (Nat × FaultWords)) p =>
    match r.1.runLsOrAsk p with
    | .error f => (r.1, r.2 ++ [(s.focus, ⟨f.1, posMask p.pos, p.addr, f.2.1, f.2.2⟩)])
    | .ok t => (t, r.2)) (s.mapCur fun c => { c with lsPend := c.lsPend.filter fun p => p.due != 0 }, [])

def State.runDues (s : State) (dom : List Nat) : State × List (Nat × FaultWords) :=
  dom.foldl (fun (r : State × List (Nat × FaultWords)) k =>
    let (t, fs) := (r.1.focusOn k).runDue
    (t.focusOn s.focus, r.2 ++ fs)) (s, [])

/-- Two requests in order: the lower kind, then the lower core (06 R132) (DEDUCED, assumption log 19). -/
def LsReq.first (a b : LsReq) : LsReq × LsReq :=
  if a.kind < b.kind ∨ (a.kind = b.kind ∧ a.core ≤ b.core) then (a, b) else (b, a)

/-- The conflicts of a tick: bank, first and second requester. -/
def conflicts : List LsReq → List (Nat × LsReq × LsReq)
  | [] => []
  | a :: l => (l.filterMap fun b => (a.clash b).map fun k => (k, a.first b)) ++ conflicts l

/-- What orders conflicts: LS, bank, first requester, second requester (DEDUCED, assumption log 19). -/
def conflictRank (x : Nat × LsReq × LsReq) : List Nat :=
  [x.2.1.key, x.1, x.2.1.kind, x.2.1.core, x.2.2.kind, x.2.2.core]

def lexLt : List Nat → List Nat → Bool
  | a :: l, b :: m => a < b || (a == b && lexLt l m)
  | _, _ => false

/-- The conflict that is recorded, of the requests of a domain. -/
def State.bankFault (s : State) (dom : List Nat) : Option (Nat × FaultWords) :=
  match conflicts (s.lsReqs.filter fun r => dom.contains r.from_) with
  | [] => none
  | x :: l =>
    let (bank, a, b) := l.foldl (fun m y => if lexLt (conflictRank y) (conflictRank m) then y else m) x
    some (a.key, ⟨3, posMask a.pos, a.bundle,
      BitVec.ofNat 64 (bank + 2 ^ 8 * a.kind + 2 ^ 16 * b.kind + 2 ^ 24 * a.core + 2 ^ 28 * b.core),
      BitVec.ofNat 64 (a.addr % 2 ^ 20 + 2 ^ 32 * (b.addr % 2 ^ 20))⟩)

/-! ### The engines of a domain (11 R230) -/

/-- Engines that advance on every tick of a die: those bound to elastic grids. -/
def State.freeEngines (s : State) (die : Nat) : List Nat :=
  (s.engines.filter fun (cl, e) => cl / 16 == die && (match e.bound.bind (s.grids.get? ·) with
    | some g => g.kcb.elastic
    | none => false)).map Prod.fst

/-- The engine that belongs to the domain in focus. -/
def State.ownEngine (s : State) : List Nat :=
  let cl := s.cur.cluster
  match s.cur.kind, s.cur.grid, s.grid? with
  | .compute, some gid, some g => if !g.kcb.elastic && (s.engine cl).bound == some gid then [cl] else []
  | _, _, _ => []

def State.engineTicks (s : State) (cls : List Nat) : State := cls.foldl (fun s cl => s.engineTick cl) s

/-- A late circuit page freezes the whole domain, in the first tick of a pass too (11 R230). -/
def State.pageLate (s : State) : Bool :=
  s.ownEngine.any fun cl => (s.engine cl).latePage.isSome || ((s.engineStart cl).engine cl).startsLate

/-- The end of a domain's tick, frozen or not: payloads in hand come nearer, and the domain's engine advances if it may. -/
def State.endDomain (s : State) (dom : List Nat) (own : Bool) : State :=
  let s1 := s.updKeys dom Ctx.landStep
  if own then s1.engineTicks s1.ownEngine else s1

/-! ### A tick in which a domain goes on -/

/-- A secondary bundle that finds a slot or a bank taken counts for the guard of its core; anything else restarts the count (02 R34)
(DEDUCED, assumption log 52). -/
def State.starved (s : State) (unfit : Bool) (k : Nat) : State :=
  if k < 2048 ∧ k % 2 = 1 then
    s.updCtx (k - 1) fun c => { c with starve := if unfit && c.guard then c.starve + 1 else 0 }
  else s

/-- A non-frozen tick ends: results land, and the schedule count goes on (03 R58). -/
def Ctx.count (c : Ctx) : Ctx :=
  let c := c.landTick
  { c with sp := { c.sp with scnt := c.sp.scnt + 1 }, lBusy := c.lBusy - 1 }

/-- The fault of several that is recorded. -/
def foremost (fs : List (Nat × FaultWords)) : Option (Nat × FaultWords) :=
  fs.foldl (fun m x => match m with
    | none => some x
    | some y => if ahead x y then some x else some y) none

/-- LS accesses stand in the tick in which the next bundles issue: of their faults and those of the next bundles the foremost is recorded
(02 R40, 08 R169; DEDUCED, assumption log 19). -/
def State.recorded (s : State) (dom : List Nat) (x : Nat × FaultWords) : Nat × FaultWords :=
  let r := (({ s with lsReqs := [], used := [] } : State).round dom).2
  match r.waits, r.faults with
  | [], y :: _ => if ahead y x then y else x
  | _, _ => x

/-- The domain goes on, from `s0` before its bundles to `s` after them. A fault of an access of an earlier bundle leaves what has been
done; a conflict undoes the bundles of its tick, and a domain that has stopped meets none. -/
def State.goTick (s0 s : State) (dom : List Nat) : State :=
  let (s1, fs) := s.runDues dom
  let go := (s1.updKeys dom Ctx.count).endDomain dom true
  let bf := if dom.any fun k => (s0.ctx k).run != .stopped then s1.bankFault dom else none
  match foremost (fs ++ bf.toList) with
  | none => go
  | some x =>
    let (k, f) := go.recorded dom x
    if bf.isSome then (s0.onKey k (·.takeFault f)).endDomain dom true else go.onKey k (·.takeFault f)

/-! ### A tick in which a domain freezes (02 R27) -/

/-- A profile-A load counts a tick of a compatibility freeze (03 R68). -/
def Ctx.compatTick (c : Ctx) : Ctx :=
  Ctx.landDue { c with flight := c.flight.map fun r => if r.compat then { r with rem := r.rem - 1 } else r }

/-- A tick that the 48-result limit alone freezes lets the results of its context go on; what has appeared on a bypass since stays there
for the held bundle (DEDUCED, assumption logs 9 and 54). -/
def Ctx.limitTick (c : Ctx) : Ctx := Ctx.landDue { c with flight := c.flight.map fun r => { r with rem := r.rem - 1 } }

/-- Waits that last a number of ticks. -/
def Ctx.holdTick (c : Ctx) : Ctx :=
  { c with holds := c.holds.map fun h => match h with
      | .tick n => .tick (n - 1)
      | .circuit (some n) => .circuit (some (n - 1))
      | h => h }

/-- Accesses that a freeze does not stop: commands that have issued (02 R27), the elastic requests of an elastic grid (06 R131),
and the L unit where the freeze waits for it (DEDUCED, assumption log 29). -/
def LsPend.goesOn (busy elastic : Bool) (p : LsPend) : Bool :=
  match p.op with
  | .payload _ | .tokenDone .. => true
  | .loadRows .. | .storeRows .. | .witTail .. | .witSaveTail .. => busy
  | .remoteLoad .. | .remoteStore .. | .stream .. => elastic
  | _ => false

/-- What a waiting context records in a frozen tick. -/
def State.record (s : State) (w : Waiting) : State := s.updCtx w.key fun c => { c with holds := c.holds ++ w.holds }

/-- An operation whose value arrives: its place in issue order and its buffer. -/
def Outst.stall? (o : Outst) : Option (Nat × Fin 64) :=
  match o.op with
  | .ldg .. | .ldgv .. | .gath .. | .xlt .. => some (o.seq, o.op.buf)
  | _ => none

/-- A translation that waits for its page. -/
def Hold.stall? (h : Hold) : Option (Nat × Fin 64) :=
  match h with
  | .walk _ _ buf _ _ seq => some (seq, buf)
  | _ => none

/-- An interlocked access whose destination a bundle touches. -/
def Cause.stall? (c : Cause) : Option (Nat × Fin 64) :=
  match c with
  | .lock o => o.stall?
  | _ => none

/-- The accesses on which a context waits. -/
def State.stallsOf (s : State) (w : Waiting) : List (Nat × Fin 64) :=
  (s.ctx w.key).holds.filterMap Hold.stall? ++ w.why.filterMap Cause.stall?

/-- The context and the buffer of the oldest access on which a frozen tick waits: a translation that waits for its page, or a load or
translation whose destination a bundle touches (06 R145) (DEDUCED, assumption log 45). -/
def State.stallBuf (s : State) (ws : List Waiting) : Option (Nat × Fin 64) :=
  ((ws.flatMap fun w => (s.stallsOf w).map fun x => (w.key, x)).foldl (fun (m : Option (Nat × Nat × Fin 64)) x => match m with
    | none => some x
    | some y => if x.2.1 < y.2.1 then some x else some y) none).map fun x => (x.1, x.2.2)

/-- A frozen tick counts a stall of that buffer. -/
def State.stallTick (s : State) (ws : List Waiting) : State :=
  match s.stallBuf ws with
  | some (k, b) => s.countStall (s.ctx k).ctxId b
  | none => s

/-- A frozen tick: no bundle issues and no result lands, but for what 02 R27, 03 R68 and 11 R230 except. -/
def State.freezeTick (s : State) (dom : List Nat) (ws : List Waiting) : State :=
  let why := ws.flatMap Waiting.why
  let s1 := (ws.foldl State.record (s.updKeys dom Ctx.holdTick)).stallTick ws
  let s2 := if why.contains .compat then s1.updKeys dom Ctx.compatTick else s1
  let s3 := if why.all (· == .limit) then s2.updKeys (ws.map Waiting.key) Ctx.limitTick else s2
  let s4 := dom.foldl (fun s k =>
    let busy := ws.any fun w => w.key == k && w.why.contains .busy
    s.updCtx k fun c => let c := c.nearer (·.goesOn busy c.elastic); if busy then { c with lBusy := c.lBusy - 1 } else c) s3
  let (s5, fs) := s4.runDues dom
  let s6 := s5.endDomain dom (why.any Cause.isOutside)
  match foremost fs with
  | none => s6
  | some (k, f) => s6.onKey k (·.takeFault f)

/-! ### The domain's tick, and the die's -/

/-- One tick of a domain, with whether anything in it went on (DEDUCED, assumption log 27). -/
def State.tickDomain (s : State) (dom : List Nat) : State × Bool :=
  let k0 := s.focus
  let (s0, r) := s.round dom
  if s0.trap.isSome then (s0.endDomain dom true, true)
  else if s0.pageLate then (s0.freezeTick dom (r.waits ++ [⟨k0, [.outside], []⟩]), false)
  else if !r.waits.isEmpty then ((dom.foldl (State.starved · false) s0).freezeTick dom r.waits, false)
  else if r.unfit then ((dom.foldl (State.starved · true) s0).freezeTick dom [⟨k0, [.own], []⟩], true)
  else match r.faults with
    | (k, f) :: _ => ((s0.onKey k (·.takeFault f)).endDomain dom true, true)
    | [] =>
      let t := dom.foldl (State.starved · false) (r.st.focusOn k0)
      (s0.goTick t dom, r.moved || dom.any fun k => !(t.ctx k).flight.isEmpty || !(t.ctx k).lsPend.isEmpty)

/-- Contexts in which something happens as ticks pass, ascending. -/
def State.live (s : State) : List Nat :=
  ((s.allCtxs.filter fun (_, c) => c.run == .running || c.grid.isSome || !c.flight.isEmpty || !c.outst.isEmpty
    || !c.lsPend.isEmpty).map Prod.fst).foldl (fun l k => insertNat k l) []

/-- The domains of a die that have a live context, by their lowest live contexts. -/
def State.domains (s : State) (die : Nat) : List (List Nat) :=
  (s.live.filter fun k => (s.ctx k).die == die).foldl (fun l k =>
    if l.any (·.contains k) then l else l ++ [(s.focusOn k).domain]) []

/-- The clock of a die stands (27 R387). -/
def State.clockStopped (s : State) (die : Nat) : Bool := (s.dies.get (Fin.ofNat 4 die)).stopped

/-- The buffers of the copies that a context has under way. -/
def Ctx.copyBufs (c : Ctx) : List (BitVec 8 × Fin 64) :=
  c.active.filterMap fun x => match x.kind with
    | .copy | .copyk => some (c.ctxId, Fin.ofNat 64 (blk x.blk 0 8 6))
    | _ => none

/-- A copy under way waits for memory: its buffer counts a stall, once in a tick (06 R145). -/
def State.copyStalls (s : State) (die : Nat) : State :=
  ((((s.allCtxs.filter fun e => e.2.die == die).flatMap fun e => e.2.copyBufs).eraseDups).foldl
    (fun s x => s.countStall x.1 x.2) s)

/-- The ticks of die 0 that the dispatcher counts: those for which a head launch has been ready, and those of a function whose grids run
(24 R352 R355). -/
def State.dispatchTick (s : State) : State :=
  { s with
    queues := s.queues.map fun (q, x) => (q, match x.waiting with
      | l :: ls => if (s.readyHead q).isSome then { x with waiting := { l with ready := l.ready + 1 } :: ls } else x
      | [] => x)
    funcs := s.funcs.map fun (n, f) =>
      (n, if s.grids.any fun e => e.2.func == n && e.2.state == .running then { f with used := f.used + 1 } else f) }

/-- The end of a tick of a die: its clock counts, the engines of elastic grids advance, rows that are due are replaced, and writes that wait on the
host link go on. -/
def State.endTick (s : State) (die : Nat) : State :=
  let d : Fin 4 := Fin.ofNat 4 die
  let s1 := (s.engineTicks (s.freeEngines die)).copyStalls die
  let s2 := { s1 with dies := s1.dies.set d { s1.dies.get d with tick := (s1.dies.get d).tick + 1 } }
  (if die = 0 then s2.dispatchTick else s2).replaceRows.drainLink

/-- The other context of the core takes its tick first: both are of one elastic grid, both meet a fault in this tick, and the other's
syllable has the lower position (02 R40). `t` is what the tick of context `k` gives. -/
def State.mateFirst (s t : State) (k : Nat) : Option Nat :=
  match t.trap, coMate k with
  | some f, some j =>
    if k < j ∧ (s.ctx k).elastic ∧ (s.ctx k).grid.isSome ∧ (s.ctx k).grid = (s.ctx j).grid then
      ((((s.focusOn j).tickDomain [j]).1.trap).filter fun x => decide (lowestPos x < lowestPos f)).map fun _ => j
    else none
  | _, _ => none

/-- The domains of a die take their ticks one after another, but for those in `done`, which have taken theirs; with the state are the
domains in which nothing went on. -/
def State.tickDomains (s : State) (done : List Nat) (stuck : List (List Nat)) : List (List Nat) → State × List (List Nat)
  | [] => (s, stuck)
  | dom :: l =>
    let k := dom.headD s.focus
    if done.contains k then s.tickDomains done stuck l
    else
      let (t, moved) := (s.focusOn k).tickDomain dom
      match s.mateFirst t k with
      | none => t.tickDomains done (if moved then stuck else stuck ++ [dom]) l
      | some j => (((s.focusOn j).tickDomain [j]).1.focusOn k).tickDomain dom |>.1.tickDomains (j :: done) stuck l

/-- The requests of a die's earlier ticks are over. -/
def State.freshTick (s : State) (die : Nat) : State :=
  { s with
    lsReqs := s.lsReqs.filter fun r => lsCore r.key / 256 != die
    used := s.used.filter fun e => e.1 / 256 != die }

/-- The elastic requests on the local stores of a die that can be granted in the tick that ends are, one after another (06 R131). -/
def State.grantDie (s : State) (die : Nat) : Nat → State
  | 0 => s
  | n + 1 =>
    match s.elReqs.zipIdx.find? fun x => lsCore x.1.key / 256 == die && s.elFree (s.elNow (lsCore x.1.key)) (x.2, x.1) with
    | some x => (s.elGrant x.2).grantDie die n
    | none => s

/-- An access of a strand that has not been granted in its tick freezes its context until it is (08 R175, 10 R218, 06 R131). -/
def State.elWaits (s : State) (die : Nat) : State :=
  s.elReqs.foldl (fun s e => match e.job, e.owner with
    | .access p, some k =>
      if (s.ctx k).die = die ∧ !(s.ctx k).holds.contains (.elastic p.born p.pos) ∧ e.age < s.elNow (lsCore e.key) then
        s.updCtx k fun c => if c.run = .stopped then c else { c with holds := c.holds ++ [.elastic p.born p.pos] }
      else s
    | _, _ => s) s

/-- One tick of the die of the context in focus: every domain on it takes its tick, then its elastic requests are granted. With the
result are the domains in which nothing went on (DESIGN CHOICE, assumption log 16). -/
def State.tick (s : State) : State × List (List Nat) :=
  let k0 := s.focus
  let die := s.cur.die
  if s.clockStopped die then (s, [])
  else
    let (t, stuck) := (s.freshTick die).tickDomains [] [] (s.domains die)
    let t1 := t.endTick die
    (((t1.grantDie die t1.elReqs.length).elWaits die).focusOn k0, stuck)

end Sys2Proof.Machine
end

