-- ==== Sys2Proof/Machine/Order.lean ====
section
/-! DEFINITION. The default order of events: what happens next when nothing has been chosen and a domain cannot go on
(DESIGN CHOICE, assumption log 5). -/
namespace Sys2Proof.Machine

/-- The barriers and points at which the context in focus waits, where they may pass. -/
def State.passHolds (s : State) : Option State :=
  match s.cur.grid, s.grid? with
  | some gid, some g =>
    s.cur.holds.findSome? fun h => match h with
      | .bar die n =>
        let place := s.cur.place die
        if s.barrierReady g die place n.val then some (s.barrierPass gid die place n.val) else none
      | .tkaln _ | .resume =>
        let ds := g.members.map Member.die
        let t := ds.foldl (fun s d => ds.foldl (fun s e => s.pointReached gid d e) s) s
        if t.cur.holds.contains h then none else some t
      | _ => none
  | _, _ => none

/-- The context in focus waits for the drain of its core. -/
def State.atDrain (s : State) : Bool :=
  s.cur.holds.any (fun h => match h with | .drain .. => true | _ => false) && s.reqq.any (·.core == s.cur.reqCore)

/-- A strand may begin on the context in focus. -/
def State.mayStart (s : State) : Bool :=
  s.cur.holds.contains .start
    || (s.clear s.focus && s.cur.run != .stopped && (match s.grid? with
      | some g => (g.nextStrand s.cur s.focus).isSome
      | none => false))

/-- What lets the context in focus go on. -/
def State.helpCur (s : State) : Option State :=
  if s.cur.run = .running ∧ s.missing.isSome then some s.icacheFill
  else match s.cur.firstOut with
    | some i => some (s.arriveAt i)
    | none =>
      match s.startHead.or s.finishCmd with
      | some t => some t
      | none =>
        if s.atDrain then some (s.drainCore s.cur.reqCore)
        else match s.passHolds with
          | some t => some t
          | none =>
            match s.cur.kiosk.trav.find? (fun e => e.2.state == .waiting) with
            | some (i, _) => some (s.nodeArrive i)
            | none =>
              if s.mayStart && (s.grid?.any fun g => g.state == .running) then some (s.strandStart s.focus) else none

/-- The launch that arbitration picks starts. -/
def State.helpLaunch (s : State) (q : Nat) : State :=
  s.launch q (fun _ => true) fun s l =>
    if l.type = 0 then s.finishLaunch q l 0 0 else if l.type = 2 then s.kioskLaunch q l else s.kernelLaunch q l

/-- What the dispatcher does next: fetch a packet, start a launch, retire or resume a grid. -/
def State.helpDispatch (s : State) : Option State :=
  match s.queues.find? (fun e => e.2.en && !e.2.halted && e.2.head != e.2.tail) with
  | some (q, _) => some (s.packetFetch q)
  | none =>
    match s.pick with
    | some (_, q) => some (s.helpLaunch q)
    | none =>
      match s.grids.findSome? (fun (g, _) => let t := s.gridRetire g; if t.grids.length < s.grids.length then some t else none) with
      | some t => some t
      | none => (s.grids.find? fun e => s.resumable e.2).map fun e => s.gridResume e.1

/-- A port has a payload to carry. -/
def Port.carries (p : Port) : Bool := !p.failed && !p.training && !(p.wait.isEmpty && p.again.isEmpty)

/-- A payload, an engine, a port, a global store or the dispatcher that can go on. -/
def State.helpShared (s : State) : Option State :=
  match s.fabric.findIdx? s.mayLand with
  | some i => some (s.landPayload i)
  | none =>
    match s.engines.findSome? (fun (cl, _) => s.helpEngine cl) with
    | some t => some t
    | none =>
      match s.ports.find? (·.2.carries) with
      | some (p, _) => some (s.slotPass p)
      | none =>
        match s.reqq.head? with
        | some t => some (s.drainCore t.core)
        | none => s.helpDispatch

/-- The first event that helps a context of a domain, if there is one. -/
def State.helpDomain (s : State) (dom : List Nat) : Option State :=
  dom.findSome? fun k => (s.focusOn k).helpCur

/-- Events for the domains in which nothing went on: one for each that has one of its own, and one that others share. -/
def State.help (s : State) (stuck : List (List Nat)) : State :=
  let k0 := s.focus
  let s1 := stuck.foldl (fun s dom => (s.helpDomain dom).getD s) s
  (s1.helpShared.getD s1).focusOn k0

/-- The next die with a live context, from the one in focus round. -/
def State.nextDie (s : State) : State :=
  let d := s.cur.die
  let ks := s.live.filter fun k => (s.ctx k).die != d
  match (ks.find? fun k => decide ((s.ctx k).die > d)).or ks.head? with
  | some k => s.focusOn k
  | none => s

/-- A line of a context's instruction cache leaves it. -/
def State.evict (s : State) (key line : Nat) : State :=
  { s with icache := match s.icache.get? key with
    | some t => s.icache.set key (t.del line)
    | none => s.icache }

end Sys2Proof.Machine
end

