-- ==== Sys2Proof/Machine/Step.lean ====
section
/-! DEFINITION. One step of the package: the next chosen event, or a tick of the die in focus (DESIGN CHOICE, assumption log 5), and the
placing of an instruction where the next step fetches it. -/
namespace Sys2Proof.Machine

/-- A device whose fuses or whose firmware bring-up has refused: nothing but a reset acts (27 R386) (DESIGN CHOICE, assumption log 58). -/
def State.halted (s : State) : Bool := s.boot.fail == 2 || s.boot.fail == 3

/-- A tick of the die in focus; where something in it cannot go on, the default order of events does, and the next die comes into
focus. -/
def State.tickOrHelp (s : State) : State :=
  let (t, stuck) := s.tick
  (if stuck.isEmpty ∧ !s.live.isEmpty then t else t.help stuck).nextDie

/-- A turn of a halted device: only its reset happens. -/
def State.haltedTurn (s : State) (t : Turn) : Host.Outcome State Fault Refusal :=
  match t with
  | .event (.deviceReset) => execDeviceReset s
  | _ => .next s

def step (s : State) : Host.Outcome State Fault Refusal :=
  match s.turns with
  | [] => .next (if s.halted then s else s.tickOrHelp)
  | t :: l =>
    let s := { s with turns := l }
    if s.halted then s.haltedTurn t
    else match t with
      | .event i => Sys2Proof.Machine.exec i s
      | .context k => .next (s.focusOn k).tick.1
      | .perform n => .next (s.performStore n)
      | .evict key line => .next (s.evict key line)
      | .slot port => .next (s.slotPass port)
      | .incoming port gid member q dst slot v => .next (s.incoming port gid member q dst slot v)
      | .farRead gid src member q slot => .next (s.farRead gid src member q slot)

/-- One syllable in the instruction cache of the context in focus. -/
def State.putText (s : State) (a : Nat) (w : Word64) : State :=
  let old := (s.line? a).getD (Vector.replicate 8 0#64)
  s.fillLine s.focus (a / 64) (old.set (Fin.ofNat 8 (a / 8 % 8)) w)

/-- The bundle of an instruction: its syllable, its X where one extends it, and the stop bit on the last. -/
def tableWords (nbits w : Nat) : List Word64 :=
  let x := w % 2 ^ nbits
  let stop : Word64 := BitVec.twoPow 64 63
  let a := BitVec.ofNat 64 x
  let b := BitVec.ofNat 64 (x / 2 ^ 64)
  if cls b.toNat = 4 ∧ takesX a.toNat ∧ !a.getLsbD 63 then [a, b ||| stop] else [a ||| stop]

/-- A context that issues the bundle at its pc in the next tick. -/
def Ctx.ready (c : Ctx) : Ctx :=
  { c with
    run := .running, grid := none, idle := 0, loop := LoopState.none, outst := [], holds := [], lsPend := [], mstep := none, lBusy := 0
    flight := []
    ltt := c.ltt.set (0 : Fin 64) (BitVec.ofNat 64 (17 + bits c.pc.toNat 21 27 * 2 ^ 21 + 2 ^ 48),
      BitVec.ofNat 64 (bits c.pc.toNat 21 27 * 2 ^ 21)) }

/-- The instruction stands as a bundle of its own at the pc of a context that issues next: the context in focus, or kiosk core 0
for a K syllable (DESIGN CHOICE, assumption log 14). -/
def State.withFetchWord (s : State) (nbits w : Nat) : State :=
  let ws := tableWords nbits w
  let s1 := if cls (w % 2 ^ nbits) = 5 ∧ s.cur.kind = .compute then s.focusOn 2048 else s
  let s2 := { s1.mapCur Ctx.ready with turns := [], trap := none }
  -- a level-0 LOOP fetches its body with it
  let s3 := if cls (w % 2 ^ nbits) = 0 ∧ opc (w % 2 ^ nbits) = 0x64 then
      (List.range 66).foldl (fun s i => s.putText (s.cur.pc.toNat + 64 * i) 0) s2
    else s2
  ws.zipIdx.foldl (fun s (x, i) => s.putText (s.cur.pc.toNat + 8 * i) x) s3

end Sys2Proof.Machine
end

