-- ==== Sys2Proof/Safety.lean ====
section
/-! DEFINITION. What counts as a sound state of the machine, and as a step that goes on without a fault: the terms in which
statements about every step are made (00 R1, 02 R20 R39, 03 R47 R53). -/
namespace Sys2Proof.Machine

/-- A context whose LS is in canonical form, whose `$rmode` holds a valid code, and whose s0 holds 0 (03 R47 R53). -/
def Ctx.sound (c : Ctx) : Prop := c.ls.wf = true ∧ c.sp.rmode.toNat < 5 ∧ c.regs.s.get 0 = 0

/-- Saved contexts of a grid are sound. -/
def Grid.sound (g : Grid) : Prop := ∀ e ∈ g.saved, e.2.sound

/-- A sound state: both memories are in canonical form, and every context is sound, in a core or saved. -/
def State.sound (s : State) : Prop :=
  s.mem.wf = true ∧ s.hostMem.wf = true ∧ s.cur.sound ∧ (∀ e ∈ s.others, e.2.sound) ∧ ∀ e ∈ s.grids, e.2.sound

/-- A step or a meaning that has a next state. -/
def goesOn (o : Out) : Prop := ∃ t, o = .next t

/-- A meaning that has a next state in which no fault has been taken since `trap` was cleared (02 R39). -/
def clean (o : Out) : Prop := ∃ t, o = .next t ∧ t.trap = none

end Sys2Proof.Machine
end

