-- ==== Sys2Proof/Certificates/Slice0/Obligations.lean ====
section
/-! DEFINITION. The statements for the provers. `Claim` holds the words they are made in: the results that a syllable leaves in
flight, and the tables of the spec's chapters written a second time from their own words. -/
namespace Sys2Proof.Claim
open Machine

/-! ### What a syllable leaves -/

/-- A result of the syllable that executes: it lands `lat` ticks on (03 R58). -/
def res (s : State) (lat : Nat) (ws : List RegWrite) (bp : Option BpVal) (ev : Ev := 0) : Result :=
  ⟨lat, ws, bp, ev, s.issue.addr, s.issue.pos, s.cur.sp.scnt.toNat, false, none⟩

/-- The state with these results in flight as well and nothing else changed. -/
def plus (s : State) (rs : List Result) : State := { s with cur := { s.cur with flight := s.cur.flight ++ rs } }

/-- The empty-bypass event of a syllable that reads these registers, where one is a bypass on which nothing lands (03 R63). -/
def ebpOf (s : State) (ss : List SReg) (vs : List VReg) : List Result :=
  if (SReg.bpS ∈ ss ∧ s.cur.bp.s = none) ∨ (SReg.bpL ∈ ss ∧ s.cur.bp.l = none)
      ∨ (VReg.bpV0 ∈ vs ∧ s.cur.bp.v0 = none) ∨ (VReg.bpV1 ∈ vs ∧ s.cur.bp.v1 = none)
      ∨ (VReg.bpL ∈ vs ∧ s.cur.bp.lv = none) ∨ (VReg.bpM ∈ vs ∧ s.cur.bp.m = none) then
    [res s 0 [] none (BitVec.twoPow 9 8)]
  else []

/-- What is written to a scalar destination: nothing to s0 or to a bypass, the base of a stream register (03 R47 R48 R64). -/
def sDest (d : SReg) (v : Word64) : List RegWrite :=
  match d with
  | .s n => if n = 0 then [] else [.sreg n v]
  | .a n => [.aBase n v]
  | .bpS => []
  | .bpL => []

/-- The physical register of a predicate name (03 R65). -/
def pReg (c : Ctx) (n : Fin 64) : Fin 64 := if n < 32 then n else Fin.ofNat 64 (32 + ((n.val - 32) + c.sp.rotp.toNat) % 32)

/-- The physical register of a vector name (03 R65). -/
def vReg (c : Ctx) (n : Fin 640) : Fin 640 :=
  if n < 512 then n else Fin.ofNat 640 (512 + ((n.val - 512) + c.sp.rotv.toNat) % 128)

/-- Every lane, or none. -/
def lanesOf (b : Bool) : Mask := if b then -1 else 0

/-- The registers of a B operand. -/
def bReads (b : SrcB) : List SReg :=
  match b with
  | .reg r => [r]
  | .imm _ => []

/-- What a failed access does: the syllable takes the fault; an access of the management core or its standby that the access table or
a seal turns away is only not performed (23 R339 R341). -/
def fails (s : State) (f : Flt) : Out :=
  if (s.cur.kind = .management ∨ s.cur.kind = .standby) ∧ (f.1 = 5 ∧ f.2.2.toNat % 256 = 4 ∨ f.1 = 6) then .next s
  else .next (s.takeFault ⟨f.1, BitVec.twoPow 8 s.issue.pos.val, s.issue.addr, f.2.1, f.2.2⟩)

/-- A scalar result as a row of a table gives it. -/
structure Row where
  g     : Guard
  reads : List SReg
  d     : SReg
  lat   : Nat
  v     : Word64
  ev    : Ev := 0

/-- The state after a row: the event of an empty bypass and one result of the S unit, which its bypass carries. -/
def Row.after (r : Row) (s : State) : State := plus s (ebpOf s r.reads [] ++ [res s r.lat (sDest r.d r.v) (some (.s r.v)) r.ev])

/-! ### Integer and predicate rows (07 R148 to R150) -/

/-- POPC, PCNT. -/
def ones (a : Word64) : Nat := (List.range 64).countP fun i => a.getLsbD i

/-- The lowest set bit, 64 where there is none: CTZ, PFIRST. -/
def lowest (a : Word64) : Nat := (List.range 64).countP fun i => a.toNat % 2 ^ (i + 1) == 0

/-- The bits above the highest set bit: CLZ. -/
def leading (a : Word64) : Nat := (List.range 64).countP fun i => a.toNat < 2 ^ i

/-- Field extract (07 R149). -/
def field (a b : Word64) (signed : Bool) : Word64 :=
  let pos := b.toNat % 64
  let len := b.toNat / 64 % 64 + 1
  let f := a.toNat / 2 ^ pos % 2 ^ len
  if signed ∧ f ≥ 2 ^ (len - 1) then BitVec.ofInt 64 ((f : Int) - 2 ^ len) else BitVec.ofNat 64 f

/-- Field insert (07 R149): bits pos to pos + len − 1 that lie in the word come from A, the others from D. -/
def placed (d a b : Word64) : Word64 :=
  let pos := b.toNat % 64
  let len := b.toNat / 64 % 64 + 1
  BitVec.ofNat 64 ((List.range 64).foldl (fun n i =>
    n + (if (if pos ≤ i ∧ i < pos + len then a.getLsbD (i - pos) else d.getLsbD i) then 2 ^ i else 0)) 0)

/-- The table of 07 R148, and the scalar rows of 07 R150. -/
def intRow (s : State) (i : Instr) : Option Row :=
  let two (o : SOp) (lat : Nat) (f : Word64 → Word64 → Word64) : Option Row :=
    some { g := o.g, reads := o.a :: bReads o.b, d := o.d, lat := lat, v := f (s.rs o.a) (s.srcB o.b) }
  let three (o : SOp) (f : Word64 → Word64 → Word64 → Word64) : Option Row :=
    some { g := o.g, reads := o.d :: o.a :: bReads o.b, d := o.d, lat := 1, v := f (s.rs o.d) (s.rs o.a) (s.srcB o.b) }
  let one (g : Guard) (d : SReg) (rs : List SReg) (n : Nat) : Option Row :=
    some { g := g, reads := rs, d := d, lat := 1, v := BitVec.ofNat 64 n }
  match i with
  | .add o => two o 1 fun a b => BitVec.ofNat 64 (a.toNat + b.toNat)
  | .sub o => two o 1 fun a b => BitVec.ofInt 64 (a.toInt - b.toInt)
  | .mul o => two o 3 fun a b => BitVec.ofNat 64 (a.toNat * b.toNat)
  | .mulh u o => two o 3 fun a b =>
      if u then (a.setWidth 128 * b.setWidth 128).extractLsb' 64 64 else (a.signExtend 128 * b.signExtend 128).extractLsb' 64 64
  | .div u o => two o 24 fun a b => if b = 0 then -1 else if u then a.udiv b else a.sdiv b
  | .rem u o => two o 24 fun a b => if b = 0 then a else if u then a.umod b else a.srem b
  | .and o => two o 1 fun a b => a &&& b
  | .or o => two o 1 fun a b => a ||| b
  | .xor o => two o 1 fun a b => a ^^^ b
  | .andn o => two o 1 fun a b => a &&& (-1 ^^^ b)
  | .shl o => two o 1 fun a b => BitVec.ofNat 64 (a.toNat * 2 ^ (b.toNat % 64))
  | .shr o => two o 1 fun a b => BitVec.ofNat 64 (a.toNat / 2 ^ (b.toNat % 64))
  | .sar o => two o 1 fun a b => BitVec.ofInt 64 (a.toInt / 2 ^ (b.toNat % 64))
  | .rotl o => two o 1 fun a b => a <<< (b.toNat % 64) ||| a >>> (64 - b.toNat % 64)
  | .min u o => two o 1 fun a b => if u then (if a.toNat ≤ b.toNat then a else b) else if a.toInt ≤ b.toInt then a else b
  | .max u o => two o 1 fun a b => if u then (if a.toNat ≤ b.toNat then b else a) else if a.toInt ≤ b.toInt then b else a
  | .clz o => one o.g o.d [o.a] (leading (s.rs o.a))
  | .ctz o => one o.g o.d [o.a] (lowest (s.rs o.a))
  | .popc o => one o.g o.d [o.a] (ones (s.rs o.a))
  | .sel o => three o fun d a b => if d = 0 then b else a
  | .mov g d b => some { g := g, reads := bReads b, d := d, lat := 1, v := s.srcB b }
  | .movhi o => two o 1 fun a b => b.setWidth 32 ++ a.setWidth 32
  | .extr sg o => two o 1 fun a b => field a b sg
  | .insr o => three o placed
  | .pcnt g d pa => one g d [] (ones (s.cur.pred pa))
  | .pget g d pa => some { g := g, reads := [], d := d, lat := 1, v := s.cur.pred pa }
  | .pfirst g d pa => one g d [] (lowest (s.cur.pred pa))
  | _ => none

/-- The comparisons of 07 R150. -/
def compares (cc : Cc) (a b : Word64) : Bool :=
  match cc with
  | .eq => a.toNat = b.toNat
  | .ne => a.toNat ≠ b.toNat
  | .lt => a.toInt < b.toInt
  | .le => a.toInt ≤ b.toInt
  | .gt => a.toInt > b.toInt
  | .ge => a.toInt ≥ b.toInt
  | .ltu => a.toNat < b.toNat
  | .leu => a.toNat ≤ b.toNat
  | .gtu => a.toNat > b.toNat
  | .geu => a.toNat ≥ b.toNat

/-- One lane of a PLOG operation (07 R150). -/
def logic (op : PlogOp) (a b : Bool) : Bool :=
  match op with
  | .and => a && b
  | .or => a || b
  | .xor => a != b
  | .andn => a && !b
  | .not => !a
  | .mov => a
  | .nand => !(a && b)
  | .nor => !(a || b)

/-- A predicate result of 64 lanes. -/
structure PRow where
  g     : Guard
  reads : List SReg
  pd    : Fin 64
  lat   : Nat
  lane  : Fin 64 → Bool
  ev    : Ev := 0

/-- The word of 64 lanes. -/
def packLanes (f : Fin 64 → Bool) : Mask := BitVec.ofBoolListLE (List.ofFn f) |>.setWidth 64

/-- A predicate result reaches no bypass (03 R63). -/
def PRow.after (r : PRow) (s : State) : State :=
  plus s (ebpOf s r.reads [] ++ [res s r.lat [.pred (pReg s.cur r.pd) (-1) (packLanes r.lane)] none r.ev])

/-- The predicate rows of 07 R150 and R152. -/
def predRow (s : State) (i : Instr) : Option PRow :=
  match i with
  | .cmp g pd cc a b => some { g := g, reads := a :: bReads b, pd := pd, lat := 1, lane := fun _ => compares cc (s.rs a) (s.srcB b) }
  | .plog g op pd pa pb =>
      let f (k : Fin 64) : Bool := logic op ((s.cur.pred pa).getLsbD k) ((s.cur.pred pb).getLsbD k)
      some { g := g, reads := [], pd := pd, lat := 1, lane := f }
  | .pset g pd b => some { g := g, reads := bReads b, pd := pd, lat := 1, lane := fun k => (s.srcB b).getLsbD k }
  | .fcmp g pd cc a b =>
      let r := fcmpHolds cc (f64 (s.rs a)) (f64 (s.rs b))
      some { g := g, reads := [a, b], pd := pd, lat := 4, lane := fun _ => r.1, ev := r.2 }
  | _ => none

/-! ### Scalar FP64 rows (07 R151 R153) -/

/-- The mode of an S-class rounding: DYN is `$rmode`, and RSTO rounds RNE (05 R102, 07 R151). -/
def sMode (s : State) (rm : Rm) : Rnd :=
  let n := s.cur.sp.rmode.toNat
  match rm with
  | .rne => ⟨.rne, 0⟩
  | .rtz => ⟨.rtz, 0⟩
  | .rup => ⟨.rup, 0⟩
  | .rdn => ⟨.rdn, 0⟩
  | .rsto => ⟨.rne, 0⟩
  | .dyn => if n = 1 then ⟨.rtz, 0⟩ else if n = 2 then ⟨.rup, 0⟩ else if n = 3 then ⟨.rdn, 0⟩ else ⟨.rne, 0⟩

/-- The tables of 07 R151 and R153, over the rounded operations of 05 R101 to R104. -/
def fpRow (s : State) (i : Instr) : Option Row :=
  let F := FFmt.f64
  let two (o : SFp) (lat : Nat) (x : Nat × Ev) : Option Row :=
    some { g := o.g, reads := [o.a, o.b], d := o.d, lat := lat, v := BitVec.ofNat 64 x.1, ev := x.2 }
  let A (o : SFp) := F.unpack (s.rs o.a).toNat
  let B (o : SFp) := F.unpack (s.rs o.b).toNat
  match i with
  | .fadd o => two o 4 (F.add (sMode s o.rm) (A o) (B o))
  | .fsub o => two o 4 (F.add (sMode s o.rm) (A o) (B o).neg)
  | .fmul o => two o 4 (F.mul (sMode s o.rm) (A o) (B o))
  | .fma o =>
      let x := F.fma (sMode s o.rm) (A o) (B o) (F.unpack (s.rs o.d).toNat)
      some { g := o.g, reads := [o.d, o.a, o.b], d := o.d, lat := 4, v := BitVec.ofNat 64 x.1, ev := x.2 }
  | .fdiv o => two o 20 (F.div (sMode s o.rm) (A o) (B o))
  | .fsqrt g d a rm =>
      let x := F.sqrt (sMode s rm) (F.unpack (s.rs a).toNat)
      some { g := g, reads := [a], d := d, lat := 24, v := BitVec.ofNat 64 x.1, ev := x.2 }
  | .fcvt g k rm d a =>
      let q := sMode s rm
      let w := s.rs a
      let x := F.unpack w.toNat
      let out (v : Word64) (ev : Ev) : Option Row := some { g := g, reads := [a], d := d, lat := 4, v := v, ev := ev }
      match k with
      | .toi => let r := x.toInt q (-(2 ^ 63)) (2 ^ 63 - 1); out (BitVec.ofInt 64 r.1) r.2
      | .tou => let r := x.toInt q 0 (2 ^ 64 - 1); out (BitVec.ofInt 64 r.1) r.2
      | .fromi => let r := F.roundFin q (decide (w.toInt < 0)) w.toInt.natAbs 0; out (BitVec.ofNat 64 r.1) r.2
      | .fromu => let r := F.roundFin q false w.toNat 0; out (BitVec.ofNat 64 r.1) r.2
      | .tof32 => let r := FFmt.f32.ofFl q x; out (BitVec.ofNat 64 r.1) r.2
      | .fromf32 => let r := F.ofFl q (FFmt.f32.unpack (w.toNat % 2 ^ 32)); out (BitVec.ofNat 64 r.1) r.2
      | .rint => let r := F.rint q x; out (BitVec.ofNat 64 r.1) r.2
  | .fmin g d a b =>
      let x := F.minMax false (s.rs a).toNat (s.rs b).toNat
      some { g := g, reads := [a, b], d := d, lat := 4, v := BitVec.ofNat 64 x.1, ev := x.2 }
  | .fmax g d a b =>
      let x := F.minMax true (s.rs a).toNat (s.rs b).toNat
      some { g := g, reads := [a, b], d := d, lat := 4, v := BitVec.ofNat 64 x.1, ev := x.2 }
  | _ => none

end Sys2Proof.Claim

open Sys2Proof Sys2Proof.Machine

/-- 07 R148 R149 R150: each integer instruction that its guard lets act gives a next state in which the one result of its row is in
flight: the value of the table, at the table's ticks, to the named destination and to bp.s. Nothing else changes: no register,
flag, special or byte of memory, and not the pc. Writes to s0 are discarded. -/
def Sys2Proof.Claim.integerResults : Prop :=
  ∀ (i : Instr) (s : State) (r : Claim.Row), Claim.intRow s i = some r → s.on r.g = true →
    exec i s = .next (r.after s)

/-- 07 R150 R152: CMP, PLOG, PSET and FCMP set every lane of their predicate and change nothing else. -/
def Sys2Proof.Claim.predicateResults : Prop :=
  ∀ (i : Instr) (s : State) (r : Claim.PRow), Claim.predRow s i = some r → s.on r.g = true →
    exec i s = .next (r.after s)

/-- 07 R151 R153, 05 R102 R103: the scalar FP64 instructions deliver their rounded value with its events at their ticks. -/
def Obligations.ScalarFloatResults : Prop :=
  ∀ (i : Instr) (s : State) (r : Claim.Row), Claim.fpRow s i = some r → s.on r.g = true →
    exec i s = .next (r.after s)

/-! ### Specials, streams and control flow (03, 07, 12) -/

namespace Sys2Proof.Claim
open Machine

/-- The syllable that executes takes a fault: its code, its own position and bundle, its detail words (02 R39 R40, 25 R364). -/
def faults (s : State) (code : Nat) (d0 d1 : Word64) : Out :=
  .next (s.takeFault ⟨code, BitVec.twoPow 8 s.issue.pos.val, s.issue.addr, d0, d1⟩)

/-- The table of 03 R53 on a compute core; none for a number that is reserved or privileged. -/
def specialRow (s : State) (n : Nat) : Option Word64 :=
  let c := s.cur
  let lc (k : Fin 6) : Nat := match c.loop.nest with | some x => x.lc.get k | none => 0
  match n with
  | 0x000 => some (s.dies.get (Fin.ofNat 4 (c.gid / 256))).tick
  | 0x001 => some c.sp.scnt
  | 0x002 => some (c.sp.crd.get 0) | 0x003 => some (c.sp.crd.get 1) | 0x004 => some (c.sp.crd.get 2)
  | 0x005 => some (c.sp.crd.get 3) | 0x006 => some (c.sp.crd.get 4) | 0x007 => some (c.sp.crd.get 5)
  | 0x008 => some (BitVec.ofNat 64 (lc 0)) | 0x009 => some (BitVec.ofNat 64 (lc 1)) | 0x00A => some (BitVec.ofNat 64 (lc 2))
  | 0x00B => some (BitVec.ofNat 64 (lc 3)) | 0x00C => some (BitVec.ofNat 64 (lc 4)) | 0x00D => some (BitVec.ofNat 64 (lc 5))
  | 0x00E => some (BitVec.ofNat 64 c.gid)
  | 0x00F => some (BitVec.ofNat 64 (c.ctxId.toNat + if c.second then 256 else 0))
  | 0x010 => some c.sp.fel
  | 0x011 => some (c.sp.fflags.setWidth 64)
  | 0x012 => some (c.sp.rmode.setWidth 64)
  | 0x013 => some c.sp.rngk
  | 0x014 => some (c.sp.rotv.setWidth 64)
  | 0x015 => some (c.sp.rotp.setWidth 64)
  | 0x016 => some c.sp.rnorm
  | 0x017 => some c.sp.rbnorm
  | 0x018 => some (c.sp.rexit.setWidth 64)
  | 0x019 => some (c.sp.rlevel.setWidth 64)
  | _ =>
    if 0x040 ≤ n ∧ n ≤ 0x07F then some ((s.ctxRegs c.ctxId.toNat).bytes.get (Fin.ofNat 64 (n - 0x040)))
    else if 0x080 ≤ n ∧ n ≤ 0x0BF then some ((s.ctxRegs c.ctxId.toNat).stalls.get (Fin.ofNat 64 (n - 0x080)))
    else none

/-- What a landed MOVS changes (03 R53 R54 R55); none for a read-only special. -/
def specialSet (n : Nat) (v : Word64) (sp : Specials) : Option Specials :=
  match n with
  | 0x010 => some { sp with fel := v &&& 0x87F7FFFFFFFFFFF8#64 }
  | 0x011 => some { sp with fflags := v.setWidth 9 }
  | 0x012 => some { sp with rmode := if v.toNat % 8 ≤ 4 then v.setWidth 3 else 0 }
  | 0x013 => some { sp with rngk := v }
  | 0x014 => some { sp with rotv := v.setWidth 7 }
  | 0x015 => some { sp with rotp := v.setWidth 5 }
  | 0x016 => some { sp with rnorm := v }
  | 0x017 => some { sp with rbnorm := v }
  | _ => none

/-- The tables of 03 R53 and 15 R297 on a kiosk core or a management core; none for a number that is reserved or privileged. The
coordinates, the iterations, the rotating bases and the refinement registers read 0 there. -/
def kioskRow (s : State) (die core : Nat) (n : Nat) : Option Word64 :=
  let c := s.cur
  match n with
  | 0x000 => some (s.dies.get (Fin.ofNat 4 die)).tick
  | 0x001 => some c.sp.scnt
  | 0x002 => some 0 | 0x003 => some 0 | 0x004 => some 0 | 0x005 => some 0 | 0x006 => some 0 | 0x007 => some 0
  | 0x008 => some 0 | 0x009 => some 0 | 0x00A => some 0 | 0x00B => some 0 | 0x00C => some 0 | 0x00D => some 0
  | 0x00E => some (BitVec.ofNat 64 core)
  | 0x00F => some (BitVec.ofNat 64 (c.ctxId.toNat + if c.second then 256 else 0))
  | 0x010 => some c.sp.fel
  | 0x011 => some (c.sp.fflags.setWidth 64)
  | 0x012 => some (c.sp.rmode.setWidth 64)
  | 0x013 => some c.sp.rngk
  | 0x014 => some 0 | 0x015 => some 0 | 0x016 => some 0 | 0x017 => some 0 | 0x018 => some 0 | 0x019 => some 0
  | 0x020 => some (c.kiosk.khnd.setWidth 64)
  | 0x021 => some (c.kiosk.kthr.setWidth 64)
  | 0x022 => some (c.kiosk.krtb.setWidth 64)
  | 0x023 => some (c.kiosk.krtn.setWidth 64)
  | 0x024 => some (BitVec.ofNat 64 c.kiosk.pend.length)
  | 0x025 => some (if c.kiosk.kintr then 1 else 0)
  | _ =>
    if 0x040 ≤ n ∧ n ≤ 0x07F then some ((s.ctxRegs c.ctxId.toNat).bytes.get (Fin.ofNat 64 (n - 0x040)))
    else if 0x080 ≤ n ∧ n ≤ 0x0BF then some ((s.ctxRegs c.ctxId.toNat).stalls.get (Fin.ofNat 64 (n - 0x080)))
    else none

/-- What a landed MOVS changes on such a core (03 R53, 15 R297): the context afterwards; none where the write is ignored. -/
def kioskSet (n : Nat) (v : Word64) (c : Ctx) : Option Ctx :=
  match n with
  | 0x010 => some { c with sp := { c.sp with fel := v &&& 0x87F7FFFFFFFFFFF8#64 } }
  | 0x011 => some { c with sp := { c.sp with fflags := v.setWidth 9 } }
  | 0x012 => some { c with sp := { c.sp with rmode := if v.toNat % 8 ≤ 4 then v.setWidth 3 else 0 } }
  | 0x013 => some { c with sp := { c.sp with rngk := v } }
  | 0x020 => some { c with kiosk := { c.kiosk with khnd := v.setWidth 48 } }
  | 0x021 => some { c with kiosk := { c.kiosk with kthr := v.setWidth 32 } }
  | 0x022 => some { c with kiosk := { c.kiosk with krtb := v.setWidth 17 } }
  | 0x023 => some { c with kiosk := { c.kiosk with krtn := v.setWidth 13 } }
  | _ => none

/-- The privileged specials of a context (23 R336); an SGUARD that nothing has written reads as 02 R34 gives it: 1 where the context
runs an elastic grid. -/
def privRow (s : State) (ctx : BitVec 8) (n : Nat) : Word64 :=
  let r := s.ctxRegs ctx.toNat
  match n with
  | 0x100 =>
    match r.sguard with
    | some b => if b then 1 else 0
    | none => if ∃ e ∈ s.grids, e.2.ctx = ctx ∧ e.2.kcb.elastic = true then 1 else 0
  | 0x101 => r.ptroot.setWidth 64 <<< 12
  | 0x102 => r.func.setWidth 64
  | 0x103 => ctx.setWidth 64
  | 0x104 => if r.alive then 1 else 0
  | _ => 0

/-- What a write of a privileged special leaves: SGUARD and PTROOT are written, the others are read-only (23 R336). -/
def privSet (s : State) (ctx : BitVec 8) (n : Nat) (v : Word64) : State :=
  let r := s.ctxRegs ctx.toNat
  match n with
  | 0x100 => { s with ctxs := s.ctxs.set ctx.toNat { r with sguard := some (v.getLsbD 0) } }
  | 0x101 => { s with ctxs := s.ctxs.set ctx.toNat { r with ptroot := v.extractLsb' 12 40 } }
  | _ => s

/-- The stream instructions: guard, what they read, and what lands a tick later (07 R155). -/
def streamRow (s : State) (i : Instr) : Option (Guard × List SReg × List RegWrite × Option BpVal) :=
  match i with
  | .strb g n b => some (g, bReads b, [.aBase n (s.srcB b)], some (.s (s.srcB b)))
  | .strs g n k b => some (g, bReads b, [.aStride n k (s.srcB b)], none)
  | .strz g n => some (g, [], [.aZero n], none)
  | .rotx g off => some (g, [], [.rotate (!off)], none)
  | .rfnorm g a => some (g, [a], [.norm (s.rs a)], none)
  | _ => none

/-- Issue goes on at `a` after `idle` idle ticks. -/
def goesTo (s : State) (a : Word64) (idle : Nat) : State := { s with cur := { s.cur with next := a, idle := idle } }

end Sys2Proof.Claim

/-- 07 R154, 03 R53: MOVX on a compute core writes the special's value to its destination after a tick and changes nothing else. -/
def Sys2Proof.Claim.specialReads : Prop :=
  ∀ (g : Guard) (d : SReg) (n : Fin 512) (s : State) (v : Word64), s.cur.kind = .compute → s.on g = true →
    Claim.specialRow s n.val = some v →
    exec (.movx g d n) s = .next (Claim.plus s [Claim.res s 1 (Claim.sDest d v) (some (.s v))])

/-- 03 R53 R54, 07 R154: MOVS on a compute core. A write of a writable special lands a tick later as the table gives it, and
raises invalid for 5, 6 or 7 to `$rmode`; a write of a read-only special is ignored. -/
def Sys2Proof.Claim.specialWrites : Prop :=
  ∀ (g : Guard) (n : Fin 512) (a : SReg) (s : State), s.cur.kind = .compute → s.on g = true →
    (∀ sp, Claim.specialSet n.val (s.rs a) s.cur.sp = some sp →
      exec (.movs g n a) s = .next (Claim.plus s (Claim.ebpOf s [a] [] ++ [Claim.res s 1 [.special n (s.rs a)] none
        (if n.val = 0x012 ∧ (s.rs a).toNat % 8 > 4 then BitVec.twoPow 9 0 else 0)]))
      ∧ (RegWrite.special n (s.rs a)).apply s.cur = { s.cur with sp := sp })
    ∧ (Claim.specialSet n.val (s.rs a) s.cur.sp = none → (Claim.specialRow s n.val).isSome →
      exec (.movs g n a) s = .next (Claim.plus s (Claim.ebpOf s [a] [])))

/-- 03 R53: a privileged special named by a strand or a kiosk program is a protection fault, reason 6, and a reserved number an
illegal instruction, whether read or written. -/
def Sys2Proof.Claim.specialFaults : Prop :=
  ∀ (g : Guard) (d a : SReg) (n : Fin 512) (s : State), s.on g = true →
    (n.val ≥ 0x100 → (s.cur.kind = .compute ∨ s.cur.kind = .kiosk) →
      exec (.movx g d n) s = Claim.faults s 5 (BitVec.ofNat 64 n.val) 6 ∧ exec (.movs g n a) s = Claim.faults s 5 (BitVec.ofNat 64 n.val) 6)
    ∧ ((0x01A ≤ n.val ∧ n.val ≤ 0x01F ∨ 0x026 ≤ n.val ∧ n.val ≤ 0x03F ∨ 0x0C0 ≤ n.val ∧ n.val ≤ 0x0FF
          ∨ s.cur.kind = .compute ∧ 0x020 ≤ n.val ∧ n.val ≤ 0x025) →
      exec (.movx g d n) s = Claim.faults s 1 0 0 ∧ exec (.movs g n a) s = Claim.faults s 1 0 0)

/-- 15 R297, 03 R53 R54: MOVX and MOVS on a kiosk core and on a management core. MOVX writes the value of the table to its
destination after a tick; a write that the table knows lands a tick later, with invalid for 5, 6 or 7 to `$rmode`, and any other write of
a number that is neither reserved nor privileged is ignored, but for the empty-bypass event of its source (model's choice, log 64). -/
def Sys2Proof.Claim.kioskSpecials : Prop :=
  ∀ (g : Guard) (d a : SReg) (n : Fin 512) (s : State) (die core : Nat) (v : Word64), s.on g = true →
    (s.cur.kind = .kiosk ∧ s.cur.gid < 128 ∧ die = s.cur.gid / 32 ∧ core = 1024 + s.cur.gid
      ∨ s.cur.kind = .management ∧ die = 0 ∧ core = 1152 ∨ s.cur.kind = .standby ∧ die = 1 ∧ core = 1153) →
    Claim.kioskRow s die core n.val = some v →
    exec (.movx g d n) s = .next (Claim.plus s [Claim.res s 1 (Claim.sDest d v) (some (.s v))])
    ∧ (∀ c, Claim.kioskSet n.val (s.rs a) s.cur = some c →
        exec (.movs g n a) s = .next (Claim.plus s (Claim.ebpOf s [a] [] ++ [Claim.res s 1 [.special n (s.rs a)] none
          (if n.val = 0x012 ∧ (s.rs a).toNat % 8 > 4 then BitVec.twoPow 9 0 else 0)]))
        ∧ (RegWrite.special n (s.rs a)).apply s.cur = c)
    ∧ (Claim.kioskSet n.val (s.rs a) s.cur = none → exec (.movs g n a) s = .next (Claim.plus s (Claim.ebpOf s [a] [])))

/-- 23 R336: firmware reads and writes the privileged specials of its context at once; any other number from 0x100 on is reserved. -/
def Sys2Proof.Claim.firmwareSpecials : Prop :=
  ∀ (g : Guard) (d a : SReg) (n : Fin 512) (s : State), s.on g = true → (s.cur.kind = .management ∨ s.cur.kind = .standby) →
    0x100 ≤ n.val →
    (n.val ≤ 0x104 →
      exec (.movx g d n) s = .next (Claim.plus s [Claim.res s 1 (Claim.sDest d (Claim.privRow s s.cur.ctxId n.val))
        (some (.s (Claim.privRow s s.cur.ctxId n.val)))])
      ∧ exec (.movs g n a) s = .next (Claim.privSet (Claim.plus s (Claim.ebpOf s [a] [])) s.cur.ctxId n.val (s.rs a)))
    ∧ (0x104 < n.val → exec (.movx g d n) s = Claim.faults s 1 0 0 ∧ exec (.movs g n a) s = Claim.faults s 1 0 0)

/-- 07 R155 R161, 12 R265: the stream instructions, ROTX and RFNORM leave one result at one tick and change nothing else. That STRB's value
appears on the scalar bypass while STRS, STRZ and RFNORM deliver none is the model's choice (assumption log 54). -/
def Sys2Proof.Claim.streamResults : Prop :=
  ∀ (i : Instr) (s : State) (g : Guard) (rs : List SReg) (ws : List RegWrite) (bp : Option BpVal),
    Claim.streamRow s i = some (g, rs, ws, bp) → s.on g = true →
    exec i s = .next (Claim.plus s (Claim.ebpOf s rs [] ++ [Claim.res s 1 ws bp]))

/-- 03 R48 R65, 07 R155 R161: what the writes of streams and of a rotation step do where they land. A base write leaves the strides,
STRZ zeroes every stride and leaves the base; a rotation step lowers both bases by one, gives the new p32 its value, and makes the
register that was v512 read as v513. -/
def Sys2Proof.Claim.streamAndRotation : Prop :=
  (∀ (n m : Fin 16) (k j : Fin 6) (v : Word64) (c : Ctx),
    ((RegWrite.aBase n v).apply c).regs.aBase.get m = (if m = n then v else c.regs.aBase.get m)
    ∧ ((RegWrite.aBase n v).apply c).regs.aStride = c.regs.aStride
    ∧ (((RegWrite.aStride n k v).apply c).regs.aStride.get m).get j
        = (if m = n ∧ j = k then v else (c.regs.aStride.get m).get j)
    ∧ ((RegWrite.aStride n k v).apply c).regs.aBase = c.regs.aBase
    ∧ (((RegWrite.aZero n).apply c).regs.aStride.get m).get j = (if m = n then 0 else (c.regs.aStride.get m).get j)
    ∧ ((RegWrite.aZero n).apply c).regs.aBase = c.regs.aBase)
  ∧ ∀ (b : Bool) (c : Ctx), let t := (RegWrite.rotate b).apply c
    t.sp.rotv = c.sp.rotv - 1 ∧ t.sp.rotp = c.sp.rotp - 1 ∧ t.pred 32 = Claim.lanesOf b
    ∧ (∀ i : Nat, i < 127 → t.physV (Fin.ofNat 640 (513 + i)) = c.physV (Fin.ofNat 640 (512 + i)))
    ∧ (∀ i : Nat, i < 31 → t.pred (Fin.ofNat 64 (33 + i)) = c.pred (Fin.ofNat 64 (32 + i)))

/-- 07 R156 R157: outside a nest BR and CALL go on at bundle address + 8 × off24 with one idle tick, BRI and RET at the value of A
with three, where a target that is not a multiple of 8 is a misalignment fault; CALL also writes the address of the bundle that follows to
s63. Nothing else changes. -/
def Obligations.BranchResults : Prop :=
  ∀ (g : Guard) (off : BitVec 24) (a : SReg) (s : State), s.on g = true → s.cur.loop.nest = none →
    let t := s.issue.addr + 8 * off.signExtend 64
    exec (.br g off) s = .next (Claim.goesTo s t 1)
    ∧ exec (.call g off) s = .next (Claim.plus (Claim.goesTo s t 1) [Claim.res s 1 [.sreg 63 s.issue.after] (some (.s s.issue.after))])
    ∧ ((s.rs a).toNat % 8 = 0 →
      exec (.bri g a) s = .next (Claim.goesTo (Claim.plus s (Claim.ebpOf s [a] [])) (s.rs a) 3)
      ∧ exec (.ret g a) s = .next (Claim.goesTo (Claim.plus s (Claim.ebpOf s [a] [])) (s.rs a) 3))
    ∧ ((s.rs a).toNat % 8 ≠ 0 → exec (.bri g a) s = Claim.faults s 7 (s.rs a) 3 ∧ exec (.ret g a) s = Claim.faults s 7 (s.rs a) 3)

/-- 07 R162: a LOOP, BR, BRI, CALL or RET that executes while a nest runs is an illegal instruction, and does nothing when it is predicated
off; LEXIT, ROTX, END, BAR, ETRIG and CHNK run in a nest, and TRAP does there what it does elsewhere. -/
def Obligations.NestFaults : Prop :=
  ∀ (g : Guard) (off : BitVec 24) (a : SReg) (o : LoopOp) (s : State), o.g = g → s.cur.loop.nest ≠ none →
    (s.on g = true → ∀ i ∈ ([.br g off, .call g off, .bri g a, .ret g a, .loop o] : List Instr), exec i s = Claim.faults s 1 0 0)
    ∧ (s.on g = false → ∀ i ∈ ([.br g off, .call g off, .bri g a, .ret g a, .loop o] : List Instr), exec i s = .next s)
    ∧ (s.on g = true → s.trap = none → s.cur.kind = .compute →
        ∀ (k : Fin 6) (p32 : Bool) (die : Bool) (n : Fin 16) (d : Fin 64),
          (∀ i ∈ ([.lexit g k, .rotx g p32, .endStrand g, .bar g die n, .etrig g] : List Instr), clean (exec i s))
          ∧ (s.cur.elastic = true → clean (exec (.chnk g d) s)))
    ∧ (s.on g = true → ∀ n : BitVec 16, exec (.trap g n) s = Claim.faults s 1 (BitVec.ofNat 64 (2 ^ 63 + n.toNat)) 0)


/-! ### Loops, grid instructions and refinement (07 R158 to R167, 12 R264 to R269, 14 R284 to R287) -/

namespace Sys2Proof.Claim
open Machine

/-- Only the context in focus changes. -/
def cur (s : State) (f : Ctx → Ctx) : State := { s with cur := f s.cur }

/-- The context freezes after this bundle until `h` is over (02 R28). -/
def waits (s : State) (h : Hold) : State := cur s fun c => { c with holds := c.holds ++ [h] }

/-- A bank request of the L slot of a compute core: static for a primary context, elastic for a secondary (06 R130 R132). -/
def asks (s : State) (a len : Nat) (write : Bool) : State :=
  if s.cur.kind = .compute then
    { s with lsReqs := s.lsReqs ++ [⟨s.focus, 1, s.cur.gid % 16, a, len, write, s.focus, s.issue.addr, s.issue.pos, s.cur.second⟩] }
  else s

/-- A grid changes. -/
def grid (s : State) (g : Nat) (x : Grid) : State := { s with grids := s.grids.set g x }

/-- The count operand of a LOOP: an immediate, or the register named (07 R158). -/
def loopCount (s : State) (c : LoopCount) : Nat :=
  match c with
  | .imm n => n.toNat
  | .sreg n => (s.rs (.s n)).toNat
  | .areg n => (s.rs (.a n)).toNat

/-- Level k of a nest has an iteration left: level 0 of a rotating nest runs its drain iterations too (07 R159 R160). -/
def left (armed : Vector (Option Nat) 6) (n : Nest) (k : Fin 6) : Prop :=
  if k = 0 then n.lc.get 0 + 1 < n.c0 + (if n.rot then n.drain else 0)
  else ∃ m, armed.get k = some m ∧ n.lc.get k + 1 < m

/-- A nest rotates: p32 is set and p33 to p63 are cleared a tick on (07 R159, 03 R65). -/
def rotClear (s : State) : Result :=
  res s 1 ((List.finRange 32).map fun i => .pred (pReg s.cur (Fin.ofNat 64 (32 + i.val))) (-1) (lanesOf (i == 0))) none

/-- The store that a remote LS access is. -/
def farStore (o : LsOp) : Bool :=
  match o with
  | .remoteStore _ _ _ => true
  | _ => false

/-- Nothing that a DRAIN waits for is outstanding: a store in the request queue, and in an elastic grid a remote LS store, before or after
it has asked for its banks (08 R182). -/
def nothingOut (s : State) : Prop :=
  (∀ u ∈ s.reqq, u.key ≠ s.focus)
  ∧ (∀ e ∈ s.elReqs, e.owner = some s.focus → ∀ p, e.job = .access p → farStore p.op = false)
  ∧ (s.cur.elastic = true → ∀ p ∈ s.cur.lsPend, farStore p.op = false)

/-- Every LS access that the context has issued has performed (07 R164). -/
def lsDone (s : State) : Prop := s.cur.lsPend = [] ∧ ∀ e ∈ s.elReqs, e.owner = some s.focus → ∀ p, e.job ≠ .access p

/-- The exit that the test after RESID finds, 3 for converged, 1 for stagnated, 2 for diverged, with the stagnation count (12 R267). -/
def rfExit (s : State) (r : Refine) : Option Nat × Nat :=
  let val (w : Word64) : Fl := FFmt.f64.unpack w.toNat
  let word (i : Nat) : Word64 := r.blk.getD i 0
  let n := s.cur.sp.rnorm
  let bound : Word64 := BitVec.ofNat 64 (FFmt.f64.mul ⟨.rne, 0⟩ (val (word 6)) (val s.cur.sp.rbnorm)).1
  let ratio : Word64 := BitVec.ofNat 64 (FFmt.f64.div ⟨.rne, 0⟩ (val n) (val r.prev)).1
  let above (x y : Word64) : Bool := (fcmpHolds .gt (val x) (val y)).1
  let stag := if r.k = 0 then r.stag else if above ratio (word 7) then r.stag + 1 else 0
  if r.normed = false ∨ n.toNat / 2 ^ 52 % 2 ^ 11 = 2047 then (some 2, r.stag)
  else if (fcmpHolds .le (val n) (val bound)).1 then (some 3, r.stag)
  else if r.k ≠ 0 ∧ above ratio (word 8) then (some 2, stag)
  else if stag = 2 ∨ r.k + 1 = (word 5).toNat / 2 ^ (16 * s.cur.sp.rlevel.toNat) % 2 ^ 16 then (some 1, stag)
  else (none, stag)

/-- A result that writes a rotating base. -/
def rotates (r : Result) : Prop := ∃ w ∈ r.writes, (∃ b, w = .rotate b) ∨ (∃ v, w = .special 0x014 v) ∨ (∃ v, w = .special 0x015 v)

end Sys2Proof.Claim

/-- 07 R158 R159: LOOP outside a nest. A count over 65,535 is an illegal instruction. An outer level is armed with its count. A
level-0 LOOP starts the nest on the body that follows, or skips it where a count is 0, with every level disarmed; a rotating nest
sets p32 and clears p33 to p63 a tick on. Nothing else changes. -/
def Sys2Proof.Claim.loopResults : Prop :=
  ∀ (o : LoopOp) (s : State), s.on o.g = true → s.cur.loop.nest = none →
    let n := Claim.loopCount s o.count
    let body := s.capture s.issue.after (o.body.val + 1)
    let armed := s.cur.loop.armed
    (n > 65535 → exec (.loop o) s = Claim.faults s 1 0 0)
    ∧ (n ≤ 65535 → o.level ≠ 0 → exec (.loop o) s
        = .next (Claim.cur s fun c => { c with loop := ⟨armed.set o.level (some n), none, c.loop.lexit⟩ }))
    ∧ (n ≤ 65535 → o.level = 0 → (n = 0 ∨ some 0 ∈ armed.toList) → exec (.loop o) s
        = .next (Claim.cur s fun c => { c with next := body.2.1, idle := 0, loop := ⟨Vector.replicate 6 none, none, none⟩ }))
    ∧ (n ≤ 65535 → o.level = 0 → ¬ (n = 0 ∨ some 0 ∈ armed.toList) → exec (.loop o) s
        = .next (Claim.plus (Claim.cur s fun c => { c with
            loop := ⟨armed, some ⟨n, o.rot, o.drain.val, Vector.replicate 6 0, body.1, 0, body.2.1⟩, none⟩ })
            (if o.rot then [Claim.rotClear s] else [])))

/-- 07 R159 R160 R161: the back-edge after the last bundle of the body. The lowest level with an iteration left advances, those below
it restart, and the body starts again; a rotating nest takes one rotation step, p32 being all-true while `$lc0` is below the count.
With no iteration left the nest ends, every level is disarmed, and the bundle after the body follows. -/
def Sys2Proof.Claim.backEdge : Prop :=
  ∀ (s : State) (n : Nest), s.cur.loop.nest = some n → n.body.length ≤ n.idx →
    ((∀ k, ¬ Claim.left s.cur.loop.armed n k) → exec .loopBackEdge s
      = .next (Claim.cur s fun c => { c with pc := n.after, next := n.after, loop := ⟨Vector.replicate 6 none, none, none⟩ }))
    ∧ ∀ (k : Fin 6) (b : Bundle) (bs : List Bundle), n.body = b :: bs → Claim.left s.cur.loop.armed n k →
        (∀ j, j < k → ¬ Claim.left s.cur.loop.armed n j) →
        ∃ (lc : Vector Nat 6) (t : State), exec .loopBackEdge s = .next t
          ∧ (∀ j : Fin 6, lc.get j = if j < k then 0 else if j = k then n.lc.get j + 1 else n.lc.get j)
          ∧ t.cur.loop = ⟨s.cur.loop.armed, some { n with lc := lc, idx := 0 }, none⟩ ∧ t.cur.pc = b.addr ∧ t.cur.next = b.addr
          ∧ (n.rot = false → t = Claim.cur s fun c => { c with pc := b.addr, next := b.addr, loop := t.cur.loop })
          ∧ (n.rot = true → (∀ r ∈ s.cur.flight, ¬ Claim.rotates r) →
              t = Claim.cur s fun c => (RegWrite.rotate (decide (lc.get 0 < n.c0))).apply
                { c with pc := b.addr, next := b.addr, loop := t.cur.loop })
          ∧ (n.rot = true → ∀ (l m : List Result) (r : Result) (w : RegWrite), s.cur.flight = l ++ r :: m → r.writes = [w] → Claim.rotates r →
              r.bp = none → r.events = 0 → (∀ x ∈ l ++ m, ¬ Claim.rotates x) →
              t = Claim.cur s fun c => (RegWrite.rotate (decide (lc.get 0 < n.c0))).apply (w.apply
                { c with pc := b.addr, next := b.addr, loop := t.cur.loop, flight := l ++ m }))

/-- 07 R157 R159 R160: where issue goes on after a bundle. A bundle that does not end its nest is followed by the next one of the body. LEXIT.k
gives up levels 0 to k: the lowest level above k with an iteration left advances, every level below it restarts, the body starts again, and a rotating
nest takes a rotation step with p32 all ones; with no such level the nest ends, every level is disarmed, and the bundle after the body follows. Outside a
nest the pc goes where the bundle sent it; the bundle of a LOOP that starts a nest is followed by the first of the body. -/
def Sys2Proof.Claim.afterBundle : Prop :=
  ∀ (c : Ctx) (pre : LoopState),
    (c.loop.nest = none → c.advance pre = { c with pc := c.next })
    ∧ (∀ (n : Nest) (b : Bundle) (bs : List Bundle), pre.nest = none → c.loop.nest = some n → n.body = b :: bs →
      c.advance pre = { c with pc := b.addr, next := b.addr })
    ∧ (∀ (n : Nest) (b : Bundle), pre.nest ≠ none → c.loop.nest = some n → c.loop.lexit = none → n.body[n.idx + 1]? = some b →
      c.advance pre = { c with pc := b.addr, next := b.addr, loop := ⟨c.loop.armed, some { n with idx := n.idx + 1 }, none⟩ })
    ∧ ∀ (n : Nest) (k : Fin 6), pre.nest ≠ none → c.loop.nest = some n → c.loop.lexit = some k → 0 < n.c0 →
      let up (j : Fin 6) := k < j ∧ Claim.left c.loop.armed n j
      ((∀ j, ¬ up j) →
        c.advance pre = { c with pc := n.after, next := n.after, loop := ⟨Vector.replicate 6 none, none, none⟩ })
      ∧ ∀ (j : Fin 6) (b : Bundle) (bs : List Bundle), n.body = b :: bs → up j → (∀ i, i < j → ¬ up i) →
        ∃ lc : Vector Nat 6, (∀ i : Fin 6, lc.get i = if i < j then 0 else if i = j then n.lc.get i + 1 else n.lc.get i)
          ∧ let d : Ctx := { c with pc := b.addr, next := b.addr, loop := ⟨c.loop.armed, some { n with lc := lc, idx := 0 }, none⟩ }
            (n.rot = false → c.advance pre = d)
            ∧ (n.rot = true → (∀ r ∈ c.flight, ¬ Claim.rotates r) → c.advance pre = (RegWrite.rotate true).apply d)

/-- 07 R148 R160, 04 R79: NOP and an H syllable change nothing; LEXIT in a nest names the level whose iterations
its bundle gives up, and changes nothing else. -/
def Sys2Proof.Claim.nopAndLexit : Prop :=
  ∀ (s : State),
    (∀ (g : Guard) (k : Fin 6), s.on g = true →
      exec (.lexit g k) s = .next (if s.cur.loop.nest = none then s
        else Claim.cur s fun c => { c with loop := { c.loop with lexit := some k } }))
    ∧ (∀ g : Guard, exec (.nop g) s = .next s) ∧ ∀ w : BitVec 60, exec (.hSyllable w) s = .next s

/-- 07 R163 R164 R165, 02 R36 R37 R43: END retires the strand, which counts towards the early trigger once, its stores still owed; BAR and
ETRIG wait for what a DRAIN waits for, and BAR then for the LS accesses of its context; then BAR arrives at its barrier and waits there, and ETRIG
counts its strand while the launch may still fire early. On a kiosk core END halts, BAR.k waits for the kiosk cores of its image, ETRIG is DRAIN.y,
and BAR.d is illegal, whatever its predicate (15 R298). TRAP n is illegal instruction with n in its detail word. -/
def Sys2Proof.Claim.gridResults : Prop :=
  ∀ (g : Guard) (s : State),
    (∀ (gid : Nat) (x : Grid), s.on g = true → s.cur.kind = .compute → s.cur.grid = some gid → s.grids.get? gid = some x →
      let counted (owed : List (Nat × Nat × Nat)) := if s.cur.triggered then s else
        Claim.cur (Claim.grid s gid { x with triggered := x.triggered + 1, owed := x.owed ++ owed }) fun c => { c with triggered := true }
      exec (.endStrand g) s
        = .next (Claim.cur (counted [(s.focus, s.reqs, s.cur.strand)]) fun c => { c with
            run := .ended, rf := none, loop := ⟨Vector.replicate 6 none, none, none⟩ })
      ∧ (∀ (die : Bool) (n : Fin 16),
        (Claim.nothingOut s → Claim.lsDone s → exec (.bar g die n) s = .next (Claim.waits (Claim.grid s gid { x with
          arrived := x.arrived ++ [(die, (if die then s.cur.gid / 256 % 4 else s.cur.gid / 16), n.val, s.focus)] }) (.bar die n)))
        ∧ (Claim.nothingOut s → ¬ Claim.lsDone s → exec (.bar g die n) s = .next (Claim.waits s (.lsWait die n)))
        ∧ (¬ Claim.nothingOut s → exec (.bar g die n) s = .next (Claim.waits s (.drain (if die then .d else .k) (.bar die n)))))
      ∧ (Claim.nothingOut s → exec (.etrig g) s = .next (if x.early = true ∧ x.trig = false then counted [] else s))
      ∧ (¬ Claim.nothingOut s → exec (.etrig g) s = .next (Claim.waits s (.drain .y .etrig))))
    ∧ (s.on g = true → s.cur.kind ≠ .compute → s.cur.grid = none →
      exec (.endStrand g) s = .next (Claim.cur s fun c => { c with run := .ended, rf := none, loop := ⟨Vector.replicate 6 none, none, none⟩ })
      ∧ (∀ n : Fin 16,
        (Claim.nothingOut s → Claim.lsDone s → exec (.bar g false n) s = .next (Claim.waits s (.bar false n)))
        ∧ (Claim.nothingOut s → ¬ Claim.lsDone s → exec (.bar g false n) s = .next (Claim.waits s (.lsWait false n)))
        ∧ (¬ Claim.nothingOut s → exec (.bar g false n) s = .next (Claim.waits s (.drain .k (.bar false n)))))
      ∧ (Claim.nothingOut s → exec (.etrig g) s = .next s)
      ∧ (¬ Claim.nothingOut s → exec (.etrig g) s = .next (Claim.waits s (.drain .y .none))))
    ∧ (∀ n : Fin 16, s.cur.kind ≠ .compute → exec (.bar g true n) s = Claim.faults s 1 0 0)
    ∧ (s.on g = true → ∀ n : BitVec 16, exec (.trap g n) s = Claim.faults s 1 (BitVec.ofNat 64 (2 ^ 63 + n.toNat)) 0)

/-- 02 R25, 07 R167, 15 R298: CHNK in an elastic grid asks for a chunk under its own request and waits; elsewhere it is an illegal
instruction. -/
def Sys2Proof.Claim.chnkResults : Prop :=
  ∀ (g : Guard) (d : Fin 64) (s : State), s.on g = true →
    (s.cur.kind = .compute → s.cur.elastic = true →
      exec (.chnk g d) s = .next { Claim.waits s .chnk with
        cur := { (Claim.waits s .chnk).cur with outst := s.cur.outst ++ [⟨.chnk d, s.issue.addr, s.issue.pos, s.reqs, none⟩] }
        reqs := s.reqs + 1 })
    ∧ (s.cur.kind ≠ .compute ∨ s.cur.elastic = false → exec (.chnk g d) s = Claim.faults s 1 0 0)

/-- 14 R285 R287: TKALN in a timetabled grid. The domain arrives at the point with its window, the smallest of those that arrive, 0
standing for 65,536; D and the grid's AOVR say whether more schedule ticks than the window of the last point have passed since it was
released; and the context waits. In an elastic grid and on a kiosk core it is an illegal instruction. -/
def Sys2Proof.Claim.tkalnResults : Prop :=
  ∀ (g : Guard) (d : SReg) (w : BitVec 16) (s : State) (gid : Nat) (x : Grid), s.on g = true → s.cur.grid = some gid →
    s.grids.get? gid = some x →
    (s.cur.kind = .compute → s.cur.elastic = false →
      let cl := s.cur.gid / 16
      let win := if w = 0 then 65536 else w.toNat
      let last := (x.window.get? cl).getD (65536, 0)
      let late := decide (s.cur.sp.scnt.toNat - last.2 > last.1)
      exec (.tkaln g d w) s = .next (Claim.waits (Claim.plus (Claim.grid s gid { x with
          point := x.point.set cl (match x.point.get? cl with | some y => min y win | none => win)
          aovr := x.aovr || late })
        [Claim.res s 1 (Claim.sDest d (if late then 1 else 0)) (some (.s (if late then 1 else 0)))]) (.tkaln d)))
    ∧ (s.cur.kind ≠ .compute ∨ s.cur.elastic = true → exec (.tkaln g d w) s = Claim.faults s 1 0 0)

/-- 12 R264 R265 R266 R269: RFRUN whose block lies in the footprint at a multiple of 128, with every field legal, captures the block, clears
`$rexit` and `$rlevel`, calls REFAC after three idle ticks, and reads the norm of b a tick later; the run returns to the bundle after RFRUN.
Nothing else changes. RFRUN in a run or in a nest is an illegal instruction; so is a level count or a pass limit out of range, with the block's
offset in its detail word, and a routine address off 8 bytes is a misalignment fault. -/
def Sys2Proof.Claim.rfrunResults : Prop :=
  ∀ (g : Guard) (a : SReg) (s : State), s.on g = true →
    (s.cur.rf ≠ none ∨ s.cur.loop.nest ≠ none → exec (.rfrun g a) s = Claim.faults s 1 0 0)
    ∧ (s.cur.rf = none → s.cur.loop.nest = none → (s.rs a).toNat % 128 = 0 → (s.rs a).toNat + 128 ≤ s.cur.foot →
      let x := (s.rs a).toNat
      let b := wordsOfBytes 16 (s.cur.lsView.readN x 128)
      let lev := (b.getD 4 0).toNat % 8
      let legal := 1 ≤ lev ∧ lev ≤ 4 ∧ ∀ k, k < lev → ((b.getD 5 0).toNat / 2 ^ (16 * k)) % 2 ^ 16 ≠ 0
      (¬ legal → exec (.rfrun g a) s = Claim.faults s 1 (BitVec.ofNat 64 (2 ^ 62 + x % 2 ^ 20)) 0)
      ∧ (legal → ∀ k, k < 4 → (∀ j, j < k → (b.getD j 0).toNat % 8 = 0) → (b.getD k 0).toNat % 8 ≠ 0 →
        exec (.rfrun g a) s = Claim.faults s 7 (BitVec.ofNat 64 ((b.getD k 0).toNat % 2 ^ 48)) 3)
      ∧ (legal → (∀ k, k < 4 → (b.getD k 0).toNat % 8 = 0) →
        exec (.rfrun g a) s = .next (Claim.cur (Claim.plus (Claim.asks s x 128 false) (Claim.ebpOf s [a] [])) fun c => { c with
          rf := some ⟨b, .refac, 0, 0, 0, false, s.issue.after⟩
          next := BitVec.ofNat 64 ((b.getD 2 0).toNat % 2 ^ 48)
          idle := 3
          sp := { c.sp with rexit := 0, rlevel := 0 }
          lsPend := c.lsPend ++ [⟨1, .rfNorm, s.issue.addr, s.issue.pos, s.cur.sp.scnt.toNat⟩] })))

/-- 12 R264 R266 R267 R268 R269: RFRET ends the routine that runs. REFAC is followed by SOLVE and SOLVE by RESID after three idle ticks, and
the handler by the bundle after RFRUN, with the run over. After RESID the test of the residual, its bound and the pass count decides, with 27
idle ticks: without an exit SOLVE follows; a converged run ends with `$rexit` 0; a stagnated or diverged one goes a level up to REFAC where the block
says so and a level is left, and else leaves its `$rexit`, calls the handler where there is one, and without one ends, or ends its grid where TRAP is
set. Nothing else changes. RFRET with no run, or in a nest, is an illegal instruction. -/
def Sys2Proof.Claim.rfretResults : Prop :=
  ∀ (g : Guard) (s : State), s.on g = true →
    (s.cur.rf = none ∨ s.cur.loop.nest ≠ none → exec (.rfret g) s = Claim.faults s 1 0 0)
    ∧ ∀ r : Refine, s.cur.rf = some r → s.cur.loop.nest = none →
      let goes (ph : RfPhase) (w : Nat) := Claim.cur s fun c => { c with
        rf := some { r with phase := ph, normed := false }, next := BitVec.ofNat 64 ((r.blk.getD w 0).toNat % 2 ^ 48), idle := 3 }
      let word (i : Nat) : Word64 := r.blk.getD i 0
      let addr (i : Nat) : Word64 := BitVec.ofNat 64 ((word i).toNat % 2 ^ 48)
      let lev := s.cur.sp.rlevel.toNat
      let x := Claim.rfExit s r
      let judged (rf : Option Refine) (next : Word64) (e l : Nat) := Claim.cur s fun c => { c with
        rf := rf, next := next, idle := 27, sp := { c.sp with rexit := BitVec.ofNat 2 e, rlevel := BitVec.ofNat 2 l } }
      let call (ph : RfPhase) (k stag : Nat) : Option Refine := some ⟨r.blk, ph, k, s.cur.sp.rnorm, stag, false, r.ret⟩
      (r.phase = .refac → exec (.rfret g) s = .next (goes .solve 0))
      ∧ (r.phase = .solve → exec (.rfret g) s = .next (goes .resid 1))
      ∧ (r.phase = .handler → exec (.rfret g) s
          = .next (Claim.cur s fun c => { c with rf := none, next := r.ret, idle := 3 }))
      ∧ (r.phase = .resid →
          (x.1 = none → exec (.rfret g) s = .next (judged (call .solve (r.k + 1) x.2) (addr 0) s.cur.sp.rexit.toNat lev))
          ∧ (x.1 = some 3 → exec (.rfret g) s = .next (judged none r.ret 0 lev))
          ∧ ∀ e, x.1 = some e → e ≠ 3 →
            let up := (word 4).getLsbD (15 + e) = true
            let out := if (word 4).getLsbD (15 + e) then 3 else e
            (up → lev + 1 < (word 4).toNat % 8 → exec (.rfret g) s = .next (judged (call .refac 0 0) (addr 2) e (lev + 1)))
            ∧ (¬ (up ∧ lev + 1 < (word 4).toNat % 8) →
              ((word 3).toNat % 2 ^ 48 ≠ 0 →
                exec (.rfret g) s = .next (judged (call .handler (r.k + 1) x.2) (addr 3) out lev))
              ∧ ((word 3).toNat % 2 ^ 48 = 0 → (word 4).getLsbD 18 = false → exec (.rfret g) s = .next (judged none r.ret out lev))
              ∧ ((word 3).toNat % 2 ^ 48 = 0 → (word 4).getLsbD 18 = true →
                exec (.rfret g) s = Claim.faults (Claim.cur s fun c => { c with
                    sp := { c.sp with rexit := BitVec.ofNat 2 out, rlevel := BitVec.ofNat 2 lev } }) 11
                  (BitVec.ofNat 64 (out + 4 * lev + 2 ^ 16 * ((r.k + 1) % 2 ^ 16))) s.cur.sp.rnorm)))


/-! ### Local memory (06 R128 R129 R135 R390, 08) -/

namespace Sys2Proof.Claim
open Machine

/-- Whether an operand names the local store. -/
def isLocal (a : Addr) : Bool :=
  match a with
  | .ltt .. | .handle .. => false
  | _ => true

/-- Bytes of a narrow element (08 R174). -/
def narrowW (f : NarrowFmt) : Nat :=
  match f with
  | .bf16 => 2
  | .i16 => 2
  | .ui16 => 2
  | .i8 => 1
  | .ui8 => 1

/-- Accesses to the local store in the instruction's own LS tick: guard, address operand, bytes, alignment, and the kind that a
misalignment record holds: 0 load, 1 store, 2 atomic (08 R171 R172 R174 R179 R180 R183, 25 R364). -/
def lsRow (i : Instr) : Option (Guard × Addr × Nat × Nat × Nat) :=
  match i with
  | .lds o => some (o.g, o.addr, o.sz.bytes, o.sz.bytes, 0)
  | .sts o => some (o.g, o.addr, o.sz.bytes, o.sz.bytes, 1)
  | .ldv o => some (o.g, o.addr, 256, 64, 0)
  | .stv o => some (o.g, o.addr, 256, 64, 1)
  | .ldt o => some (o.g, o.addr, 4096, 64, 0)
  | .stt o => some (o.g, o.addr, 4096, 64, 1)
  | .ldvx f o => some (o.g, o.addr, 64 * narrowW f, 64, 0)
  | .stvx f _ o => some (o.g, o.addr, 64 * narrowW f, 64, 1)
  | .scl g _ a => some (g, a, 64, 64, 0)
  | .scs g _ a => some (g, a, 64, 64, 1)
  | .waita g _ _ a => some (g, a, 8, 8, 0)
  | .amo g _ _ _ a _ => if isLocal a then some (g, a, 8, 8, 2) else none
  | .cas g _ _ a _ => if isLocal a then some (g, a, 8, 8, 2) else none
  | _ => none

/-- The access is aligned and lies in the footprint (06 R129 R390). -/
abbrev fits (s : State) (a : Addr) (len al : Nat) : Prop :=
  (s.lsAddr a).toNat % al = 0 ∧ (s.lsAddr a).toNat + len ≤ s.cur.foot

/-- Element `i` of width `w` of a byte string, little-endian (00 R1). -/
def elem (bs : List Byte) (w i : Nat) : Nat := leNat ((bs.drop (w * i)).take w)

/-- 64 elements of four bytes. -/
def rowOf (bs : List Byte) : Vec := Vec.ofLanes fun i => BitVec.ofNat 32 (elem bs 4 i.val)

/-- What is written to a vector destination (03 R60 R65). -/
def vDest (s : State) (d : VReg) (v : Vec) : List RegWrite :=
  match d with
  | .v n => [.vec (vReg s.cur n) (-1) v]
  | _ => []

/-- The loaded value of a scalar access (08 R171). -/
def extended (z : Size) (n : Nat) : Word64 :=
  match z with
  | .b => BitVec.ofNat 64 n
  | .h => BitVec.ofNat 64 n
  | .w => BitVec.ofNat 64 n
  | .d => BitVec.ofNat 64 n
  | .sb => BitVec.ofInt 64 (if n ≥ 2 ^ 7 then (n : Int) - 2 ^ 8 else n)
  | .sh => BitVec.ofInt 64 (if n ≥ 2 ^ 15 then (n : Int) - 2 ^ 16 else n)
  | .sw => BitVec.ofInt 64 (if n ≥ 2 ^ 31 then (n : Int) - 2 ^ 32 else n)

/-- An element widened to its lane (08 R174). -/
def widened (f : NarrowFmt) (n : Nat) : Word32 :=
  match f with
  | .bf16 => BitVec.ofNat 32 (n * 2 ^ 16)
  | .i16 => BitVec.ofInt 32 (if n ≥ 2 ^ 15 then (n : Int) - 2 ^ 16 else n)
  | .ui16 => BitVec.ofNat 32 n
  | .i8 => BitVec.ofInt 32 (if n ≥ 2 ^ 7 then (n : Int) - 2 ^ 8 else n)
  | .ui8 => BitVec.ofNat 32 n

/-- The result of a load of these bytes: LDS, LDV and SCL take 6 ticks, which profile A counts through the compatibility freeze, and
3 on a kiosk core; LDVX takes 8 (08 R172 R174 R179, 03 R68, 15 R296). -/
def loaded (s : State) (i : Instr) (bs : List Byte) : Option Result :=
  let six (ws : List RegWrite) (bp : Option BpVal) : Option Result :=
    some { res s (if s.cur.kind = .compute then 6 else 3) ws bp with compat := s.cur.profA }
  match i with
  | .lds o => let v := extended o.sz (leNat bs); six (sDest o.d v) (some (.l v))
  | .ldv o => six (vDest s o.d (rowOf bs)) (some (.lv (rowOf bs)))
  | .ldvx f o =>
      let v := Vec.ofLanes fun k => widened f (elem bs (narrowW f) k.val)
      some (res s 8 (vDest s o.d v) (some (.lv v)))
  | .scl _ e _ => six [.scale e (-1) (Vector.ofFn fun k => BitVec.ofNat 8 (elem bs 1 k.val))] none
  | _ => none

/-- TLKP's answer (06 R134): the offset of the lowest way that holds the key, or bit 63 with the valid ways and the set. -/
def found (c : Ctx) (key : Word64) (v : Word64) : Prop :=
  let set := key.toNat / 2 ^ 10 % 2 ^ 6
  let hit (w : Nat) : Prop := c.tags.get? (8 * set + w) = some (BitVec.ofNat 48 (key.toNat / 2 ^ 16))
  (∀ w, w < 8 → hit w → (∀ x, x < w → ¬ hit x) → v = BitVec.ofNat 64 (1024 * (8 * set + w)))
  ∧ ((∀ w, w < 8 → ¬ hit w) → v.getLsbD 63 = true ∧ v.toNat % 2 ^ 6 = set ∧ v.toNat / 2 ^ 6 % 2 ^ 2 = 0
      ∧ (∀ w, w < 8 → (v.getLsbD (8 + w) = true ↔ c.tags.get? (8 * set + w) ≠ none)) ∧ v.toNat / 2 ^ 16 = 2 ^ 47)

/-- The mode of a rounding other than the S class's: DYN is `$rmode`, whose code 4 is RSTO (03 R53, 04 R74). -/
def vMode (s : State) (rm : Rm) : Rm :=
  match rm with
  | .dyn =>
    let n := s.cur.sp.rmode.toNat
    if n = 1 then .rtz else if n = 2 then .rup else if n = 3 then .rdn else if n = 4 then .rsto else .rne
  | r => r

/-- The rounding of the element at a position: under RSTO it takes the low 16 bits of its random word (05 R106 R107). -/
def rounds (s : State) (m : Rm) (k : Nat) : Rnd := ⟨m, if m = .rsto then (s.cur.sp.philox k).c0 % 2 ^ 16 else 0⟩

/-- A syllable that resolves to RSTO advances the draw number (05 R107). -/
def draws (s : State) (m : Rm) : State :=
  if m = .rsto then cur s fun c => { c with sp := { c.sp with draw := c.sp.draw + 1 } } else s

/-- An integer outside lo to hi becomes the nearer bound (05 R98). -/
def clamp (lo hi x : Int) : Int := max lo (min hi x)

/-- The bytes that a store of its own tick writes, with the registers it reads, the mode and the events (08 R171 R172 R174 R179). -/
def stored (s : State) (i : Instr) : Option (List SReg × List VReg × List Byte × Rm × Ev) :=
  let sat (v : VReg) (lo hi : Int) (w : Nat) : Option (List SReg × List VReg × List Byte × Rm × Ev) :=
    let x (k : Fin 64) : Int := ((s.rv v).get k).toInt
    some ([], [v], (List.finRange 64).flatMap fun k => bytesOfNat w ((clamp lo hi (x k)) % 2 ^ (8 * w)).toNat, .rne,
      if ∃ k, x k < lo ∨ x k > hi then BitVec.twoPow 9 5 else 0)
  match i with
  | .sts o => some ([o.d], [], bytesOfNat o.sz.bytes (s.rs o.d).toNat, .rne, 0)
  | .stv o => some ([], [o.d], (List.finRange 64).flatMap fun k => bytesOfNat 4 ((s.rv o.d).get k).toNat, .rne, 0)
  | .scs _ e _ => some ([], [], (s.cur.regs.e.get e).toList, .rne, 0)
  | .stvx .i16 _ o => sat o.d (-2 ^ 15) (2 ^ 15 - 1) 2
  | .stvx .ui16 _ o => sat o.d 0 (2 ^ 16 - 1) 2
  | .stvx .i8 _ o => sat o.d (-2 ^ 7) (2 ^ 7 - 1) 1
  | .stvx .ui8 _ o => sat o.d 0 (2 ^ 8 - 1) 1
  | .stvx .bf16 rm o =>
    let m := vMode s rm
    let r (k : Fin 64) : Nat × Ev := FFmt.bf16.ofFl (rounds s m k.val) (FFmt.f32.unpack ((s.rv o.d).get k).toNat)
    some ([], [o.d], (List.finRange 64).flatMap fun k => bytesOfNat 2 (r k).1, m, Ev.union ((List.finRange 64).map fun k => (r k).2))
  | _ => none

/-- The events that a syllable raises in its issue tick. -/
def evOf (s : State) (e : Ev) : List Result := if e = 0 then [] else [res s 0 [] none e]

/-- Memory after a store of these bytes at `a`: they read back, and every other address reads as before. -/
def storesAt (m n : Memory) (a : Nat) (bs : List Byte) : Prop :=
  ∀ b : Nat, n.read b = if a ≤ b ∧ b < a + bs.length then bs.getD (b - a) 0 else m.read b

end Sys2Proof.Claim

/-- 06 R129 R390, 08 R171 R172: every LS access of the L slot is checked first for its alignment and then against the footprint: the one
is a misalignment fault with the address and the access kind, the other a protection fault, reason 2. -/
def Obligations.LocalFaults : Prop :=
  ∀ (i : Instr) (s : State) (g : Guard) (a : Addr) (len al acc : Nat), Claim.lsRow i = some (g, a, len, al, acc) → s.on g = true →
    ((s.lsAddr a).toNat % al ≠ 0 → exec i s = Claim.faults s 7 (s.lsAddr a) (BitVec.ofNat 64 acc))
    ∧ ((s.lsAddr a).toNat % al = 0 → (s.lsAddr a).toNat + len > s.cur.foot → exec i s = Claim.faults s 5 (s.lsAddr a) 2)

/-- 08 R171 R172 R174 R179: LDS, LDV, LDVX and SCL in the footprint leave the loaded value in flight and change no register, flag,
special or byte of memory; the context asks for the banks. The value is what the LS holds with the context's own stores of later LS
ticks in it. -/
def Sys2Proof.Claim.localLoads : Prop :=
  ∀ (i : Instr) (s : State) (g : Guard) (a : Addr) (len al acc : Nat) (r : Result), Claim.lsRow i = some (g, a, len, al, acc) →
    s.on g = true → Claim.fits s a len al → Claim.loaded s i (s.cur.lsView.readN (s.lsAddr a).toNat len) = some r →
    exec i s = .next (Claim.plus (Claim.asks s (s.lsAddr a).toNat len false) [r])

/-- 08 R178 R184 R187, 06 R134: LTTQ, TPOLL and TLKP deliver their value on the L unit and change nothing else. -/
def Sys2Proof.Claim.tableReads : Prop :=
  ∀ (g : Guard) (d k : SReg) (s : State), s.on g = true →
    (∀ (e : Fin 64) (w : Bool), let v := if w then (s.cur.ltt.get e).2 else (s.cur.ltt.get e).1
      exec (.lttq g d e w) s = .next (Claim.plus s [Claim.res s 2 (Claim.sDest d v) (some (.l v))]))
    ∧ (∀ t : Fin 63, let v : Word64 := match s.cur.regs.tok.get t with | .idle => 0 | .pending => 1 | .done => 2
      exec (.tpoll g d t) s = .next (Claim.plus s [Claim.res s 2 (Claim.sDest d v) (some (.l v))]))
    ∧ ∃ v, Claim.found s.cur (s.rs k) v
        ∧ exec (.tlkp g d k) s = .next (Claim.plus s (Claim.ebpOf s [k] [] ++ [Claim.res s 4 (Claim.sDest d v) (some (.l v))]))

/-- 08 R171 R172 R174 R179, 05 R98 R106 R107: STS, STV, STVX and SCS store their bytes at their address: integers saturate, BF16
elements round, and a stochastic store advances the draw number. Every other byte of the LS, and every register, flag and special, is
unchanged. -/
def Sys2Proof.Claim.localStores : Prop :=
  ∀ (i : Instr) (s : State) (g : Guard) (a : Addr) (len al acc : Nat) (rs : List SReg) (vs : List VReg) (bs : List Byte) (m : Rm)
    (e : Ev), Claim.lsRow i = some (g, a, len, al, acc) → s.on g = true → Claim.fits s a len al → s.cur.ls.wf = true →
    Claim.stored s i = some (rs, vs, bs, m, e) →
    ∃ n : Memory, Claim.storesAt s.cur.ls n (s.lsAddr a).toNat bs ∧ n.wf = true
      ∧ exec i s = .next (Claim.plus (Claim.draws (Claim.cur (Claim.asks s (s.lsAddr a).toNat len true) fun c => { c with ls := n }) m)
          (Claim.ebpOf s rs vs ++ Claim.evOf s e))


/-! ### Tiles, remote stores, atomics and global memory (06 R135 R136 R137 R138, 08) -/

namespace Sys2Proof.Claim
open Machine

/-- An LS access of a later tick. -/
def later (s : State) (l : List (Nat × LsOp)) : State :=
  cur s fun c => { c with lsPend := c.lsPend ++ l.map fun x => ⟨x.1, x.2, s.issue.addr, s.issue.pos, s.cur.sp.scnt.toNat⟩ }

/-- Row `k` of a tile's registers. -/
def tileReg (n : Fin 640) (k : Nat) : Fin 640 := Fin.ofNat 640 (n.val + k)

/-- The bank request of an access in a later LS tick: it names the bundle that scheduled it (06 R132, 08 R169). -/
def asksFor (s : State) (p : LsPend) (a len : Nat) (write : Bool) : State :=
  if s.cur.kind = .compute then
    { s with lsReqs := s.lsReqs ++ [⟨s.focus, 1, s.cur.gid % 16, a, len, write, s.focus, p.addr, p.pos, s.cur.second⟩] }
  else s

/-- A pending elastic request for an access of a bundle, made in this tick of the die (06 R130 R131). -/
def pending (s : State) (p : LsPend) (kind : ElKind) (key a len : Nat) : State :=
  { s with elReqs := s.elReqs ++ [⟨kind, (s.dies.get (Fin.ofNat 4 ((if key < 2048 then key / 2 else key) / 256))).tick.toNat, s.cur.master, key,
    some s.focus, a, len, .access p⟩] }

/-- The LS bytes that an access of a secondary context in its own LS asks for (08 R169, 12 R262 R266). -/
def ownAccess (s : State) (o : LsOp) : Option (Nat × Nat) :=
  match o with
  | .loadRows a _ _ _ => some (a, 1024)
  | .storeRows a _ => some (a, 1024)
  | .witTail _ a _ => some (a, 64)
  | .witSaveTail a bs => some (a, bs.length)
  | .rfNorm => s.cur.rf.map fun r => ((r.blk.getD 9 0).toNat % 2 ^ 20, 8)
  | _ => none

/-- The remote LS bytes that an access of an elastic grid asks for (06 R135, 08 R175, 10 R218). -/
def farAccess (o : LsOp) : Option (Fin 16 × Nat × Nat) :=
  match o with
  | .remoteLoad core a _ => some (core, a.toNat, 256)
  | .remoteStore core a _ => some (core, a.toNat, 256)
  | .stream _ core a n => some (core, a.toNat, n)
  | _ => none

/-- What a store has still to write in a later LS tick (08 R172, 12 R262). -/
def tail (o : LsOp) : Option (Nat × List Byte) :=
  match o with
  | .storeRows a rows => some (a, rows.flatMap fun v => (List.finRange 64).flatMap fun k => bytesOfNat 4 (v.get k).toNat)
  | .witSaveTail a bs => some (a, bs)
  | _ => none

/-- Four rows of LS bytes from `a` on. -/
def fourRows (m : Memory) (a : Nat) : List Vec := [0, 256, 512, 768].map fun k => rowOf (m.readN (a + k) 256)

/-- The bytes of rows. -/
def rowBytes (l : List Vec) : List Byte := l.flatMap fun v => (List.finRange 64).flatMap fun k => bytesOfNat 4 (v.get k).toNat

/-- The new word of an atomic (08 R180). -/
def amoNew (op : AmoOp) (w : Nat) (old v : BitVec w) : BitVec w :=
  match op with
  | .add => BitVec.ofNat w (old.toNat + v.toNat)
  | .and => old &&& v
  | .or => old ||| v
  | .xor => old ^^^ v
  | .min => if old.toInt ≤ v.toInt then old else v
  | .max => if old.toInt ≤ v.toInt then v else old
  | .minu => if old.toNat ≤ v.toNat then old else v
  | .maxu => if old.toNat ≤ v.toNat then v else old
  | .swap => v

/-- An interlocked operation leaves the core. -/
def out (s : State) (o : OutOp) : State :=
  { cur s fun c => { c with outst := c.outst ++ [⟨o, s.issue.addr, s.issue.pos, s.reqs, none⟩] } with reqs := s.reqs + 1 }

/-- Stores enter the core's request queue in order, those of one syllable as a group, strong under a scope above .c (13 R271 R272). -/
def pushes (s : State) (sc : Scope) (l : List (Pa × List Byte)) (op : Option AmoOp) : State :=
  { s with
    reqq := s.reqq ++ l.zipIdx.map fun x =>
      ⟨s.reqs + x.2, s.cur.coreId, s.focus, op, x.1.1.1, x.1.2, x.1.1.2, s.cur.ctxId, decide (sc ≠ .c), s.reqs⟩
    reqs := s.reqs + l.length }

/-- The destination of an interlocked scalar value; s0 takes none (03 R47 R61). -/
def sDst (d : SReg) : SDst :=
  match d with
  | .s n => .s n
  | .a n => .a n
  | .bpS => .none
  | .bpL => .none

def vDst (s : State) (d : VReg) : Option (Fin 640) :=
  match d with
  | .v n => some (vReg s.cur n)
  | _ => none

/-- Bytes of a gathered element (08 R176). -/
def gathW (z : GathSize) : Nat :=
  match z with
  | .b => 1
  | .sb => 1
  | .h => 2
  | .sh => 2
  | .w => 4

/-- The global accesses of an instruction in their order: guard, operand, virtual addresses, bytes, alignment, kind, and whether it is
an atomic add (08 R172 R176 R180 R181). -/
def globals (s : State) (i : Instr) : Option (Guard × Addr × List Word64 × Nat × Nat × Nat × Bool) :=
  let lanes (a : Addr) (x : VReg) (n : Nat) : List Word64 :=
    (List.finRange 64).map fun k => BitVec.ofInt 64 ((s.vaddr a).toInt + ((s.rv x).get k).toInt * n)
  match i with
  | .ldg o => some (o.g, o.addr, [s.vaddr o.addr], o.sz.bytes, o.sz.bytes, 0, false)
  | .stg _ o => some (o.g, o.addr, [s.vaddr o.addr], o.sz.bytes, o.sz.bytes, 1, false)
  | .ldgv o => some (o.g, o.addr, [s.vaddr o.addr], 256, 64, 0, false)
  | .stgv _ o => some (o.g, o.addr, [s.vaddr o.addr], 256, 64, 1, false)
  | .gath z x o => some (o.g, o.addr, lanes o.addr x (gathW z), gathW z, gathW z, 0, false)
  | .scat z _ x o => some (o.g, o.addr, lanes o.addr x (gathW z), gathW z, gathW z, 1, false)
  | .amo g op _ _ a _ => if isLocal a then none else some (g, a, [s.vaddr a], 8, 8, 2, op == .add)
  | .cas g _ _ a _ => if isLocal a then none else some (g, a, [s.vaddr a], 8, 8, 2, false)
  | .vamo g _ _ _ a x => some (g, a, lanes a x 4, 4, 4, 2, false)
  | .vamor g _ _ _ a x _ => some (g, a, lanes a x 4, 4, 4, 2, false)
  | _ => none

/-- What a global access leaves once its addresses are translated: a load or an atomic that returns its word awaits its value, a store
or lane-atomic stands in the request queue (08 R172 R173 R176 R180 R181, 13 R272). -/
def issued (s : State) (i : Instr) (ps : List Pa) : Option State :=
  let lane (v : VReg) (n : Nat) : List (List Byte) := (List.finRange 64).map fun k => bytesOfNat n ((s.rv v).get k).toNat
  match i, ps with
  | .ldg o, [p] => some (out s (.ldg (sDst o.d) p.1 o.sz p.2))
  | .ldgv o, [p] => some (out s (.ldgv (vDst s o.d) p.1 p.2))
  | .stg sc o, [p] => some (pushes (plus s (ebpOf s [o.d] [])) sc [(p, bytesOfNat o.sz.bytes (s.rs o.d).toNat)] none)
  | .stgv sc o, [p] => some (pushes (plus s (ebpOf s [] [o.d])) sc [(p, rowBytes [s.rv o.d])] none)
  | .gath z x o, ps => some (out (plus s (ebpOf s [] [x])) (.gath (vDst s o.d) ps z))
  | .scat z sc x o, ps => some (pushes (plus s (ebpOf s [] [o.d, x])) sc (ps.zip (lane o.d (gathW z))) none)
  | .amo _ op _ d _ b, [p] => some (waits (out (plus s (ebpOf s [b] [])) (.atomic (sDst d) (.amo op (s.rs b)) p.1 p.2)) .atomic)
  | .cas _ _ d _ b, [p] => some (waits (out (plus s (ebpOf s [b, d] [])) (.atomic (sDst d) (.cas (s.rs b) (s.rs d)) p.1 p.2)) .atomic)
  | .vamo _ op sc c _ x, ps => some (pushes (plus s (ebpOf s [] [c, x])) sc (ps.zip (lane c 4)) (some op))
  | .vamor _ op _ d _ x c, ps => some (waits (out (plus s (ebpOf s [] [c, x])) (.vamor (vDst s d) op ps (s.rv c))) .atomic)
  | _, _ => none

end Sys2Proof.Claim

/-- 08 R169 R172, 03 R63: LDT and STT move rows 0 to 3 in their first LS tick and four rows in each of the next three, in which the L
unit is busy. Every other register, flag, special and byte of the LS is unchanged. -/
def Sys2Proof.Claim.tileTransfers : Prop :=
  ∀ (g : Guard) (n : Fin 640) (a : Addr) (s : State), s.on g = true → Claim.fits s a 4096 64 →
    let x := (s.lsAddr a).toNat
    let regs (i : Nat) := [0, 1, 2, 3].map fun k => Claim.tileReg n (4 * i + k)
    let rows (i : Nat) := [0, 1, 2, 3].map fun k => s.rv (.v (Claim.tileReg n (4 * i + k)))
    let busy (t : State) := Claim.cur t fun c => { c with lBusy := 4 }
    exec (.ldt ⟨g, .v n, a⟩) s = .next (busy (Claim.later (Claim.plus (Claim.asks s x 1024 false)
      [Claim.res s 6 ((regs 0).zipWith (fun r v => .vec r (-1) v) (Claim.fourRows s.cur.lsView x)) none])
      [(1, .loadRows (x + 1024) (regs 1) 7 false), (2, .loadRows (x + 2048) (regs 2) 8 false),
       (3, .loadRows (x + 3072) (regs 3) 9 true)]))
    ∧ (s.cur.ls.wf = true → ∃ m : Memory, Claim.storesAt s.cur.ls m x (Claim.rowBytes (rows 0)) ∧ m.wf = true
      ∧ exec (.stt ⟨g, .v n, a⟩) s = .next (busy (Claim.later (Claim.cur (Claim.asks s x 1024 true) fun c => { c with ls := m })
        [(1, .storeRows (x + 1024) (rows 1)), (2, .storeRows (x + 2048) (rows 2)), (3, .storeRows (x + 3072) (rows 3))])))

/-- 08 R169 R172 R175, 06 R129 R130 R131 R135 R143, 12 R262 R266, 02 R42: an LS access of a later tick. A tile's rows are written, or leave the
result that lands at t + 6 + i. A remote load leaves the target's 256 bytes, to land 16 ticks after its issue; a remote store writes them at the
target and nothing else there; the target is a context in its core or saved with its pre-empted grid. The last bytes of a WSAVE are written; those
of a WLOAD leave its witness, to land 8 ticks after its issue. The norm of b of a refinement run is read into `$rbnorm`, off 8 bytes or beyond the
footprint it is a fault of RFRUN. The token of an XSEND is done, in the strand that sent it. In a timetabled grid an access is made in its
LS tick; one of a secondary in its own LS, and a remote one of an elastic grid, becomes a pending request, a saved LS having no banks. A context's
own reads see the rows and the witness line that a store of its own has still to write. That a peer is found by its grid and core, and that detail word 0
of a core without one is its index, is the model's choice (log 23). -/
def Sys2Proof.Claim.lateAccesses : Prop :=
  ∀ (s : State) (p : LsPend),
    (∀ (a : Nat) (rows : List Vec), p.op = .storeRows a rows → s.cur.ls.wf = true →
      ∃ t, s.runLs p = .ok t ∧ Claim.storesAt s.cur.ls t.cur.ls a (Claim.rowBytes rows) ∧ t.cur = { s.cur with ls := t.cur.ls })
    ∧ (∀ (a : Nat) (ds : List (Fin 640)) (lat : Nat) (last : Bool), p.op = .loadRows a ds lat last →
      ∃ t r, s.runLs p = .ok t ∧ t.cur = { s.cur with flight := s.cur.flight ++ [r] } ∧ t.mem = s.mem
        ∧ r.rem = p.born + lat - s.cur.sp.scnt.toNat
        ∧ r.writes = ds.zipWith (fun d v => .vec d (-1) v) (Claim.fourRows s.cur.lsView a))
    ∧ (∀ (core : Fin 16) (a : Word64) (k : LsAt), s.peerAt core = some k → a.toNat % 64 = 0 → a.toNat + 256 ≤ (s.lsCtx k).foot →
      (∀ d, p.op = .remoteLoad core a d →
        ∃ t r, s.runLs p = .ok t ∧ t.cur = { s.cur with flight := s.cur.flight ++ [r] } ∧ t.others = s.others ∧ t.grids = s.grids
          ∧ r.rem = p.born + 16 - s.cur.sp.scnt.toNat ∧ r.bp = some (.lv (Claim.rowOf ((s.lsCtx k).ls.readN a.toNat 256)))
          ∧ r.writes = d.toList.map fun n => .vec n (-1) (Claim.rowOf ((s.lsCtx k).ls.readN a.toNat 256)))
      ∧ (∀ v, p.op = .remoteStore core a v → (s.lsCtx k).ls.wf = true →
        ∃ t m, s.runLs p = .ok t ∧ t.lsCtx k = { s.lsCtx k with ls := m }
          ∧ Claim.storesAt (s.lsCtx k).ls m a.toNat (Claim.rowBytes [v])
          ∧ (∀ j, k.saved ≠ none ∨ j ≠ k.key → (t.ctx j).ls = (s.ctx j).ls)))
    ∧ (∀ (a : Nat) (bs : List Byte), p.op = .witSaveTail a bs → bs ≠ [] → s.cur.ls.wf = true →
      ∃ m : Memory, Claim.storesAt s.cur.ls m a bs ∧ m.wf = true
        ∧ s.runLs p = .ok (Claim.cur (Claim.asksFor s p a bs.length true) fun c => { c with ls := m }))
    ∧ (∀ (k : Fin 8) (a : Nat) (head : List Byte), p.op = .witTail k a head → head.length = 1024 →
      let img := head ++ s.cur.lsView.readN a 64
      let h := Claim.elem img 8 0
      let w : Wit := if h / 2 ^ 15 % 2 = 1 then
          ⟨Vector.ofFn fun i => Vector.ofFn fun j => BitVec.ofNat 8 (Claim.elem img 1 (64 + 64 * i.val + j.val)), BitVec.ofNat 4 h,
            BitVec.ofNat 2 (h / 2 ^ 4), BitVec.ofNat 7 (h / 2 ^ 8), BitVec.ofNat 8 (h / 2 ^ 32), true, BitVec.ofNat 16 (h / 2 ^ 16)⟩
        else ⟨Vector.replicate 16 (Vector.replicate 64 0), 0, 0, 0, 0, false, BitVec.ofNat 16 (h / 2 ^ 16)⟩
      s.runLs p = .ok (Claim.cur (Claim.asksFor s p a 64 false) fun c => { c with flight := c.flight ++
        [⟨p.born + 8 - s.cur.sp.scnt.toNat, [.witLoad k w], none, 0, p.addr, p.pos, p.born, false, none⟩] }))
    ∧ (∀ r : Refine, p.op = .rfNorm → s.cur.rf = some r →
      let a := (r.blk.getD 9 0).toNat % 2 ^ 20
      (a % 8 ≠ 0 → s.runLs p = .error (7, BitVec.ofNat 64 a, 0))
      ∧ (a % 8 = 0 → s.cur.foot < a + 8 → s.runLs p = .error (5, BitVec.ofNat 64 a, 2))
      ∧ (a % 8 = 0 → a + 8 ≤ s.cur.foot → s.runLs p = .ok (Claim.cur (Claim.asksFor s p a 8 false) fun c => { c with
          sp := { c.sp with rbnorm := BitVec.ofNat 64 (Claim.elem (s.cur.lsView.readN a 8) 8 0) } })))
    ∧ (∀ (n : Nat) (t : Option (Fin 63)), p.op = .tokenDone n t →
      s.runLs p = .ok (match t with
        | none => s
        | some t => Claim.cur s fun c =>
          if n = c.strand then { c with regs := { c.regs with tok := c.regs.tok.set t .done } }
          else match c.oldTok.get? n with
            | some v => { c with oldTok := c.oldTok.set n (v.set t .done) }
            | none => c))
    ∧ ((∀ x, Claim.ownAccess s p.op = some x → s.cur.second = false) → (∀ x, Claim.farAccess p.op = some x → s.cur.elastic = false) →
      s.runLsOrAsk p = s.runLs p)
    ∧ (∀ a n, Claim.ownAccess s p.op = some (a, n) → s.cur.second = true →
      s.runLsOrAsk p = .ok (Claim.pending s p .secondL s.focus a n))
    ∧ (∀ core a n, Claim.farAccess p.op = some (core, a, n) → s.cur.elastic = true →
      (s.peerAt core = none → s.runLsOrAsk p = .error (5, BitVec.ofNat 64 core.val, 11))
      ∧ ∀ k, s.peerAt core = some k → s.runLsOrAsk p = .ok (Claim.pending s p .remote k.key a (if k.saved = none then n else 0)))
    ∧ (∀ (c : Ctx) (b : Nat), c.ls.wf = true →
      (c.lsPend = [] → c.lsView = c.ls)
      ∧ (∀ q l, c.lsPend = l ++ [q] → (∀ x ∈ l, Claim.tail x.op = none) →
          c.lsView.read b = match Claim.tail q.op with
            | some (a, bs) => if a ≤ b ∧ b < a + bs.length then bs.getD (b - a) 0 else c.ls.read b
            | none => c.ls.read b))

/-- 08 R175, 06 R135: LDRV and STRV name the LS of a core of their cluster. A misaligned address, a core without a context of the grid
(detail word 0 its index: model's choice, log 23), and an access beyond the target's footprint are faults in that order; else the access follows eight ticks after issue, and the store's
bytes are those that its register holds now. -/
def Sys2Proof.Claim.remoteAccess : Prop :=
  ∀ (g : Guard) (d : VReg) (n : Fin 16) (off : BitVec 16) (core : Fin 16) (s : State), s.on g = true →
    let o : LVec := ⟨g, d, .remote n off core⟩
    let a := s.lsAddr o.addr
    (a.toNat % 64 ≠ 0 → exec (.ldrv o) s = Claim.faults s 7 a 0 ∧ exec (.strv o) s = Claim.faults s 7 a 1)
    ∧ (a.toNat % 64 = 0 → s.peerAt core = none →
      exec (.ldrv o) s = Claim.faults s 5 (BitVec.ofNat 64 core.val) 11 ∧ exec (.strv o) s = Claim.faults s 5 (BitVec.ofNat 64 core.val) 11)
    ∧ ∀ k, a.toNat % 64 = 0 → s.peerAt core = some k →
      ((s.lsCtx k).foot < a.toNat + 256 → exec (.ldrv o) s = Claim.faults s 5 a 2 ∧ exec (.strv o) s = Claim.faults s 5 a 2)
      ∧ (a.toNat + 256 ≤ (s.lsCtx k).foot →
        exec (.ldrv o) s = .next (Claim.later s [(7, .remoteLoad core a (Claim.vDst s d))])
        ∧ exec (.strv o) s = .next (Claim.later (Claim.plus s (Claim.ebpOf s [] [d])) [(7, .remoteStore core a (s.rv d))]))

/-- 08 R180: the LS forms of AMO and CAS write the new word at their address and deliver the old one after 6 ticks (3 on a kiosk core)
on the L unit. Every other byte of the LS, register, flag and special is unchanged. -/
def Sys2Proof.Claim.localAtomics : Prop :=
  ∀ (g : Guard) (op : AmoOp) (sc : Scope) (d b : SReg) (a : Addr) (s : State), s.on g = true → Claim.isLocal a = true →
    Claim.fits s a 8 8 → s.cur.ls.wf = true →
    let x := (s.lsAddr a).toNat
    let old := BitVec.ofNat 64 (Claim.elem (s.cur.lsView.readN x 8) 8 0)
    let after (m : Memory) (rs : List SReg) := Claim.plus (Claim.cur (Claim.asks s x 8 true) fun c => { c with ls := m })
      (Claim.ebpOf s rs [] ++ [Claim.res s (if s.cur.kind = .compute then 6 else 3) (Claim.sDest d old) (some (.l old))])
    (∃ m : Memory, Claim.storesAt s.cur.ls m x (bytesOfNat 8 (Claim.amoNew op 64 old (s.rs b)).toNat) ∧ m.wf = true
      ∧ exec (.amo g op sc d a b) s = .next (after m [b]))
    ∧ ∃ m : Memory, Claim.storesAt s.cur.ls m x (bytesOfNat 8 (if old = s.rs b then s.rs d else old).toNat) ∧ m.wf = true
      ∧ exec (.cas g sc d a b) s = .next (after m [b, d])

/-- 08 R172 R173 R176 R180 R181, 06 R141: every global access whose addresses translate leaves its request: loads, gathers and atomics
that return a word await it, and the last freeze the context; stores, scatters and VAMO stand in the request queue in ascending lanes
(for VAMO, and for lanes of one syllable, the model's choice, assumption log 24 and 41). No register, flag, special or byte of any memory
changes. -/
def Sys2Proof.Claim.globalRequests : Prop :=
  ∀ (i : Instr) (s t : State) (g : Guard) (a : Addr) (vas : List Word64) (len al acc : Nat) (add : Bool) (ps : List Pa),
    Claim.globals s i = some (g, a, vas, len, al, acc, add) → s.on g = true →
    vas.map (fun va => s.gxlate a va len al acc add) = ps.map Except.ok → Claim.issued s i ps = some t →
    exec i s = .next t

/-- 08 R176 R181, 06 R390, 23 R339 R341: the first global access of an instruction that fails gives its fault, and none of them is
issued; one of the management core that its target turns away only does not perform. -/
def Sys2Proof.Claim.globalFaults : Prop :=
  ∀ (i : Instr) (s : State) (g : Guard) (a : Addr) (l r : List Word64) (va : Word64) (len al acc : Nat) (add : Bool) (f : Flt),
    Claim.globals s i = some (g, a, l ++ va :: r, len, al, acc, add) → s.on g = true →
    (∀ x ∈ l, ∃ p, s.gxlate a x len al acc add = .ok p) → s.gxlate a va len al acc add = .error f →
    exec i s = Claim.fails s f


/-! ### Waits, translation and arrivals (06 R133 R136 to R139 R143 R390, 08 R177 R182 to R187, 13 R271, 25 R357) -/

namespace Sys2Proof.Claim
open Machine

/-- Whether a 2 MiB entry of the LTT is valid and holds a virtual address (06 R137). -/
abbrev covers (e : Word64 × Word64) (va : Nat) : Prop :=
  e.1.toNat % 2 = 1 ∧ e.1.toNat / 2 ^ 21 % 2 ^ 27 ≤ va / 2 ^ 21 ∧ va / 2 ^ 21 < e.1.toNat / 2 ^ 21 % 2 ^ 27 + e.1.toNat / 2 ^ 48

/-- Entry `k` is the lowest that holds the address (06 R137). -/
abbrev entryOf (t : Vector (Word64 × Word64) 64) (va : Nat) (k : Fin 64) : Prop :=
  covers (t.get k) va ∧ ∀ j : Fin 64, j < k → ¬ covers (t.get j) va

/-- The right that an access needs: bit 0 read, 1 write, 2 atomics, 3 fetch (06 R138). -/
def mayDo (h : Handle) (acc : Nat) : Bool := if acc = 0 then h.r else if acc = 1 then h.w else if acc = 2 then h.at_ else h.x

/-- The requests of the queues bear different numbers, which no awaited operation bears. -/
def numbered (s : State) : Prop :=
  (s.reqq.map Store.seq).Nodup ∧ ∀ e ∈ s.allCtxs, ∀ o ∈ e.2.outst, ∀ u ∈ s.reqq, o.seq ≠ u.seq

/-- The dies whose caches an ICINV reaches: its own, or those of its grid's cohort (08 R186). -/
def icinvDies (s : State) (cohort : Bool) : List Nat :=
  match s.cur.grid.bind (s.grids.get? ·) with
  | some g => if !cohort then [s.cur.die] else if g.kcb.elastic then [0, 1, 2, 3] else g.members.map Member.die
  | none => [s.cur.die]

end Sys2Proof.Claim

/-- 08 R182 R183 R184 R177 R187, 06 R143: DRAIN goes on at once with nothing outstanding, else waits. WAITA goes on where the word
compares, else waits. TWAIT names a token, none of them idle, and waits until all are done. XLT asks for its walk, and its address must
lie below 2^48. TINS and TINV write their entry for the next bundle, within the footprint. -/
def Sys2Proof.Claim.waitResults : Prop :=
  ∀ (g : Guard) (s : State), s.on g = true →
    (∀ sc : Scope, (Claim.nothingOut s → exec (.drain g sc) s = .next s)
        ∧ (¬ Claim.nothingOut s → exec (.drain g sc) s = .next (Claim.waits s (.drain sc .none))))
    ∧ (∀ (cc : Cc) (d : SReg) (a : Addr), Claim.fits s a 8 8 →
        let x := (s.lsAddr a).toNat
        let t := Claim.plus (Claim.asks s x 8 false) (Claim.ebpOf s [d] [])
        let word := BitVec.ofNat 64 (Claim.elem (s.cur.lsView.readN x 8) 8 0)
        (Claim.compares cc word (s.rs d) = true → exec (.waita g cc d a) s = .next t)
        ∧ (Claim.compares cc word (s.rs d) = false → exec (.waita g cc d a) s = .next (Claim.waits t (.waita cc x (s.rs d)))))
    ∧ (∀ c0 c1 c2 : Option (Fin 63),
        let ts := c0.toList ++ c1.toList ++ c2.toList
        (ts = [] → exec (.twait g c0 c1 c2) s = Claim.faults s 9 63 3)
        ∧ (∀ l t r, ts = l ++ t :: r → (∀ x ∈ l, s.cur.regs.tok.get x ≠ .idle) → s.cur.regs.tok.get t = .idle →
            exec (.twait g c0 c1 c2) s = Claim.faults s 9 (BitVec.ofNat 64 t.val) 2)
        ∧ (ts ≠ [] → (∀ x ∈ ts, s.cur.regs.tok.get x = .done) → exec (.twait g c0 c1 c2) s = .next s)
        ∧ ((∃ x ∈ ts, s.cur.regs.tok.get x ≠ .done) → (∀ x ∈ ts, s.cur.regs.tok.get x ≠ .idle) →
            exec (.twait g c0 c1 c2) s = .next (Claim.waits s (.twait ts))))
    ∧ (∀ (h : Fin 8) (a : SReg) (buf : Fin 64),
        ((s.rs a).toNat < 2 ^ 48 → exec (.xlt g h a buf) s
          = .next (Claim.out (Claim.plus s (Claim.ebpOf s [a] [])) (.xlt h (s.rs a) buf)))
        ∧ (2 ^ 48 ≤ (s.rs a).toNat → exec (.xlt g h a buf) s = Claim.faults s 5 (s.rs a) 13))
    ∧ ∀ w k : SReg,
        let slot := 8 * ((s.rs k).toNat / 2 ^ 10 % 2 ^ 6) + (s.rs w).toNat % 8
        let t (valid : Bool) := Claim.plus s (Claim.ebpOf s [w, k] [] ++
          [Claim.res s 1 [.tag (Fin.ofNat 512 slot) valid (BitVec.ofNat 48 ((s.rs k).toNat / 2 ^ 16))] none])
        (1024 * (slot + 1) ≤ s.cur.foot → exec (.tins g w k) s = .next (t true) ∧ exec (.tinv g w k) s = .next (t false))
        ∧ (s.cur.foot < 1024 * (slot + 1) → exec (.tins g w k) s = Claim.faults s 5 (BitVec.ofNat 64 (1024 * slot)) 2
          ∧ exec (.tinv g w k) s = Claim.faults s 5 (BitVec.ofNat 64 (1024 * slot)) 2)

/-- 08 R185 R186, 13 R280: HWIN in an elastic context returns 0; in a timetabled one the context's first 64 waiting writes perform in
their order, in memory or in the LS that they name, and it returns their number. ICINV drops, from the caches its scope covers, the lines that meet its range, and no other line;
it waits while a DRAIN would. -/
def Obligations.HostWritesAndCaches : Prop :=
  ∀ (g : Guard) (d : SReg) (s : State), s.on g = true →
    let c := s.cur.ctxId.toNat
    let w := (s.ctxRegs c).ingress
    (s.cur.elastic = true → exec (.hwin g d) s = .next (Claim.plus s [Claim.res s 1 (Claim.sDest d 0) none]))
    ∧ (s.cur.elastic = false → exec (.hwin g d) s = .next (Claim.plus
        ((w.take 64).foldl (fun t l => t.hostPerform s.cur.ctxId l)
          { s with ctxs := s.ctxs.set c { s.ctxRegs c with ingress := w.drop 64 } })
        [Claim.res s 1 (Claim.sDest d (BitVec.ofNat 64 (min 64 w.length))) none]))
    ∧ (∀ (ctx : BitVec 8) (pa : Nat) (bs : List Byte), s.ctrFunc pa = none →
        (s.target pa ∉ [8, 9, 10, 11, 12] → s.mem.wf = true →
          ∃ m : Memory, s.hostPerform ctx (pa, bs) = { s with mem := m } ∧ Claim.storesAt s.mem m pa bs)
        ∧ (s.target pa ∈ [8, 9, 10, 11] → ∀ a off, s.lsTarget ctx pa = some (a, off) → (s.lsCtx a).ls.wf = true →
          (∀ n, a.saved = some n → ((s.grids.get? n).bind (·.saved.get? a.key)) ≠ none) →
          (s.lsCtx a).foot < off + bs.length ∧ s.hostPerform ctx (pa, bs) = s
          ∨ off + bs.length ≤ (s.lsCtx a).foot ∧ ∃ m : Memory, (s.hostPerform ctx (pa, bs)).lsCtx a = { s.lsCtx a with ls := m }
            ∧ Claim.storesAt (s.lsCtx a).ls m off bs)
        ∧ (s.target pa ∈ [8, 9, 10, 11] → s.lsTarget ctx pa = none → s.hostPerform ctx (pa, bs) = s))
    ∧ ∀ (cohort : Bool) (base : Fin 64) (off : BitVec 16),
      (¬ Claim.nothingOut s → exec (.icinv g cohort d base off) s = .next (Claim.waits (Claim.plus s (Claim.ebpOf s [d] []))
        (.drain (if cohort then .y else .d) (.icinv cohort (s.rs (.s base) + off.signExtend 64) (s.rs d)))))
      ∧ (Claim.nothingOut s →
        let lo := (s.rs (.s base) + off.signExtend 64).toNat
        let len := (s.rs d).toNat
        ∃ t, exec (.icinv g cohort d base off) s = .next t
          ∧ t = { Claim.plus s (Claim.ebpOf s [d] []) with icache := t.icache }
          ∧ ∀ key line : Nat, (t.icache.get? key).bind (·.get? line)
              = if (s.ctx key).die ∈ Claim.icinvDies s cohort ∧ 64 * line < lo + len ∧ lo < 64 * line + 64 ∧ 0 < len then none
                else (s.icache.get? key).bind (·.get? line))

/-- 06 R136 R137 R138 R390: translation through the LTT. The checks come in order: alignment, the address below 2^48, the lowest entry
that holds the first byte, the last byte in the same entry, the entry's right. The physical address keeps the offset in the entry. -/
def Sys2Proof.Claim.lttTranslation : Prop :=
  ∀ (t : Vector (Word64 × Word64) 64) (va : Word64) (len al acc : Nat), 0 < len → 0 < al → acc < 4 →
    (va.toNat % al ≠ 0 → lttXlate t va len al acc (acc + 1) = .error (7, va, BitVec.ofNat 64 acc))
    ∧ (va.toNat % al = 0 → 2 ^ 48 ≤ va.toNat → lttXlate t va len al acc (acc + 1) = .error (4, va, BitVec.ofNat 64 acc))
    ∧ (va.toNat % al = 0 → va.toNat < 2 ^ 48 → (∀ k (i : Nat), i < len → ¬ Claim.covers (t.get k) (va.toNat + i)) →
        lttXlate t va len al acc (acc + 1) = .error (4, va, BitVec.ofNat 64 acc))
    ∧ ∀ k : Fin 64, va.toNat % al = 0 → va.toNat < 2 ^ 48 → Claim.entryOf t va.toNat k →
        let e := t.get k
        (¬ Claim.covers e (va.toNat + len - 1) → lttXlate t va len al acc (acc + 1) = .error (4, va, BitVec.ofNat 64 (acc + 8)))
        ∧ (Claim.covers e (va.toNat + len - 1) → e.1.getLsbD (acc + 1) = false → lttXlate t va len al acc (acc + 1) = .error (5, va, 1))
        ∧ (Claim.covers e (va.toNat + len - 1) → e.1.getLsbD (acc + 1) = true → ∃ p b, lttXlate t va len al acc (acc + 1) = .ok (p, b)
            ∧ p + e.1.toNat / 2 ^ 21 % 2 ^ 27 * 2 ^ 21 = e.2.toNat / 2 ^ 21 % 2 ^ 31 * 2 ^ 21 + va.toNat
            ∧ b.val = e.1.toNat / 2 ^ 5 % 2 ^ 6)

/-- 06 R139 R141 R390: an access through a handle checks its alignment, then the handle, its page and its right, and keeps the offset in
the page. -/
def Sys2Proof.Claim.handleTranslation : Prop :=
  ∀ (h : Option Handle) (va : Word64) (len al acc : Nat), acc < 4 →
    (va.toNat % al ≠ 0 → handleXlate h va len al acc (acc + 1) = .error (7, va, BitVec.ofNat 64 acc))
    ∧ (va.toNat % al = 0 →
        (h = none → handleXlate h va len al acc (acc + 1) = .error (5, va, 3))
        ∧ ∀ x, h = some x →
          (x.va ≤ va.toNat ∧ va.toNat + len ≤ x.va + x.size ∧ Claim.mayDo x acc = true →
            handleXlate h va len al acc (acc + 1) = .ok (x.pa + (va.toNat - x.va), x.buf))
          ∧ (¬ (x.va ≤ va.toNat ∧ va.toNat + len ≤ x.va + x.size ∧ Claim.mayDo x acc = true) →
            handleXlate h va len al acc (acc + 1) = .error (5, va, 3)))

/-- 08 R182 R183, 03 R58 R59 R61: the events by which outstanding work completes. Every store of a core performs and no other; a waiting
WAITA whose word compares ends its wait and no other wait ends; results whose latency is over land, in issue order, and the others stay;
an awaited value reaches its register. -/
def Sys2Proof.Claim.arrivalEvents : Prop :=
  ∀ s : State,
    (∀ core : Nat, Claim.numbered s → ∃ t, exec (.drainComplete core) s = .next t ∧ t.reqq = s.reqq.filter (·.core != core))
    ∧ (∀ key : Nat, ∃ t, exec (.waitaWake key) s = .next t ∧ ∃ hs, t.ctx key = { s.ctx key with holds := hs }
        ∧ hs.Sublist (s.ctx key).holds
        ∧ ∀ h ∈ (s.ctx key).holds, h ∈ hs ↔ ¬ ∃ cc a v, h = .waita cc a v ∧ Claim.compares cc ((s.ctx key).ls.word a) v = true)
    ∧ (∀ key : Nat, ∃ t, exec (.resultLand key) s = .next t
        ∧ (t.ctx key).flight = (s.ctx key).flight.filter (fun r => r.rem != 0)
        ∧ ∀ r w, (s.ctx key).flight = [r] → r.rem = 0 → r.writes = [w] →
            t.ctx key = { w.apply { s.ctx key with flight := [] } with
              bp := (s.ctx key).bp.put r.bp, sp := (w.apply { s.ctx key with flight := [] }).sp.event r.addr r.pos r.events })
    ∧ (∀ (d : Fin 64) (pa : Nat) (z : Size) (buf : Fin 64) (addr : Word64) (pos : Fin 8) (seq : Nat) (bs : List Byte) (l : List Outst),
        s.cur.outst = ⟨.ldg (.s d) pa z buf, addr, pos, seq, some bs⟩ :: l → d ≠ 0 → (∀ u ∈ s.requests s.cur.coreId, u.seq ≠ seq) →
        exec (.interlockedValueArrive s.focus 0) s
          = .next (Claim.cur s fun c => { c with outst := l, regs := { c.regs with s := c.regs.s.set d (Claim.extended z (leNat bs)) } }))


/-! ### Engine commands, payloads and witness spills (06 R142 R143 R144, 08 R188 to R194, 12 R262, 14 R289 to R291) -/

namespace Sys2Proof.Claim
open Machine

/-- Bits `lo` to `lo + n − 1` of word `i` of a block. -/
def fld (b : List Word64) (i lo n : Nat) : Nat := (b.getD i 0).toNat / 2 ^ lo % 2 ^ n

/-- The commands that take a block from the LS, with the words of their blocks (08 R189 R192 R193 R194). -/
def engRow (i : Instr) : Option (EngOp × EngKind × Option (BitVec 16) × Nat) :=
  match i with
  | .copy m o => some (o, .copy, m, 16)
  | .copyk m o => some (o, .copyk, m, 16)
  | .kreq k o => some (o, .kreq k, none, 8)
  | .coll o => some (o, .coll, none, 8)
  | .csig o => some (o, .csig, none, 4)
  | _ => none

/-- A copy block without a reserved code (08 R189). -/
abbrev copyOk (m : Option (BitVec 16)) (b : List Word64) : Prop :=
  fld b 0 0 2 ≤ 1 ∧ fld b 0 2 2 ≤ 1 ∧ fld b 0 5 3 ≤ 4 ∧ 1 ≤ fld b 0 16 3 ∧ fld b 0 16 3 ≤ 6 ∧ (m ≠ none → fld b 0 2 2 = 0)

/-- Every field of the block is in its range (08 R188 R189 R193 R194, 26 R375). -/
def blockOk (s : State) (k : EngKind) (m : Option (BitVec 16)) (b : List Word64) : Prop :=
  match k with
  | .copy => copyOk m b
  | .copyk => copyOk m b
  | .coll =>
    fld b 0 2 4 ≤ 3 ∧ (fld b 0 0 2 ≤ 1 → fld b 0 6 2 ≠ 3) ∧ 1 ≤ (b.getD 1 0).toNat ∧ (b.getD 1 0).toNat ≤ 2 ^ 40
      ∧ ∃ e, s.groups.get? (s.cur.ctxId.toNat * 4096 + fld b 0 32 32) = some e ∧ fld b 0 32 32 ≤ 4095 ∧ e.1.getLsbD 12 = true
        ∧ (fld b 0 0 2 = 3 → fld b 4 0 32 ≤ e.1.toNat % 2 ^ 12)
  | .csig => fld b 0 0 2 ≠ 3 ∧ fld b 0 4 3 ≤ 4
  | _ => True

/-- No token of the command is misused (06 R143). -/
def tokensOk (c : Ctx) (o : EngOp) : Prop :=
  (∀ t, o.prod = some t → c.regs.tok.get t ≠ .pending) ∧ ∀ t ∈ o.cons, c.regs.tok.get t ≠ .idle

/-- The produced token is pending (06 R143). -/
def pends (s : State) (p : Option (Fin 63)) : State :=
  cur s fun c => match p with
    | some t => { c with regs := { c.regs with tok := c.regs.tok.set t .pending } }
    | none => c

/-- The produced token of a command of the running strand is done. -/
def tokenDone (c : Ctx) (p : Option (Fin 63)) : Ctx :=
  match p with
  | some t => { c with regs := { c.regs with tok := c.regs.tok.set t .done } }
  | none => c

/-- Element addresses of a copy in index order, dimension 0 fastest (08 R190). -/
def elements (b : List Word64) : List (Word64 × Word64) :=
  (List.range (fld b 0 16 3)).foldl (fun l k =>
    let n := fld b (5 + k / 2) (32 * (k % 2)) 32
    let ss := (BitVec.ofNat 32 (fld b (8 + k / 2) (32 * (k % 2)) 32)).signExtend 64
    let ds := (BitVec.ofNat 32 (fld b (11 + k / 2) (32 * (k % 2)) 32)).signExtend 64
    (List.range n).flatMap fun i => l.map fun e => (e.1 + BitVec.ofNat 64 i * ss, e.2 + BitVec.ofNat 64 i * ds))
    [(b.getD 1 0, b.getD 2 0)]

/-- Requests to a kiosk that have started and have not arrived (08 R192). -/
def coming (s : State) (k : Fin 128) : Nat := (s.allCtxs.flatMap fun e => e.2.active).countP fun c => decide (c.kind = .kreq k)

/-- A byte of [a, a + n). -/
abbrev within (x a n : Nat) : Prop := a ≤ x ∧ x < a + n

end Sys2Proof.Claim

/-- 08 R188 R189 R193 R194, 06 R143: COPY, COPYK, KREQ, COLL and CSIG check their tokens, then their block's alignment and place, then
its fields, then the cores of a mask. A legal command captures its block and stands last in the engine queue, its token pending; a 17th
command waits. No register, flag, special or byte of memory changes. That a misaligned block is recorded as access kind 0 is the model's
choice (assumption log 24). -/
def Sys2Proof.Claim.engineCommands : Prop :=
  ∀ (i : Instr) (s : State) (o : EngOp) (k : EngKind) (m : Option (BitVec 16)) (n : Nat), Claim.engRow i = some (o, k, m, n) →
    s.on o.g = true →
    let a := s.rs o.cblk
    let b := wordsOfBytes n (s.cur.lsView.readN a.toNat (8 * n))
    let c : EngCmd := ⟨k, s.cur.strand, b, a.toNat, o.prod, o.cons, m, s.issue.addr, s.issue.pos, ⟨0, 0, [], [], [], [], false⟩⟩
    let t := Claim.pends (Claim.plus (Claim.asks s a.toNat (8 * n) false) (Claim.ebpOf s [o.cblk] [])) o.prod
    (∀ p, o.prod = some p → s.cur.regs.tok.get p = .pending → exec i s = Claim.faults s 9 (BitVec.ofNat 64 p.val) 1)
    ∧ (∀ l p r, (∀ q, o.prod = some q → s.cur.regs.tok.get q ≠ .pending) → o.cons = l ++ p :: r →
        (∀ q ∈ l, s.cur.regs.tok.get q ≠ .idle) → s.cur.regs.tok.get p = .idle →
        exec i s = Claim.faults s 9 (BitVec.ofNat 64 p.val) 2)
    ∧ (Claim.tokensOk s.cur o →
      (a.toNat % (8 * n) ≠ 0 → exec i s = Claim.faults s 7 a 0)
      ∧ (a.toNat % (8 * n) = 0 → s.cur.foot < a.toNat + 8 * n → exec i s = Claim.faults s 5 a 2)
      ∧ (a.toNat % (8 * n) = 0 → a.toNat + 8 * n ≤ s.cur.foot →
        (¬ Claim.blockOk s k m b → exec i s = Claim.faults s 1 (BitVec.ofNat 64 (2 ^ 62 + a.toNat % 2 ^ 20)) 0)
        ∧ (Claim.blockOk s k m b → ∀ (x : BitVec 16) (q : Fin 16), m = some x → x.getLsbD q.val = true → s.peerAt q = none →
          (∀ j : Fin 16, j < q → x.getLsbD j.val = true → s.peerAt j ≠ none) →
          exec i s = Claim.faults s 5 (BitVec.ofNat 64 q.val) 11)
        ∧ (Claim.blockOk s k m b → (∀ x, m = some x → ∀ q : Fin 16, x.getLsbD q.val = true → s.peerAt q ≠ none) →
          (s.cur.queue.length + s.cur.active.length < 16 →
            exec i s = .next (Claim.cur t fun x => { x with queue := x.queue ++ [c] }))
          ∧ (16 ≤ s.cur.queue.length + s.cur.active.length → exec i s = .next (Claim.waits t (.engFull c))))))

/-- 08 R188 R192 R194, 15 R300: the head of an engine queue starts once its tokens are done, fewer than four commands run, and a KREQ finds an
entry of the mailbox that no request on its way will take; a copy asks for its first line. A KREQ that the access table admits stands in
the mailbox with its tag, behind what came before it and behind lower cores of its tick, and its token is done; one that the table bars
is a protection fault. A CSIG to the LS asks for its eight bytes, once, as a completion word does (model's choice, log 29), and writes its word when it is
granted them; one to global memory stores its word or adds it at once. Its eight bytes count under its buffer and its token is done. -/
def Sys2Proof.Claim.engineEvents : Prop :=
  ∀ (s : State) (i : Nat) (c : EngCmd),
    (∀ q, s.cur.queue = c :: q → (∀ t ∈ c.cons, s.cur.tokOf c.strand t = .done) → s.cur.active.length < 4 →
      (∀ k, c.kind = .kreq k → (s.ctx (2048 + k.val)).kiosk.mbox.length + Claim.coming s k < 32) →
      let t := { Claim.cur s fun x => { x with queue := q, active := x.active ++ [{ c with prog := ⟨s.reqs, 0, [], [], [], [], false⟩ }] } with
        reqs := s.reqs + 1 }
      (c.kind ≠ .copy → c.kind ≠ .copyk → exec (.engineCommandStart s.focus) s = .next t)
      ∧ (c.kind = .copy ∨ c.kind = .copyk → exec (.engineCommandStart s.focus) s = .next (t.copyGoOn s.reqs)))
    ∧ (s.cur.active[i]? = some c → c.strand = s.cur.strand →
      let done (x : Ctx) := Claim.tokenDone { x with active := x.active.eraseIdx i } c.prod
      (∀ k : Fin 128, c.kind = .kreq k → s.focus < 2048 →
        (s.admits (0x11 + k.val / 16) s.cur.engMaster 1 (some s.cur.ctxId) = true →
          (s.ctx (2048 + k.val)).kiosk.mbox.length < 32 →
          let m : Message := ⟨s.cur.coreId, BitVec.ofNat 9 s.cur.ctxWord, s.cur.grid.getD 0, c.blk,
            (s.dies.get (Fin.ofNat 4 (k.val / 32))).tick.toNat⟩
          let later (x : Message) := x.tick = m.tick ∧ m.core < x.core
          ∃ t l r, exec (.kreqMessageArrive s.focus i) s = .next t ∧ t.cur = done s.cur
            ∧ (s.ctx (2048 + k.val)).kiosk.mbox = l ++ r ∧ (t.ctx (2048 + k.val)).kiosk.mbox = l ++ m :: r
            ∧ (∀ x ∈ l, ¬ later x) ∧ ∀ x q, r = x :: q → later x)
        ∧ (s.admits (0x11 + k.val / 16) s.cur.engMaster 1 (some s.cur.ctxId) = false →
          exec (.kreqMessageArrive s.focus i) s = .next ((Claim.cur s fun x => { x with active := x.active.eraseIdx i }).takeFault
            ⟨5, BitVec.twoPow 8 c.pos.val, c.addr, BitVec.ofNat 64 k.val, BitVec.ofNat 64 (4 + 256 * (0x11 + k.val / 16))⟩)))
      ∧ (c.kind = .csig →
        let a := c.blk.getD 1 0
        let v := c.blk.getD 2 0
        let buf : Fin 64 := Fin.ofNat 64 (Claim.fld c.blk 0 8 6)
        let counted (t : State) := (t.ctxRegs s.cur.ctxId.toNat).bytes.get buf = (s.ctxRegs s.cur.ctxId.toNat).bytes.get buf + 8
        (Claim.fld c.blk 0 0 2 = 0 → a.toNat % 8 = 0 → a.toNat + 8 ≤ s.cur.foot →
          ((∀ x ∈ s.elReqs, x.job ≠ .sig c.prog.id) → exec (.csigComplete s.focus i) s = .next { s with elReqs := s.elReqs ++
            [⟨.cword, (s.dies.get (Fin.ofNat 4 ((if s.focus < 2048 then s.focus / 2 else s.focus) / 256))).tick.toNat, s.cur.engMaster,
              s.focus, some s.focus, a.toNat, 8, .sig c.prog.id⟩] })
          ∧ ((∃ x ∈ s.elReqs, x.job = .sig c.prog.id) → exec (.csigComplete s.focus i) s = .next s)
          ∧ (s.cur.ls.wf = true → (∀ j x, s.cur.active[j]? = some x → x.kind = .csig → x.prog.id = c.prog.id → j = i) →
            ∃ t m, s.sigWrite c.prog.id = t ∧ t.cur = done { s.cur with ls := m } ∧ counted t
              ∧ Claim.storesAt s.cur.ls m a.toNat (bytesOfNat 8 v.toNat)))
        ∧ (∀ p, Claim.fld c.blk 0 0 2 = 1 → s.engXlate a 8 8 2 = .ok p →
          ∃ t, exec (.csigComplete s.focus i) s = .next t ∧ t.cur = done s.cur ∧ counted t ∧ t.mem = (s.pwrite p.1 (bytesOf 8 v)).mem)
        ∧ (∀ p, Claim.fld c.blk 0 0 2 = 2 → s.engXlate a 8 8 3 true = .ok p →
          ∃ t, exec (.csigComplete s.focus i) s = .next t ∧ t.cur = done s.cur ∧ counted t
            ∧ t.mem = (s.pwrite p.1 (bytesOf 8 (BitVec.ofNat 64 (leNat (s.pread p.1 8)) + v))).mem)))

/-- 08 R190 R191, 06 R129 R130 R131 R144 R145: a copy within the LS of its context. It asks for the line of its next source element. A granted source line
gives the bytes of the elements that it and one line of the destination hold together, and the destination line is asked for. A granted
destination line takes them: every destination element holds its source's bytes, every other byte of the LS stands, and the elements
count under the buffer. After the last element a COPYK asks for its record, which holds the CRC and the number of the bytes; then the completion
word is asked for, and with it written, or with none to write, the token is done (assumption log 29). A copy of one element between global places moves it at once. -/
def Sys2Proof.Claim.copyResults : Prop :=
  ∀ (s : State) (i : Nat) (c : EngCmd), s.cur.active[i]? = some c → c.kind = .copy ∨ c.kind = .copyk → c.mask = none →
    c.strand = s.cur.strand → Claim.copyOk none c.blk → s.trap = none → s.focus < 2048 →
    (∀ j x, s.cur.active[j]? = some x → x.kind = .copy ∨ x.kind = .copyk → x.prog.id = c.prog.id → j = i) →
    let n := 2 ^ Claim.fld c.blk 0 14 2
    let es := Claim.elements c.blk
    let g := c.prog
    let buf : Fin 64 := Fin.ofNat 64 (Claim.fld c.blk 0 8 6)
    let ask (t : State) (k : ElKind) (a len : Nat) (j : ElJob) : State := { t with elReqs := t.elReqs ++
      [⟨k, (s.dies.get (Fin.ofNat 4 (s.focus / 2 / 256))).tick.toNat, s.cur.engMaster, s.focus, some s.focus, a, len, j⟩] }
    let prog (t : State) (p : CopyProg) : State := Claim.cur t fun x => { x with active := x.active.set i { c with prog := p } }
    let fits (e : Word64 × Word64) := e.1.toNat % n = 0 ∧ e.2.toNat % n = 0 ∧ e.1.toNat + n ≤ s.cur.foot ∧ e.2.toNat + n ≤ s.cur.foot
    let still := ∀ x ∈ s.elReqs, x.job ≠ .copyRead g.id ∧ x.job ≠ .copyWrite g.id ∧ x.job ≠ .copyRec g.id ∧ ∀ bs, x.job ≠ .word g.id bs
    (Claim.fld c.blk 0 0 2 = 0 → Claim.fld c.blk 0 2 2 = 0 →
      (∀ e, still → es[g.at_]? = some e → fits e →
        exec (.copyComplete s.focus i) s = .next (ask s .copy (e.1.toNat / 64 * 64) 64 (.copyRead g.id)))
      ∧ (∀ e, g.old = [] → es[g.at_]? = some e → fits e →
        (∀ x ∈ es, ∀ y ∈ es, ∀ b, Claim.within b x.1.toNat n → ¬ Claim.within b y.2.toNat n) →
        ∃ (t : State) (l : List (Word64 × Word64)), s.copyRead g.id = t
          ∧ (∃ r, es.drop g.at_ = e :: l ++ r) ∧ (∀ x ∈ l, x.1.toNat / 64 = e.1.toNat / 64 ∧ x.2.toNat / 64 = e.2.toNat / 64)
          ∧ t.elReqs = (ask s .copy (e.2.toNat / 64 * 64) 64 (.copyWrite g.id)).elReqs
          ∧ ∃ p, t.cur = (prog s p).cur ∧ p.at_ = g.at_ ∧ p.left = [s.focus]
            ∧ p.got = (e :: l).map fun x => (x.2.toNat, s.cur.ls.readN x.1.toNat n)))
    ∧ (Claim.fld c.blk 0 2 2 = 0 → g.left = [s.focus] → (g.got.map Prod.fst).Nodup → (∀ x ∈ g.got, x.1 % n = 0 ∧ x.2.length = n) → s.cur.ls.wf = true → g.got ≠ [] →
        es[g.at_ + g.got.length]? = none → c.kind = .copy →
        ∃ t m, s.copyWrite g.id s.focus = t
          ∧ (∀ x ∈ g.got, ∀ j, j < n → m.read (x.1 + j) = x.2.getD j 0)
          ∧ (∀ b, (∀ x ∈ g.got, ¬ Claim.within b x.1 n) → m.read b = s.cur.ls.read b) ∧ m.wf = true
          ∧ t.cur = { (prog s { g with at_ := g.at_ + g.got.length, got := [], left := [], moved := [] }).cur with ls := m }
          ∧ (t.ctxRegs s.cur.ctxId.toNat).bytes.get buf
              = (s.ctxRegs s.cur.ctxId.toNat).bytes.get buf + BitVec.ofNat 64 (n * g.got.length))
    ∧ (still → es.length ≤ g.at_ →
      let cw := Claim.fld c.blk 4 0 20
      let ended := Claim.cur s fun x => Claim.tokenDone { x with active := x.active.eraseIdx i } c.prod
      (c.kind = .copyk → g.rec_ = false →
        let a := Claim.fld c.blk 4 32 20
        (a % 16 = 0 → a + 16 ≤ s.cur.foot →
          exec (.copyComplete s.focus i) s = .next (ask s .copy a 16 (.copyRec g.id)))
        ∧ (s.cur.ls.wf = true → ∃ m, s.copyRec g.id = { prog s { g with rec_ := true } with cur := { (prog s { g with rec_ := true }).cur with ls := m } }
          ∧ Claim.storesAt s.cur.ls m a (bytesOfNat 8 (crc64 g.moved).toNat ++ bytesOfNat 8 (g.moved.length % 2 ^ 48))))
      ∧ (c.kind = .copy ∨ g.rec_ = true →
        ((c.blk.getD 0 0).getLsbD 4 = false → exec (.copyComplete s.focus i) s = .next ended)
        ∧ ((c.blk.getD 0 0).getLsbD 4 = true → cw % 8 = 0 → cw + 8 ≤ s.cur.foot →
          exec (.copyComplete s.focus i) s = .next (ask s .cword cw 8 (.word g.id (bytesOfNat 8 (c.blk.getD 3 0).toNat))))
        ∧ (s.cur.grid ≠ none → s.cur.ls.wf = true → ∀ age bs, ∃ m,
          s.elRun ⟨.cword, age, s.cur.engMaster, s.focus, some s.focus, cw, 8, .word g.id bs⟩ = { ended with cur := { ended.cur with ls := m } }
            ∧ Claim.storesAt s.cur.ls m cw bs)))
    ∧ (Claim.fld c.blk 0 0 2 = 1 → Claim.fld c.blk 0 2 2 = 1 → still → c.kind = .copy → g.at_ = 0 → g.old = [] → g.left = [] →
      (c.blk.getD 0 0).getLsbD 4 = false → ∀ e p q, es = [e] → s.engXlate e.1 n n 1 = .ok p → s.engXlate e.2 n n 2 = .ok q →
      ∃ t, exec (.copyComplete s.focus i) s = .next t ∧ t.mem = (s.pwrite q.1 (s.pread p.1 n)).mem
        ∧ t.cur = Claim.tokenDone { s.cur with active := s.cur.active.eraseIdx i } c.prod)

/-- 08 R190, 06 R129 R131 R145: the other copies. Between global places, all elements of a copy whose sources no destination overlaps move: each
destination holds what its source held. From the LS to global memory, a granted source line gives the bytes of the elements that it holds, at most 64,
and they go to their places at once. From global memory to the LS, the elements that one destination line holds are read, and that line is asked for.
A copy with a core mask asks for the destination line in the LS of every core that the mask names, and each line that is granted takes the
elements; once all have, the copy goes on. -/
def Sys2Proof.Claim.wideCopies : Prop :=
  ∀ (s : State) (i : Nat) (c : EngCmd), s.cur.active[i]? = some c → c.kind = .copy →
    Claim.copyOk c.mask c.blk → s.trap = none → s.focus < 2048 → c.prog.old = [] →
    (∀ j x, s.cur.active[j]? = some x → x.kind = .copy ∨ x.kind = .copyk → x.prog.id = c.prog.id → j = i) →
    let n := 2 ^ Claim.fld c.blk 0 14 2
    let es := Claim.elements c.blk
    let g := c.prog
    let asked (key a : Nat) : ElReq := ⟨.copy, (s.dies.get (Fin.ofNat 4 (key / 2 / 256))).tick.toNat, s.cur.engMaster, key, some s.focus,
      a, 64, .copyWrite g.id⟩
    let still := ∀ x ∈ s.elReqs, x.job ≠ .copyRead g.id ∧ x.job ≠ .copyWrite g.id ∧ x.job ≠ .copyRec g.id ∧ ∀ bs, x.job ≠ .word g.id bs
    let inLs (a : Word64) := a.toNat % n = 0 ∧ a.toNat + n ≤ s.cur.foot
    let apart (x y : Word64 → Nat) := ∀ e ∈ es, ∀ d ∈ es, ∀ b, Claim.within b (x e.1) n → ¬ Claim.within b (y d.2) n
    ∀ pl ql : Word64 → Nat,
    (Claim.fld c.blk 0 0 2 = 1 → Claim.fld c.blk 0 2 2 = 1 → still → g.at_ = 0 → g.got = [] → g.left = [] → c.mask = none →
      c.strand = s.cur.strand → (c.blk.getD 0 0).getLsbD 4 = false → apart pl ql →
      (∀ e ∈ es, (∃ b, s.engXlate e.1 n n 1 = .ok (pl e.1, b)) ∧ (∃ b, s.engXlate e.2 n n 2 = .ok (ql e.2, b))
        ∧ s.ctrFunc (ql e.2) = none) →
      ∃ t, exec (.copyComplete s.focus i) s = .next t
        ∧ t.mem = (es.foldl (fun u e => u.pwrite (ql e.2) (s.pread (pl e.1) n)) s).mem
        ∧ t.cur = Claim.tokenDone { s.cur with active := s.cur.active.eraseIdx i } c.prod)
    ∧ (Claim.fld c.blk 0 0 2 = 0 → Claim.fld c.blk 0 2 2 = 1 → g.at_ < es.length →
      (∀ e ∈ es, inLs e.1 ∧ ∃ b, s.engXlate e.2 n n 2 = .ok (ql e.2, b)) →
      ∃ (t : State) (l r : List (Word64 × Word64)) (p : CopyProg), s.copyRead g.id = t ∧ es.drop g.at_ = l ++ r ∧ l ≠ [] ∧ l.length ≤ 64
        ∧ (∀ x ∈ l, x.1.toNat / 64 = ((es.getD g.at_ (0, 0)).1).toNat / 64)
        ∧ (∀ x, r.head? = some x → l.length < 64 → x.1.toNat / 64 ≠ ((es.getD g.at_ (0, 0)).1).toNat / 64)
        ∧ t.mem = (l.foldl (fun u x => u.pwrite (ql x.2) (s.cur.ls.readN x.1.toNat n)) s).mem ∧ t.cur.ls = s.cur.ls
        ∧ t.cur.active = s.cur.active.set i { c with prog := p } ∧ p.at_ = g.at_ + l.length ∧ p.got = [])
    ∧ (Claim.fld c.blk 0 0 2 = 1 → Claim.fld c.blk 0 2 2 = 0 → still → g.at_ < es.length → c.mask = none →
      (∀ e ∈ es, inLs e.2 ∧ ∃ b, s.engXlate e.1 n n 1 = .ok (pl e.1, b)) →
      ∃ (t : State) (l r : List (Word64 × Word64)) (p : CopyProg), exec (.copyComplete s.focus i) s = .next t ∧ es.drop g.at_ = l ++ r ∧ l ≠ []
        ∧ (∀ x ∈ l, x.2.toNat / 64 = ((es.getD g.at_ (0, 0)).2).toNat / 64)
        ∧ (∀ x, r.head? = some x → l.length < 64 → x.2.toNat / 64 ≠ ((es.getD g.at_ (0, 0)).2).toNat / 64)
        ∧ t = { s with
            elReqs := s.elReqs ++ [asked s.focus (((es.getD g.at_ (0, 0)).2).toNat / 64 * 64)]
            cur := { s.cur with active := s.cur.active.set i { c with prog := p } } }
        ∧ p.at_ = g.at_ ∧ p.left = [s.focus] ∧ p.got = l.map fun x => (x.2.toNat, s.pread (pl x.1) n))
    ∧ ∀ (m : BitVec 16) (at_ : Fin 16 → Nat), c.mask = some m → m ≠ 0 → Claim.fld c.blk 0 2 2 = 0 →
      (∀ q : Fin 16, m.getLsbD q.val = true → s.peerAt q = some ⟨at_ q, none⟩ ∧ at_ q < 2048) →
      let keys := ((List.finRange 16).filter fun q => m.getLsbD q.val).map at_
      (Claim.fld c.blk 0 0 2 = 1 → still → g.at_ < es.length → (∀ e ∈ es, inLs e.2 ∧ ∃ b, s.engXlate e.1 n n 1 = .ok (pl e.1, b)) →
        ∃ t p, exec (.copyComplete s.focus i) s = .next t ∧ t.cur.active = s.cur.active.set i { c with prog := p } ∧ p.left = keys
          ∧ t.elReqs = s.elReqs ++ keys.map fun k => asked k (((es.getD g.at_ (0, 0)).2).toNat / 64 * 64))
      ∧ ∀ key : Nat, key ∈ g.left → (∃ k ∈ g.left, k ≠ key) → (s.ctx key).ls.wf = true → (g.got.map Prod.fst).Nodup →
        (∀ x ∈ g.got, x.1 % n = 0 ∧ x.2.length = n) →
        ∃ (t : State) (l : Memory), s.copyWrite g.id key = t
          ∧ (∀ x ∈ g.got, ∀ j, j < n → l.read (x.1 + j) = x.2.getD j 0)
          ∧ (∀ b, (∀ x ∈ g.got, ¬ Claim.within b x.1 n) → l.read b = (s.ctx key).ls.read b)
          ∧ (t.ctx key).ls = l ∧ (∀ k, k ≠ key → (t.ctx k).ls = (s.ctx k).ls)
          ∧ t.cur.active = s.cur.active.set i { c with prog := { g with left := g.left.filter (· != key) } } ∧ t.elReqs = s.elReqs

/-- 08 R193, 26 R375 R376: the fixed tree pairs its contributions one, two and four places apart. A collective of a group of one rank
writes to RECV what SEND holds, and its token is done; when the switch aborts one of an elastic grid, the grid ends with a
collective-incomplete fault. -/
def Sys2Proof.Claim.collectives : Prop :=
  (∀ (op : Nat → Nat → Nat) (a b c d e f g : Nat), collTree op 13 [a, b, c, d, e, f, g] = op (op (op a b) (op c d)) (op (op e f) g))
  ∧ ∀ (s : State) (i grid : Nat) (c : EngCmd) (e : Word64 × Word64), s.cur.active[i]? = some c → c.kind = .coll →
    s.cur.grid = some grid → s.group? (Claim.fld c.blk 0 32 32) = some e → s.rankList e = .ok [(s.cur.gid, 0)] →
    s.collAt grid s.cur.gid (Claim.fld c.blk 0 32 32) = some (s.focus, i, c) →
    let n := collSize (Claim.fld c.blk 0 2 4)
    let count := (c.blk.getD 1 0).toNat
    (∀ bs t peers, (c.blk.getD 0 0).getLsbD 8 = false → (Claim.fld c.blk 0 0 2 = 3 → Claim.fld c.blk 4 0 32 = 0) →
      s.engReadRange (c.blk.getD 2 0) n count = .ok bs →
      s.engWriteRange (c.blk.getD 3 0) n (Fin.ofNat 64 (Claim.fld c.blk 0 16 6)) ((List.range count).map fun k => Claim.elem bs n k)
        = .ok t →
      exec (.collectiveComplete s.focus i peers) s = .next (t.cmdDone i c))
    ∧ (s.cur.elastic = true → e.1.getLsbD 13 = true → exec (.collectiveAbort s.focus i) s
        = .next ((s.cmdDone i c).takeFault ⟨13, BitVec.twoPow 8 c.pos.val, c.addr, BitVec.ofNat 64 (Claim.fld c.blk 0 32 32), 1⟩))

/-- 08 R193: a collective of a group whose ranks all stand on this package. Every rank's block must agree with the others in OP, TYPE, RED, COUNT and GROUP,
and a broadcast in ROOT; then each rank receives, in rank order: the reduction of all ranks' elements, its own share of that, all elements in
rank order, or the root's elements; its completion word is asked for, and its token is done. Where two ranks disagree, both commands end and the
lower core's collective-incomplete fault is recorded. -/
def Sys2Proof.Claim.rankedCollectives : Prop :=
  ∀ (s : State) (i grid : Nat) (c : EngCmd) (e : Word64 × Word64) (ranks : List (Nat × Nat)) (peers : List PeerRank)
    (rs : List (Nat × Nat × EngCmd × List Byte)),
    s.cur.active[i]? = some c → c.kind = .coll → s.cur.grid = some grid → s.group? (Claim.fld c.blk 0 32 32) = some e →
    s.rankList e = .ok ranks → (s.cur.gid, 0) ∈ ranks → (∀ r ∈ ranks, r.2 = 0) → rs.length = ranks.length →
    (∀ q x, rs[q]? = some x →
      s.collAt grid (ranks.getD q (0, 0)).1 (Claim.fld c.blk 0 32 32) = some (x.1, x.2.1, x.2.2.1)) →
    let gid := Claim.fld c.blk 0 32 32
    let agree (b : List Word64) := Claim.fld b 0 0 8 = Claim.fld c.blk 0 0 8 ∧ Claim.fld b 0 32 32 = gid ∧ b.getD 1 0 = c.blk.getD 1 0
      ∧ (Claim.fld c.blk 0 0 2 = 3 → Claim.fld b 4 0 32 = Claim.fld c.blk 4 0 32)
    let op := Claim.fld c.blk 0 0 2
    let size := collSize (Claim.fld c.blk 0 2 4)
    let count := (c.blk.getD 1 0).toNat
    let sends (q : Nat) := if op = 3 ∧ q ≠ Claim.fld c.blk 4 0 32 then 0 else if op = 1 then ranks.length * count else count
    let reduced (k : Nat) := collTree (collOp (Claim.fld c.blk 0 2 4) (Claim.fld c.blk 0 6 2)) 13 (rs.map fun x => Claim.elem x.2.2.2 size k)
    let values (q : Nat) : List Nat :=
      if op = 0 then (List.range count).map reduced
      else if op = 1 then (List.range count).map fun k => reduced (q * count + k)
      else if op = 2 then rs.flatMap fun x => (List.range count).map fun k => Claim.elem x.2.2.2 size k
      else (List.range count).map fun k => Claim.elem ((rs[Claim.fld c.blk 4 0 32]?.map fun x => x.2.2.2).getD []) size k
    let receives (u : State) (x : (Nat × Nat × EngCmd × List Byte) × Nat) : State := u.onKey x.1.1 fun u =>
      let d := x.1.2.2.1
      match u.engWriteRange (d.blk.getD 3 0) size (Fin.ofNat 64 (Claim.fld d.blk 0 16 6)) (values x.2) with
      | .error f => (u.dropCmd x.1.2.1).cmdFault d f
      | .ok v =>
        if (d.blk.getD 0 0).getLsbD 8 then
          match v.wordPut [⟨v.focus, none⟩] (BitVec.ofNat 64 (Claim.fld d.blk 6 0 20)) (d.blk.getD 5 0) with
          | .error f => (v.dropCmd x.1.2.1).cmdFault d f
          | .ok w => w.cmdDone x.1.2.1 d
        else v.cmdDone x.1.2.1 d
    ((∀ x ∈ rs, agree x.2.2.1.blk) →
      (∀ q x, rs[q]? = some x → (s.focusOn x.1).engReadRange (x.2.2.1.blk.getD 2 0) size (sends q) = .ok x.2.2.2) →
      exec (.collectiveComplete s.focus i peers) s = .next (rs.zipIdx.foldl receives s))
    ∧ ∀ a b : Nat × Nat × EngCmd × List Byte, rs = [a, b] → ¬ (agree a.2.2.1.blk ∧ agree b.2.2.1.blk) →
      let x := if b.1 < a.1 then b else a
      exec (.collectiveComplete s.focus i peers) s = .next
        (((s.onKey a.1 fun u => u.cmdDone a.2.1 a.2.2.1).onKey b.1 fun u => u.cmdDone b.2.1 b.2.2.1).onKey x.1
          fun u => u.cmdFault x.2.2.1 (13, BitVec.ofNat 64 gid, 0))

/-- 14 R289 R290 R291, 06 R142, 23 R339: XSEND in a timetabled grid, with its tokens done, a legal block and room at the receiver, reads its payload
in the tick after and completes its token in the one after that; it waits for its tokens and for room, and a receiver that the cohort does not have is
a protection fault, with bits [15:0] of the block or the slot number in detail word 0 (model's choice, log 31). XRECV takes a Full slot's payload, which its register holds two ticks on, and waits for one otherwise. Both are illegal in an elastic
grid and on a kiosk core. -/
def Sys2Proof.Claim.payloadInstructions : Prop :=
  ∀ (o : EngOp) (g : Guard) (d : VReg) (b : Fin 64) (off : BitVec 16) (s : State), s.on o.g = true → s.on g = true →
    (s.cur.elastic = true ∨ s.cur.kind ≠ .compute →
      exec (.xsend o) s = Claim.faults s 1 0 0 ∧ exec (.xrecv g d b off) s = Claim.faults s 1 0 0)
    ∧ (s.cur.elastic = false → s.cur.kind = .compute →
      (let a := s.rs o.cblk
       let w := wordsOfBytes 4 (s.cur.lsView.readN a.toNat 32)
       let src := Claim.fld w 1 0 20
       let rcv := (s.cur.grid.bind (s.grids.get? ·)).bind (·.receiver w)
       let t := Claim.pends (Claim.plus s (Claim.ebpOf s [o.cblk] [])) o.prod
       let asked := Claim.pends (Claim.plus (Claim.asks s a.toNat 32 false) (Claim.ebpOf s [o.cblk] [])) o.prod
       let c (b : List Word64) : EngCmd :=
         ⟨.xsend, s.cur.strand, b, a.toNat, o.prod, o.cons, none, s.issue.addr, s.issue.pos, ⟨0, 0, [], [], [], [], false⟩⟩
       Claim.tokensOk s.cur o →
       ((∃ x ∈ o.cons, s.cur.regs.tok.get x ≠ .done) → exec (.xsend o) s = .next (Claim.waits t (.xsend (c []))))
       ∧ ((∀ x ∈ o.cons, s.cur.regs.tok.get x = .done) → a.toNat % 32 = 0 → a.toNat + 32 ≤ s.cur.foot →
         (4 ≤ s.unread w → exec (.xsend o) s = .next (Claim.waits asked (.xsend (c w))))
         ∧ (s.unread w < 4 → rcv = none → exec (.xsend o) s = Claim.faults s 5 (BitVec.ofNat 64 (Claim.fld w 0 0 16)) 7)
         ∧ (s.unread w < 4 → rcv ≠ none → (rcv = some none → s.admits (0x0D + s.cur.die) s.cur.master 1 (some s.cur.ctxId) = true) →
           src % 64 = 0 → src + 256 ≤ s.cur.foot →
           exec (.xsend o) s = .next (Claim.later asked [(1, .payload w), (2, .tokenDone s.cur.strand o.prod)]))))
      ∧ (let n := s.rs (.s b) + off.signExtend 64
         let slot : Fin 64 := Fin.ofNat 64 n.toNat
         (63 < n.toNat → exec (.xrecv g d b off) s = Claim.faults s 5 n 7)
         ∧ (n.toNat ≤ 63 → (s.cur.slots.get slot).1 = .full →
             let v := (s.cur.slots.get slot).2
             exec (.xrecv g d b off) s = .next (Claim.out (Claim.cur s fun c => { c with slots := c.slots.set slot (.read, v) })
               (.land (Claim.vDst s d) v 2)))
         ∧ (n.toNat ≤ 63 → (s.cur.slots.get slot).1 ≠ .full → exec (.xrecv g d b off) s
             = .next (Claim.waits s (.xrecv (Claim.vDst s d) slot)))))

/-- The entry of a slot schedules the pair (26 R372 R373). -/
def Sys2Proof.Claim.slotOf (p : Port) (n q m : Nat) : Prop :=
  (p.entry n).toNat % 2 = 1 ∧ (p.entry n).toNat / 2 ^ 8 % 2 ^ 8 = q % 2 ^ 8 ∧ (p.entry n).toNat / 2 ^ 16 % 2 ^ 8 = m % 2 ^ 8

/-- 14 R289 R290 R291 R292, 26 R372 R373 R374: a payload that is read enters the fabric of its package, or waits at the port of its die that has a slot
for its pair: that at which payloads of the pair stand, else the lowest that works and has a slot for it (model's choice, log 17). A port carries in a
scheduled slot the oldest payload of its pair, unless a flit of the pair awaits retransmission; what then still waits of the pair is late. In a slack slot
it carries a retransmission, else the oldest payload that is late or whose pair has no slot. It carries none while it trains or has failed, when a scheduled
slot still makes its pair late; the flit slots go round. A payload that comes from another package enters the fabric, and the news that one has been read makes
room at its sender. The data of an XRECV comes nearer each tick and reaches its register. -/
def Sys2Proof.Claim.portSlots : Prop :=
  (∀ (s : State) (p : LsPend) (w : List Word64) (gid : Nat) (x : Grid), p.op = .payload w → s.cur.grid = some gid → s.grids.get? gid = some x →
    x.fault = none →
    let v := Claim.rowOf (s.cur.lsView.readN (Claim.fld w 1 0 20) 256)
    let slot : Fin 64 := Fin.ofNat 64 (Claim.fld w 0 16 6)
    (∀ dst, x.receiver w = some (some dst) → ∃ t, s.runLs p = .ok t ∧ t.fabric = s.fabric ++ [⟨gid, s.focus, dst, slot, v⟩] ∧ t.cur = s.cur)
    ∧ (∀ me m, x.rank s.cur.gid = some (m, me) → x.receiver w = some none →
      let f : Flit := ⟨gid, s.focus, me, Claim.fld w 0 8 8, Claim.fld w 0 0 8, slot, v, false, 0⟩
      let port := s.portFor s.cur.die me (Claim.fld w 0 8 8)
      ∃ t, s.runLs p = .ok t ∧ t.cur = s.cur ∧ t.fabric = s.fabric ∧ (t.port port).wait = (s.port port).wait ++ [f]
        ∧ ∀ q, q ≠ port → t.port q = s.port q))
  ∧ (∀ p : Port,
    let stops := p.failed = true ∨ p.training = true
    let hit (f : Flit) := Claim.slotOf p p.next f.q f.member
    let goes (f : Flit) := hit f ∧ ∀ x ∈ p.again, ¬ (x.q = f.q ∧ x.member = f.member)
    let late (f : Flit) := f.late = true ∨ ∀ e ∈ p.slots, ¬ Claim.slotOf p e.1 f.q f.member
    let marks (l r : List Flit) := r.length = l.length ∧ ∀ (k : Nat) (f : Flit), l[k]? = some f →
      (hit f → r[k]? = some { f with late := true }) ∧ (¬ hit f → r[k]? = some f)
    p.carry.next = (p.next + 1) % 4096
    ∧ (stops → p.carry.last = none ∧ p.carry.again = p.again ∧ (p.next % 16 = 15 → p.carry.wait = p.wait)
        ∧ (p.next % 16 ≠ 15 → marks p.wait p.carry.wait))
    ∧ (¬ stops → p.next % 16 = 15 →
      (∀ f l, p.again = f :: l → p.carry.last = some f ∧ p.carry.again = l ∧ p.carry.wait = p.wait)
      ∧ (∀ a f b, p.again = [] → p.wait = a ++ f :: b → late f → (∀ x ∈ a, ¬ late x) →
        p.carry.last = some f ∧ p.carry.again = [] ∧ p.carry.wait = a ++ b)
      ∧ (p.again = [] → (∀ x ∈ p.wait, ¬ late x) → p.carry.last = none ∧ p.carry.again = [] ∧ p.carry.wait = p.wait))
    ∧ (¬ stops → p.next % 16 ≠ 15 → p.carry.again = p.again
      ∧ (∀ a f b, p.wait = a ++ f :: b → goes f → (∀ x ∈ a, ¬ goes x) → p.carry.last = some f ∧ marks (a ++ b) p.carry.wait)
      ∧ ((∀ x ∈ p.wait, ¬ goes x) → p.carry.last = none ∧ marks p.wait p.carry.wait)))
  ∧ (∀ (s : State) (die q m k : Nat), k < 12 →
    let stands (k : Nat) := ∃ f ∈ (s.port (12 * die + k)).wait ++ (s.port (12 * die + k)).again ++ (s.port (12 * die + k)).last.toList,
      f.q = q ∧ f.member = m
    let has (k : Nat) := (s.port (12 * die + k)).failed = false
      ∧ ∃ e ∈ (s.port (12 * die + k)).slots, Claim.slotOf (s.port (12 * die + k)) e.1 q m
    (stands k → (∀ j, j < k → ¬ stands j) → s.portFor die q m = 12 * die + k)
    ∧ ((∀ j, j < 12 → ¬ stands j) → has k → (∀ j, j < k → ¬ has j) → s.portFor die q m = 12 * die + k))
  ∧ (∀ (s : State) (port gid m q dst : Nat) (slot : Fin 64) (v : Vec) (x : Grid), s.grids.get? gid = some x → x.fault = none →
    x.members.length ≤ m → m < x.kcb.dies * x.kcb.pkgs → dst ∈ x.keys → (s.port port).training = false → (s.port port).failed = false →
    s.incoming port gid m q dst slot v = { s with fabric := s.fabric ++ [⟨gid, 4096 + 256 * m + q, dst, slot, v⟩] })
  ∧ (∀ (s : State) (gid src m q : Nat) (slot : Fin 64) (x : Grid), s.grids.get? gid = some x →
    ∃ t y, s.farRead gid src m q slot = t ∧ t.grids.get? gid = some y ∧ y.far = x.far.erase (src, m, q, slot) ∧ t.cur = s.cur)
  ∧ ∀ (c : Ctx) (d : Option (Fin 640)) (v : Vec) (a : Word64) (pos : Fin 8) (n k : Nat), c.outst = [⟨.land d v k, a, pos, n, none⟩] →
    (2 ≤ k → c.landStep = { c with outst := [⟨.land d v (k - 1), a, pos, n, none⟩] })
    ∧ (k = 1 → c.landStep = match d with
      | some r => { c with outst := [], regs := { c.regs with v := c.regs.v.set r v } }
      | none => { c with outst := [] })

/-- 14 R289 R290, 06 R142, 02 R42: a payload in the fabric reaches its slot, of the resident context or of the one that its pre-empted grid has saved; the
slot is Full with its bytes. It waits while the slot is Full or an earlier payload of the same sender waits for it; a second sender to a slot is a
protection fault at the receiver. -/
def Sys2Proof.Claim.payloadLanding : Prop :=
  ∀ (s : State) (i : Nat) (p : Payload) (g : Grid), s.fabric[i]? = some p → s.grids.get? p.grid = some g →
    (∀ x ∈ s.fabric.take i, ¬ (x.grid = p.grid ∧ x.src = p.src ∧ x.dst = p.dst ∧ x.slot = p.slot)) →
    let sender := g.senders.get? (64 * p.dst + p.slot.val)
    let fill (c : Ctx) : Ctx := { c with slots := c.slots.set p.slot (.full, p.data) }
    ((sender = none ∨ sender = some p.src) →
      ((s.ctx p.dst).grid = some p.grid → ((s.ctx p.dst).slots.get p.slot).1 ≠ .full →
        ∃ t, exec (.payloadLand i) s = .next t ∧ t.fabric = s.fabric.eraseIdx i ∧ t.ctx p.dst = fill (s.ctx p.dst)
          ∧ ∀ k, k ≠ p.dst → t.ctx k = s.ctx k)
      ∧ ((s.ctx p.dst).grid = some p.grid → ((s.ctx p.dst).slots.get p.slot).1 = .full → exec (.payloadLand i) s = .next s)
      ∧ (∀ c, (s.ctx p.dst).grid ≠ some p.grid → g.saved.get? p.dst = some c → (c.slots.get p.slot).1 ≠ .full →
        ∃ t y, exec (.payloadLand i) s = .next t ∧ t.fabric = s.fabric.eraseIdx i ∧ t.grids.get? p.grid = some y
          ∧ y.saved.get? p.dst = some (fill c) ∧ ∀ k, t.ctx k = s.ctx k))
    ∧ (∀ q, sender = some q → q ≠ p.src → p.dst = s.focus → s.cur.grid = some p.grid → exec (.payloadLand i) s
        = .next (({ s with fabric := s.fabric.eraseIdx i } : State).takeFault ⟨5, 0, 0, BitVec.ofNat 64 p.slot.val, 7⟩))

/-- 12 R249 R262: WSAVE stores the header, 56 zero bytes and the first entries in its tick and the last 64 bytes in the next; WLOAD of a
legal image of its own context reads it over the same ticks and lands it at 8 ticks (how the last 64 bytes move and the witness lands is said with the
late accesses of O38). A malformed header is a stale-witness fault, reason 5, and another context's witness reason 4. An offset off 64 bytes is
a misalignment fault, and an image beyond the footprint a protection fault, reason 2. -/
def Sys2Proof.Claim.witnessSpills : Prop :=
  (∀ (g : Guard) (k : Fin 8) (a : Addr) (s : State), s.on g = true →
    ((s.lsAddr a).toNat % 64 ≠ 0 → exec (.wsave g k a) s = Claim.faults s 7 (s.lsAddr a) 1
      ∧ exec (.wload g k a) s = Claim.faults s 7 (s.lsAddr a) 0)
    ∧ ((s.lsAddr a).toNat % 64 = 0 → s.cur.foot < (s.lsAddr a).toNat + 1088 → exec (.wsave g k a) s = Claim.faults s 5 (s.lsAddr a) 2
      ∧ exec (.wload g k a) s = Claim.faults s 5 (s.lsAddr a) 2))
  ∧ ∀ (g : Guard) (k : Fin 8) (a : Addr) (s : State), s.on g = true → Claim.fits s a 1088 64 →
    let x := (s.lsAddr a).toNat
    let w := s.cur.regs.w.get k
    let head : Word64 := if w.live then
      BitVec.ofNat 64 (w.op.toNat + 2 ^ 4 * w.axis.toNat + 2 ^ 8 * w.cnt.toNat + 2 ^ 15 + 2 ^ 16 * w.gen.toNat + 2 ^ 32 * w.ctx.toNat)
      else BitVec.ofNat 64 (2 ^ 16 * w.gen.toNat)
    let image := bytesOfNat 8 head.toNat ++ List.replicate 56 0
      ++ (List.finRange 16).flatMap fun i => (List.finRange 64).map fun j => (w.e.get i).get j
    let busy (t : State) := Claim.cur t fun c => { c with lBusy := 2 }
    (s.cur.ls.wf = true → ∃ m : Memory, Claim.storesAt s.cur.ls m x (image.take 1024) ∧ m.wf = true
      ∧ exec (.wsave g k a) s = .next (busy (Claim.later (Claim.cur (Claim.asks s x 1024 true) fun c => { c with ls := m })
          [(1, .witSaveTail (x + 1024) (image.drop 1024))])))
    ∧ (let bs := s.cur.lsView.readN x 1024
       let h := BitVec.ofNat 64 (Claim.elem bs 8 0)
       let n := h.toNat
       let malformed := n / 2 ^ 6 % 2 ^ 2 ≠ 0 ∨ n / 2 ^ 40 ≠ 0
         ∨ (h.getLsbD 15 = true ∧ witShape (n % 2 ^ 4) (n / 2 ^ 4 % 2 ^ 2) (n / 2 ^ 8 % 2 ^ 7) = false)
       let foreign := h.getLsbD 15 = true ∧ n / 2 ^ 32 % 2 ^ 8 ≠ s.cur.ctxId.toNat
       (malformed → exec (.wload g k a) s = Claim.faults s 8 (BitVec.ofNat 64 (k.val + 8 + 16 * 5)) h)
       ∧ (¬ malformed → foreign → exec (.wload g k a) s = Claim.faults s 8 (BitVec.ofNat 64 (k.val + 8 + 16 * 4)) h)
       ∧ (¬ malformed → ¬ foreign → exec (.wload g k a) s
          = .next (busy (Claim.later (Claim.asks s x 1024 false) [(1, .witTail k (x + 1024) bs)]))))


/-! ### The circuit engine (11) -/

namespace Sys2Proof.Claim
open Machine

/-- The cluster whose engine the context uses (01 R13). -/
def cluster (s : State) : Nat := s.cur.gid / 16

/-- Commands that the engine holds (11 R229). -/
def inEngine (e : Engine) : Nat := e.queue.length + (if e.loading = none then 0 else 1) + (if e.pass = none then 0 else 1)

/-- A command of the syllable: it enters the queue two ticks on (11 R229). -/
def circCmd (s : State) (k : CircKind) (p : Option (Fin 63)) (cs : List (Fin 63)) : CircCmd :=
  ⟨k, s.focus, s.cur.strand, 2, p, cs, s.issue.addr, s.issue.pos⟩

/-- An engine changes. -/
def engine (s : State) (cl : Nat) (e : Engine) : State := { s with engines := s.engines.set cl e }

/-- The queue with a command more: behind those before it, and before those of higher contexts that came in its tick (11 R229). -/
def joined (c : CircCmd) (l : List CircCmd) : List CircCmd :=
  let before (x : CircCmd) : Bool := decide (x.wait = c.wait ∧ c.key < x.key)
  l.takeWhile (!before ·) ++ c :: l.dropWhile (!before ·)

/-- The access table admits the core's commands at its cluster's engine (23 R338 R339). -/
abbrev mayCommand (s : State) : Prop := s.admits (0x40 + cluster s) s.cur.master 1 (some s.cur.ctxId) = true

/-- A command enters the queue of the cluster's engine, or waits while 32 commands are there (11 R229). -/
def enters (s : State) (c : CircCmd) (read : Bool) : State :=
  let e := s.engine (cluster s)
  if inEngine e < 32 then
    let t := engine s (cluster s) { e with queue := joined c e.queue }
    if read then waits t (.circuit none) else t
  else waits s (.circFull c)

/-- 48-bit lanes of LS bytes (11 R243). -/
def lanes48 (bs : List Byte) : Vector (BitVec 48) 64 := Vector.ofFn fun k => BitVec.ofNat 48 (elem bs 6 k.val)

/-- What a circuit syllable other than CLOAD does at issue: its guard, the condition under which it is legal, the state it leaves, its
command, its tokens, and whether it waits for a value (11 R242 R243 R244 R245). -/
def circRow (s : State) (i : Instr) : Option (Guard × Prop × State × CircKind × Option (Fin 63) × List (Fin 63) × Bool) :=
  let at1 (b : Fin 64) (off : BitVec 16) : Word64 := s.rs (.s b) + off.signExtend 64
  let ls (a : Addr) (n : Nat) : List Byte := s.cur.lsView.readN (s.lsAddr a).toNat n
  match i with
  | .cleaf g (.f32 v b off) =>
    some (g, True, plus s (ebpOf s [] [v]), .cleaf (at1 b off) (Vector.ofFn fun k => sefOfF32 ((s.rv v).get k)), none, [], false)
  | .cleaf g (.sef v b off) =>
    let r (k : Fin 64) : Sef × Ev := (Sef.ofPair ((s.rv64 true v).get k)).norm
    some (g, True, plus s (ebpOf s [] [v] ++ evOf s (Ev.union ((List.finRange 64).map fun k => (r k).2))),
      .cleaf (at1 b off) (Vector.ofFn fun k => (r k).1.toStore), none, [], false)
  | .cleaf g (.lf32 l a) =>
    some (g, fits s a 256 64, plus (asks s (s.lsAddr a).toNat 256 false) (ebpOf s [l] []),
      .cleaf (s.rs l) (Vector.ofFn fun k => sefOfF32 ((rowOf (ls a 256)).get k)), none, [], false)
  | .cleaf g (.lsef l a) =>
    some (g, fits s a 384 64, plus (asks s (s.lsAddr a).toNat 384 false) (ebpOf s [l] []), .cleaf (s.rs l) (lanes48 (ls a 384)),
      none, [], false)
  | .ceval o =>
    let a := s.rs o.cblk
    let b := wordsOfBytes 4 (s.cur.lsView.readN a.toNat 32)
    let core : Fin 16 := Fin.ofNat 16 (fld b 1 20 4)
    let cwe := (b.getD 1 0).getLsbD 24
    some (o.g, tokensOk s.cur o ∧ a.toNat % 32 = 0 ∧ a.toNat + 32 ≤ s.cur.foot ∧ (cwe = true → s.peerAt core ≠ none),
      pends (plus (asks s a.toNat 32 false) (ebpOf s [o.cblk] [])) o.prod,
      .ceval (b.getD 0 0) (if cwe then some (core, fld b 1 0 20, b.getD 2 0) else none), o.prod, o.cons, false)
  | .cout g f d b off =>
    some (g, True, s, .read true f (at1 b off) (vDst s d) (if f then none else vDst s (d.plus 1)), none, [], true)
  | .crds g f d b off =>
    some (g, True, s, .read false f (at1 b off) (vDst s d) (if f then none else vDst s (d.plus 1)), none, [], true)
  | .cput g a =>
    some (g, fits s a 64 64, asks s (s.lsAddr a).toNat 64 false, .cput (wordsOfBytes 8 (ls a 64)), none, [], false)
  | .cpflip sync o => some (o.g, tokensOk s.cur o, pends s o.prod, .cpflip sync, o.prod, o.cons, false)
  | _ => none

/-- The head of an engine's queue may run (11 R229). -/
def ready (s : State) (cl : Nat) (c : CircCmd) (q : List CircCmd) : Prop :=
  let e := s.engine cl
  e.queue = c :: q ∧ e.loading = none ∧ e.pass = none ∧ c.wait = 0 ∧ ∀ t ∈ c.cons, (s.ctx c.key).tokOf c.strand t = .done

end Sys2Proof.Claim

/-- 11 R228 R229 R242 R243 R244 R245, 23 R338 R339: a circuit syllable that the engine's access entry bars is a protection fault, reason 4, and
one whose grid is not bound to its cluster's engine a protection fault, reason 10.
Else the command enters the circuit queue, from which it is visible two ticks on, or waits while the queue is full; COUT and CRDS also
wait for their value. Registers, flags and memory do not change. -/
def Sys2Proof.Claim.circuitCommands : Prop :=
  ∀ (i : Instr) (s t : State) (g : Guard) (ok : Prop) (k : CircKind) (p : Option (Fin 63)) (cs : List (Fin 63)) (read : Bool),
    Claim.circRow s i = some (g, ok, t, k, p, cs, read) → s.on g = true → s.cur.kind = .compute →
    (¬ Claim.mayCommand s → exec i s = Claim.faults s 5 0 (BitVec.ofNat 64 (4 + 256 * (0x40 + Claim.cluster s))))
    ∧ (Claim.mayCommand s → s.cur.grid = none ∨ (s.engine (Claim.cluster s)).bound ≠ s.cur.grid → exec i s = Claim.faults s 5 0 10)
    ∧ (Claim.mayCommand s → s.cur.grid ≠ none → (s.engine (Claim.cluster s)).bound = s.cur.grid → ok →
        exec i s = .next (Claim.enters t (Claim.circCmd s k p cs) read))

/-- 11 R228 R242, 23 R339: CLOAD, where the engine's access entry admits it, binds its grid to a free engine, or goes on where the grid holds it, and its command enters the queue; while
another grid holds the engine it waits. -/
def Sys2Proof.Claim.circuitLoad : Prop :=
  ∀ (o : EngOp) (s : State) (gid : Nat), s.on o.g = true → s.cur.kind = .compute → s.cur.grid = some gid → Claim.mayCommand s → Claim.tokensOk s.cur o →
    (s.rs o.cblk).toNat % 32 = 0 → (s.rs o.cblk).toNat + 32 ≤ s.cur.foot →
    let b := wordsOfBytes 4 (s.cur.lsView.readN (s.rs o.cblk).toNat 32)
    let t := Claim.pends (Claim.plus (Claim.asks s (s.rs o.cblk).toNat 32 false) (Claim.ebpOf s [o.cblk] [])) o.prod
    let c := Claim.circCmd s (.cload ((b.getD 0 0).getLsbD 0) (Fin.ofNat 64 (Claim.fld b 0 8 6)) (b.getD 1 0)) o.prod o.cons
    let e := s.engine (Claim.cluster s)
    ((e.bound = none ∨ e.bound = some gid) → exec (.cload o) s
      = .next (Claim.enters (Claim.engine t (Claim.cluster s) { e with bound := some gid }) c false))
    ∧ (∀ h, e.bound = some h → h ≠ gid → exec (.cload o) s = .next (Claim.waits t (.unbound c)))

/-- 11 R229 R236 R239 R240 R242 to R245: the commands as the engine runs them, one at a time and in order. A leaf, a read, a parameter write
and a flip act at once, an index beyond the leaf map is a protection fault, reason 8, and a load or a pass begins. -/
def Sys2Proof.Claim.circuitCommandRuns : Prop :=
  ∀ (s : State) (cl : Nat) (c : CircCmd) (q : List CircCmd), Claim.ready s cl c q → c.key = s.focus → c.strand = s.cur.strand →
    let e := { s.engine cl with queue := q }
    (∀ gl buf src, c.kind = .cload gl buf src → ∃ t, exec (.circuitCommandRun cl) s = .next t
      ∧ t.engine cl = { e with loading := some c, obj := none, lines := [] } ∧ t.cur = s.cur ∧ t.mem = s.mem)
    ∧ (∀ m w, c.kind = .ceval m w → ∃ t, exec (.circuitCommandRun cl) s = .next t
      ∧ t.engine cl = { e with pass := some c, tick := 0 } ∧ t.cur = s.cur ∧ t.mem = s.mem)
    ∧ (∀ idx v o, c.kind = .cleaf idx v → e.obj = some o →
      (∀ n, o.leaves[idx.toNat]? = some n → ∃ t, exec (.circuitCommandRun cl) s = .next t
        ∧ t.engine cl = { e with store := e.store.set n v } ∧ t.cur = s.cur ∧ t.mem = s.mem)
      ∧ (o.leaves[idx.toNat]? = none → exec (.circuitCommandRun cl) s
          = .next ((Claim.engine s cl e).takeFault ⟨5, BitVec.twoPow 8 c.pos.val, c.addr, idx, 8⟩)))
    ∧ (∀ out f idx d d2 o n, c.kind = .read out f idx d d2 → e.obj = some o →
      (if out then o.outs[idx.toNat]? = some n else idx.toNat < 8192 ∧ n = idx.toNat) →
      ∃ t, exec (.circuitCommandRun cl) s = .next t ∧ t.engine cl = e ∧ t.mem = s.mem
        ∧ t.cur = s.cur.circReturn c.addr c.pos f d d2 (e.slot n))
    ∧ (∀ out f idx d d2 o, c.kind = .read out f idx d d2 → e.obj = some o →
      (if out then o.outs[idx.toNat]? = none else 8192 ≤ idx.toNat) → exec (.circuitCommandRun cl) s
        = .next ((Claim.engine s cl e).takeFault ⟨5, BitVec.twoPow 8 c.pos.val, c.addr, idx, 8⟩))
    ∧ (∀ sync, c.kind = .cpflip sync → ∃ t, exec (.circuitCommandRun cl) s = .next t
      ∧ t.engine cl = { e with active := e.shadow, shadow := if sync then e.shadow else e.active }
      ∧ t.cur = Claim.tokenDone s.cur c.prod ∧ t.mem = s.mem)
    ∧ (∀ es, c.kind = .cput es → ∃ t, exec (.circuitCommandRun cl) s = .next t ∧ t.cur = s.cur ∧ t.mem = s.mem
      ∧ (t.engine cl).active = e.active
      ∧ ∀ x r, es = x :: r → (∀ y ∈ r, y.getLsbD 63 = false) → (t.engine cl).shadow
          = if x.getLsbD 63 then e.shadow.set (x.toNat / 2 ^ 48 % 2 ^ 11) (BitVec.ofNat 48 x.toNat) else e.shadow)

/-- 11 R229 R235 R237 R239 R240 R241 R242 R246, 06 R130 R131: a load asks for the lines of an LS image that have not come, one by one, each of
which goes on with it when it is granted. A load that validates leaves its object resident, the store cleared and both parameter banks set; it is over
once its first pages stand. One that does not validate ends the grid with its load error, and the engine holds no object and no command. Either counts what it has
read. A pass whose last results are stored leaves its values, its events and its token, and asks for its completion word. A page in global
memory, or the last line of one in an LS, with its recorded CRC takes its place; one with another is a circuit load error, reason 10, and
what the words of the pass had written before stands. A page in an LS is asked for line by line. -/
def Sys2Proof.Claim.circuitEvents : Prop :=
  ∀ (s : State) (cl : Nat) (c : CircCmd), c.key = s.focus → c.strand = s.cur.strand →
    let e := s.engine cl
    let dropped (e : Engine) : Engine := { e with obj := none, queue := [], loading := none, pass := none, tick := 0, lines := [] }
    (∀ gl buf src, c.kind = .cload gl buf src → e.loading = some c → e.obj = none → s.imageComing cl = false →
      let load := s.circLoad cl s.focus (if gl then .glob s.focus buf else .ls ⟨s.focus, none⟩) src
      (∀ u l, load = (u, .ok l) →
        let e1 : Engine := { e with obj := some l.obj, store := [], active := l.bank, shadow := l.bank, lines := [] }
        (l.obj.due = [] → ∃ t, exec (.cloadComplete cl) s = .next t ∧ t.cur = Claim.tokenDone s.cur c.prod ∧ t.mem = s.mem ∧ t.ctxs = u.ctxs
          ∧ t.engine cl = { e1 with loading := none })
        ∧ (l.obj.due ≠ [] → ∃ t, exec (.cloadComplete cl) s = .next t ∧ t.cur = s.cur ∧ t.mem = s.mem ∧ t.ctxs = u.ctxs ∧ t.engine cl = e1))
      ∧ (∀ u f, load = (u, .error f) → f.1 ≠ 0 → exec (.cloadComplete cl) s
          = .next ((Claim.engine u cl (dropped e)).takeFault ⟨f.1, BitVec.twoPow 8 c.pos.val, c.addr, f.2.1, f.2.2⟩))
      ∧ (∀ u k n, load = (u, .error (0, k, n)) → exec (.cloadComplete cl) s = .next { s with elReqs := s.elReqs ++
          [⟨.page, s.elNow (lsCore k.toNat), 0x800 + cl, k.toNat, none, 64 * n.toNat, 64, .load cl n.toNat⟩] })
      ∧ ∀ line key : Nat, exec (.cloadComplete cl) (Claim.engine s cl { e with
          lines := e.lines.set (2 ^ 14 * key + line) ((s.ctx key).ls.readN (64 * line) 64) }) = .next (s.imageLine cl line key))
    ∧ (∀ m w o, c.kind = .ceval m w → e.pass = some c → e.obj = some o → o.nw + 3 ≤ e.tick →
        let r := Engine.runWords o m o.nw o.words e 0
        let ended := { Claim.engine s cl { r.1 with pass := none, tick := 0 } with
          cur := Claim.tokenDone { s.cur with sp := s.cur.sp.event c.addr c.pos r.2 } c.prod }
        (w = none → exec (.cevalPassComplete cl) s = .next ended)
        ∧ (∀ core a v k, w = some (core, a, v) → s.peerAt core = some ⟨k, none⟩ → a < 2 ^ 20 → a % 8 = 0 → a + 8 ≤ (s.ctx k).foot →
          exec (.cevalPassComplete cl) s = .next { ended with elReqs := s.elReqs ++
            [⟨.cword, s.elNow (lsCore k), 0x800 + cl, k, none, a, 8, .write (bytesOfNat 8 v.toNat)⟩] }))
    ∧ (∀ o page pg crc m w, e.obj = some o → c.kind = .ceval m w → e.pass = some c → e.loading = none → o.pages[page]? = some pg →
      o.crcs[page]? = some crc →
      let bad (u : State) := (Claim.engine u cl (dropped (Engine.runWords o m (min e.tick o.nw) o.words e 0).1)).takeFault
        ⟨10, BitVec.twoPow 8 c.pos.val, c.addr, 10, 0⟩
      let total := 32 * pageWords o.nw page
      (page ∈ o.due → s.pageComing cl page = false →
        (∀ from_ u bs, s.pageSrc o.srcKey pg = .ok from_ → (∀ k, from_ ≠ .ls ⟨k, none⟩) →
          s.circPart cl from_ pg.2 32 (pageWords o.nw page) = (u, .ok bs) →
          (crc64 bs = crc → ∃ t, exec (.circuitPageArrive cl page) s = .next t ∧ t.cur = s.cur
            ∧ t.engine cl = { e with obj := some (o.takePage page bs) })
          ∧ (crc64 bs ≠ crc → exec (.circuitPageArrive cl page) s = .next (bad u)))
        ∧ (∀ k, s.pageSrc o.srcKey pg = .ok (.ls ⟨k, none⟩) → pg.2.toNat + min 64 total ≤ (s.ctx k).foot →
          ∃ t, exec (.circuitPageArrive cl page) s = .next t ∧ t.cur = s.cur ∧ t.elReqs = s.elReqs ++
            [⟨.page, s.elNow (lsCore k), 0x800 + cl, k, none, pg.2.toNat, min 64 total, .page cl page (decide (min 64 total = total))⟩]))
      ∧ ∀ k a n, let bs := ((o.got.get? page).getD []) ++ (s.ctx k).ls.readN a n
        (crc64 bs = crc → ∃ t, s.pageLine cl page k a n true = t ∧ t.cur = s.cur ∧ t.engine cl = { e with obj := some (o.takePage page bs) })
        ∧ (crc64 bs ≠ crc → s.pageLine cl page k a n true = bad s)
        ∧ (pg.2.toNat + bs.length + min 64 (total - bs.length) ≤ (s.ctx k).foot → pg.2.toNat + bs.length < 2 ^ 64 →
          ∃ t, s.pageLine cl page k a n false = t ∧ t.cur = s.cur ∧ t.engine cl = { e with obj := some { o with got := o.got.set page bs } }
            ∧ ∃ q, t.elReqs = s.elReqs ++ [q] ∧ q.key = k ∧ q.addr = pg.2.toNat + bs.length ∧ q.len = min 64 (total - bs.length)))
    ∧ (∀ o page crc k a n gl buf src, e.obj = some o → c.kind = .cload gl buf src → e.loading = some c → e.pass = none → o.crcs[page]? = some crc →
      let bs := ((o.got.get? page).getD []) ++ (s.ctx k).ls.readN a n
      (crc64 bs = crc → ∃ t, s.pageLine cl page k a n true = t
        ∧ (o.due.filter (· != page) = [] → t.cur = Claim.tokenDone s.cur c.prod
          ∧ t.engine cl = { e with obj := some (o.takePage page bs), loading := none })
        ∧ (o.due.filter (· != page) ≠ [] → t.cur = s.cur ∧ t.engine cl = { e with obj := some (o.takePage page bs) }))
      ∧ (crc64 bs ≠ crc → s.pageLine cl page k a n true = (Claim.engine s cl (dropped e)).takeFault
          ⟨10, BitVec.twoPow 8 c.pos.val, c.addr, 10, 0⟩))
    ∧ ∀ (o : CircObj) (p : Nat) (bs : List Byte), 8192 * p + 4 * pageWords o.nw p ≤ o.words.length → bs.length = 32 * pageWords o.nw p →
      let t := o.takePage p bs
      (∀ j : Nat, t.words.getD j 0 = if 8192 * p ≤ j ∧ j < 8192 * p + 4 * pageWords o.nw p then BitVec.ofNat 64 (Claim.elem bs 8 (j - 8192 * p))
        else o.words.getD j 0)
      ∧ t.frames = o.frames ++ [p] ∧ t.due = o.due.filter (· != p) ∧ (t.nw, t.leaves, t.outs, t.pages, t.crcs) = (o.nw, o.leaves, o.outs, o.pages, o.crcs)

/-- 11 R231 R233 R235: what validation refuses, each reason in the words of the spec. The limits of the header and a header that breaks one
(reason 1); a parameter entry with V = 0 (1); a leaf named twice (1) or clear in the slot map (7), whichever entry comes first; a reserved operation (2);
a witness flag where none is allowed (9); of the slots of an operation, in the order destination, a, b, witness: a bank written twice in a word (4),
a slot clear in the slot map (7), a leaf that is written (8), a bank read more than twice (3), an operand whose writer is one of the two words before (5), one
that is neither a leaf nor written (6); an output that is neither (6) or is clear (7). -/
def Sys2Proof.Claim.circuitChecks : Prop :=
  let refused (r word opn opd slot : Nat) : Flt :=
    (10, BitVec.ofNat 64 (r + 2 ^ 16 * word + 2 ^ 36 * opn + 2 ^ 38 * opd), BitVec.ofNat 64 (slot / 1024 + 2 ^ 3 * (slot % 1024)))
  (∀ h : List Word64,
    let f := Claim.fld h
    let part (off al : Nat) := 64 ≤ off ∧ off % al = 0
    ((CircHeader.ofWords h).ok = true ↔ f 0 0 16 = 1 ∧ 1 ≤ f 1 0 14 ∧ f 1 0 14 ≤ 8192 ∧ 1 ≤ f 1 16 14 ∧ f 1 16 14 ≤ 8192 ∧ f 1 32 12 ≤ 2048
      ∧ (if f 0 16 1 = 1 then 16385 ≤ f 0 32 32 ∧ f 0 32 32 ≤ 2 ^ 20 ∧ f 2 0 32 = 0 ∧ part (f 4 32 32) 16 ∧ f 5 0 32 = (f 0 32 32 + 2047) / 2048
        else 1 ≤ f 0 32 32 ∧ f 0 32 32 ≤ 16384 ∧ part (f 2 0 32) 32 ∧ f 4 32 32 = 0 ∧ f 5 0 32 = 0)
      ∧ part (f 2 32 32) 8 ∧ part (f 3 0 32) 2 ∧ part (f 3 32 32) 2 ∧ f 4 0 32 % 8 = 0 ∧ (f 1 32 12 ≠ 0 → part (f 4 0 32) 8))
    ∧ ∀ (s u : State) (cl key : Nat) (src : CircSrc) (base : Word64) (hb : List Byte), s.circUnit cl src base 64 32 = (u, .ok hb) →
      wordsOfBytes 8 hb = h → (CircHeader.ofWords h).ok = false → s.circLoad cl key src base = (u, .error (refused 1 0 0 0 0)))
  ∧ (∀ es : List Word64, ((∃ x ∈ es, x.getLsbD 63 = false) → paramBank es = none)
    ∧ ((∀ x ∈ es, x.getLsbD 63 = true) → ∃ t, paramBank es = some t
      ∧ (∀ l x r, es = l ++ x :: r → (∀ y ∈ r, y.toNat / 2 ^ 48 % 2 ^ 11 ≠ x.toNat / 2 ^ 48 % 2 ^ 11) →
        t.get? (x.toNat / 2 ^ 48 % 2 ^ 11) = some (BitVec.ofNat 48 x.toNat))
      ∧ ∀ n, (∀ x ∈ es, x.toNat / 2 ^ 48 % 2 ^ 11 ≠ n) → t.get? n = none))
  ∧ (∀ (used : Nat → Bool) (l : List Nat),
    (l.Nodup → (∀ n ∈ l, used n = true) → checkLeaves used [] l = none)
    ∧ ∀ a n r, l = a ++ n :: r → a.Nodup → (∀ x ∈ a, used x = true) →
      (n ∈ a → checkLeaves used [] l = some (refused 1 0 0 0 n))
      ∧ (n ∉ a → used n = false → checkLeaves used [] l = some (refused 7 0 0 0 n)))
  ∧ (∀ (h : CircHeader) (used leaf : Nat → Bool) (w opn : Nat) (v : Validation) (x : Node),
    (7 < x.op → checkNode h used leaf w opn v x = .error (refused 2 w opn 0 0))
    ∧ (x.op ≤ 7 → x.w = true → (x.op ≠ 3 ∧ x.op ≠ 4 ∨ h.wen = false) → checkNode h used leaf w opn v x = .error (refused 9 w opn 0 0))
    ∧ (x.op = 0 → x.w = false → checkNode h used leaf w opn v x = .ok v)
    ∧ (1 ≤ x.op → x.op ≤ 7 → (x.w = true → (x.op = 3 ∨ x.op = 4) ∧ h.wen = true) →
      let slots := [(0, x.dst)] ++ (if x.op ≤ 6 then [(1, x.a)] else []) ++ (if x.op ≤ 4 then [(2, x.b)] else [])
        ++ (if x.w = true then [(3, 1024 * h.wbank + x.dst % 1024)] else [])
      (∀ (k : Nat) (vs : Nat → Validation) (f : Flt), vs 0 = v →
        (∀ j y, j < k → slots[j]? = some y → checkSlot used leaf w opn (vs j) y.1 y.2 = .ok (vs (j + 1))) →
        (∀ y, slots[k]? = some y → checkSlot used leaf w opn (vs k) y.1 y.2 = .error f → checkNode h used leaf w opn v x = .error f)
        ∧ (k = slots.length → checkNode h used leaf w opn v x = .ok (vs k)))))
  ∧ (∀ (used leaf : Nat → Bool) (w opn opd n : Nat) (v : Validation),
    let bank := n / 1024
    let r (k : Nat) : Except Flt Validation := .error (refused k w opn opd n)
    (opd = 0 ∨ opd = 3 →
      (bank ∈ v.writes → checkSlot used leaf w opn v opd n = r 4)
      ∧ (bank ∉ v.writes → used n = false → checkSlot used leaf w opn v opd n = r 7)
      ∧ (bank ∉ v.writes → used n = true → leaf n = true → checkSlot used leaf w opn v opd n = r 8)
      ∧ (bank ∉ v.writes → used n = true → leaf n = false →
        checkSlot used leaf w opn v opd n = .ok { v with writes := bank :: v.writes, fresh := n :: v.fresh }))
    ∧ (opd = 1 ∨ opd = 2 →
      let full := 2 ≤ v.reads.count bank
      let near := ∃ x, v.writer.get? n = some x ∧ w ≤ x + 2
      let known := leaf n = true ∨ v.writer.get? n ≠ none
      (full → checkSlot used leaf w opn v opd n = r 3)
      ∧ (¬ full → near → checkSlot used leaf w opn v opd n = r 5)
      ∧ (¬ full → ¬ near → ¬ known → checkSlot used leaf w opn v opd n = r 6)
      ∧ (¬ full → ¬ near → known → used n = false → checkSlot used leaf w opn v opd n = r 7)
      ∧ (¬ full → ¬ near → known → used n = true → checkSlot used leaf w opn v opd n = .ok { v with reads := bank :: v.reads })))
  ∧ ∀ (used leaf : Nat → Bool) (v : Validation) (l : List Nat),
    let known (n : Nat) := leaf n = true ∨ v.writer.get? n ≠ none
    ((∀ n ∈ l, known n ∧ used n = true) → checkOuts used leaf v l = none)
    ∧ ∀ a n r, l = a ++ n :: r → (∀ x ∈ a, known x ∧ used x = true) →
      (¬ known n → checkOuts used leaf v l = some (refused 6 0 0 0 n))
      ∧ (known n → used n = false → checkOuts used leaf v l = some (refused 7 0 0 0 n))

/-- 11 R232 R236 R237: one circuit word. Its operations read the store as it stands before the word. Each writes its value, in storage form, in every lane of
the mask to its destination slot, and with W set its witness to the same slot number of the witness bank; every other lane and slot stands. The word raises
the union of its events. The words of a pass run one after another. -/
def Sys2Proof.Claim.circuitWords : Prop :=
  (∀ (e : Engine) (o : CircObj) (mask : Mask) (ws : List Word64), (∀ x ∈ ws, x.toNat % 16 ≤ 7) →
    let F := SefForm.storage
    let at_ (x : Word64) (bank slot : Nat) : Nat := 1024 * (x.toNat / 2 ^ bank % 2 ^ 3) + x.toNat / 2 ^ slot % 2 ^ 10
    let held (n : Nat) (L : Fin 64) : Sef := Sef.ofStore ((e.slot n).get L)
    let weightOf (n : Nat) : Sef := match e.active.get? n with
      | some w => Sef.ofStore w
      | none => .zero false
    let value (x : Word64) (L : Fin 64) : Sef × Ev × Bool :=
      let a := held (at_ x 17 20) L
      let b := held (at_ x 30 33) L
      let pa := weightOf (x.toNat / 2 ^ 43 % 2 ^ 10)
      let pb := weightOf (1024 + x.toNat / 2 ^ 53 % 2 ^ 10)
      let pick (better : Bool) : Sef × Ev × Bool :=
        if a = .nan then (.nan, 0, false) else if b = .nan then (.nan, 0, true) else if better then (b, 0, true) else (a, 0, false)
      match x.toNat % 16 with
      | 1 => let p := F.mul pa a; let q := F.mul pb b; let r := F.add p.1 q.1; (r.1, p.2 ||| q.2 ||| r.2, false)
      | 2 => ((F.mul a b).1, (F.mul a b).2, false)
      | 3 => pick (a.below b)
      | 4 => pick (b.below a)
      | 5 => ((F.mul pa a).1, (F.mul pa a).2, false)
      | 6 => (a, 0, false)
      | _ => (pa, 0, false)
    let one : BitVec 48 := (Sef.fin false (2 ^ 23) 0).toStore
    let plus0 : BitVec 48 := (Sef.zero false).toStore
    let acts := ws.filter fun x => x.toNat % 16 != 0
    let writes : List (Nat × (Fin 64 → BitVec 48)) := acts.flatMap fun x =>
      (at_ x 4 7, fun L => (value x L).1.toStore) :: (if x.getLsbD 63 then
        [(1024 * o.wbank + x.toNat / 2 ^ 7 % 2 ^ 10, fun L => if (value x L).2.2 then one else plus0)] else [])
    (writes.map Prod.fst).Nodup →
    let t := e.runWord o mask ws
    (∀ p ∈ writes, ∀ L : Fin 64, (t.1.slot p.1).get L = if mask.getLsbD L.val then p.2 L else (e.slot p.1).get L)
    ∧ (∀ n, (∀ p ∈ writes, p.1 ≠ n) → t.1.slot n = e.slot n) ∧ t.1 = { e with store := t.1.store }
    ∧ ∀ b : Nat, t.2.getLsbD b = true ↔ ∃ x ∈ acts, ∃ L : Fin 64, mask.getLsbD L.val = true ∧ (value x L).2.1.getLsbD b = true)
  ∧ ∀ (o : CircObj) (m : Mask) (n : Nat) (ws : List Word64) (e : Engine) (ev : Ev),
    Engine.runWords o m (n + 1) ws e ev
      = Engine.runWords o m n (ws.drop 4) (e.runWord o m (ws.take 4)).1 (ev ||| (e.runWord o m (ws.take 4)).2)

/-- 11 R232 R236 R237: the node operations in one lane. Operation 1 rounds each weighted operand and then their sum; 2 multiplies; 3 and 4
take the larger or smaller value, a on a tie, with a witness that says whether b decided it; 5 weights a; 6 copies it; 7 gives the
parameter. A NaN operand decides a maximum or minimum. -/
def Obligations.CircuitNodes : Prop :=
  ∀ (pa pb a b : Sef),
    let f := SefForm.storage
    nodeEval 1 pa pb a b = ((f.add (f.mul pa a).1 (f.mul pb b).1).1,
      (f.mul pa a).2 ||| (f.mul pb b).2 ||| (f.add (f.mul pa a).1 (f.mul pb b).1).2, false)
    ∧ nodeEval 2 pa pb a b = ((f.mul a b).1, (f.mul a b).2, false)
    ∧ (a ≠ .nan → b ≠ .nan →
        nodeEval 3 pa pb a b = (if a.below b then (b, 0, true) else (a, 0, false))
        ∧ nodeEval 4 pa pb a b = (if b.below a then (b, 0, true) else (a, 0, false)))
    ∧ (a = .nan → nodeEval 3 pa pb a b = (.nan, 0, false) ∧ nodeEval 4 pa pb a b = (.nan, 0, false))
    ∧ (a ≠ .nan → b = .nan → nodeEval 3 pa pb a b = (.nan, 0, true) ∧ nodeEval 4 pa pb a b = (.nan, 0, true))
    ∧ nodeEval 5 pa pb a b = ((f.mul pa a).1, (f.mul pa a).2, false)
    ∧ nodeEval 6 pa pb a b = (a, 0, false) ∧ nodeEval 7 pa pb a b = (pa, 0, false)


/-! ### Vector rows (09 R195 to R213) -/

namespace Sys2Proof.Claim
open Machine

/-- The lanes in which a syllable acts: those of its predicate, or the others (03 R57). -/
def acts (s : State) (g : Guard) : Mask := if g.sense then -1 ^^^ s.cur.pred g.pred else s.cur.pred g.pred

/-- A vector operation, as a row of a table gives it: with `whole` it acts as lane 0 of its predicate says and writes every lane, else
lane by lane; the destination is a register or a pair; `m` is its mode after DYN. -/
structure VRow where
  g     : Guard
  whole : Bool := false
  reads : List VReg
  pair  : Bool
  d     : VReg
  lat   : Nat
  m     : Rm := .rne
  lane  : Fin 64 → Word64 × Ev
  ev    : Ev := 0

/-- The value of the V unit's bypass (03 R63, 04 R82). -/
def unitBp (s : State) (v : Vec) : BpVal := if s.issue.unit1 then .v1 v else .v0 v

/-- One register or a pair of 64-bit lanes. -/
def vDests (s : State) (pair : Bool) (d : VReg) (m : Mask) (v : Fin 64 → Word64) : List RegWrite :=
  let lo := Vec.ofLanes fun k => (v k).setWidth 32
  let hi := Vec.ofLanes fun k => (v k >>> 32).setWidth 32
  match d with
  | .v n => .vec (vReg s.cur n) m lo :: (if pair then [.vec (vReg s.cur (Fin.ofNat 640 (n.val + 1))) m hi] else [])
  | _ => []

/-- After a row: the acting lanes get their value and the union of their events is raised; a masked lane keeps its value, and reads zero
on the bypass (03 R57, 09 R196 R197 R198). -/
def VRow.after (r : VRow) (s : State) : State :=
  let m : Mask := if r.whole then -1 else acts s r.g
  let v (k : Fin 64) : Word64 := if m.getLsbD k.val then (r.lane k).1 else 0
  let ev := Ev.union ((List.finRange 64).map fun k => if m.getLsbD k.val then (r.lane k).2 else 0)
  plus (draws s r.m) ((if m = 0 then [] else ebpOf s [] r.reads)
    ++ [res s r.lat (vDests s r.pair r.d m v) (some (unitBp s (Vec.ofLanes fun k => (v k).setWidth 32))) (ev ||| r.ev)])

/-- A lane of an operand, one register or a pair (09 R195). -/
def opnd (s : State) (pair : Bool) (a : VReg) (k : Fin 64) : Word64 :=
  let lo := ((s.rv a).get k).setWidth 64
  if pair then lo + (((s.rv (a.plus 1)).get k).setWidth 64 <<< 32) else lo

/-- Format, pair, and the ticks of the group VADD to VCPS (03 R67, 09 R195 R200). -/
def ff (f : FpFmt) : FFmt :=
  match f with
  | .f32 => ⟨24, 8⟩
  | .f64 => ⟨53, 11⟩
  | .bf16 => ⟨8, 8⟩

def is64 (f : FpFmt) : Bool :=
  match f with
  | .f64 => true
  | _ => false

def fpTicks (s : State) (f : FpFmt) : Nat := if is64 f then 6 else if s.cur.profA then 5 else 4

/-- Width of a floating-point format. -/
def fpW (f : FpFmt) : Nat :=
  match f with
  | .f32 => 32
  | .f64 => 64
  | .bf16 => 16

/-- The value of a lane in a format. -/
def fpOf (f : FpFmt) (w : Word64) : Fl := (ff f).unpack w.toNat

/-- The bits of a lane in a format. -/
def fpBits (f : FpFmt) (w : Word64) : Nat := w.toNat % 2 ^ fpW f

/-- The sign of a value replaced; a NaN becomes the canonical NaN with no event (05 R100, 09 R200). -/
def withSign (f : FpFmt) (x : Nat) (neg : Bool) : Nat :=
  if ((ff f).unpack x).isNan then (ff f).nanBits else x % 2 ^ (fpW f - 1) + (if neg then 2 ^ (fpW f - 1) else 0)

/-- The class bit of a value: signalling and quiet NaN 8 and 9; negative infinity, normal, subnormal and zero 0 to 3; the positive ones
7 down to 4 (09 R202). -/
def classBit (f : FpFmt) (x : Nat) : Nat :=
  let ex := x / 2 ^ ((ff f).p - 1) % 2 ^ (ff f).eb
  let fr := x % 2 ^ ((ff f).p - 1)
  let neg := x / 2 ^ (fpW f - 1) % 2 = 1
  if ex = 2 ^ (ff f).eb - 1 then
    if fr = 0 then (if neg then 0 else 7) else if fr / 2 ^ ((ff f).p - 2) = 0 then 8 else 9
  else if ex = 0 then (if fr = 0 then (if neg then 3 else 4) else if neg then 2 else 5)
  else if neg then 1 else 6

/-- The floating-point rows of 09 R199 to R202 and R207, over the rounded operations of 05. -/
def vfRow (s : State) (i : Instr) : Option VRow :=
  let bin (o : VFp) (f : FFmt → Rnd → Fl → Fl → Nat × Ev) : Option VRow :=
    let m := vMode s o.rm
    some { g := o.g, reads := [o.a, o.b], pair := is64 o.fmt, d := o.d, lat := fpTicks s o.fmt, m := m, lane := fun k =>
      let r := f (ff o.fmt) (rounds s m k.val) (fpOf o.fmt (opnd s (is64 o.fmt) o.a k)) (fpOf o.fmt (opnd s (is64 o.fmt) o.b k))
      (BitVec.ofNat 64 r.1, r.2) }
  let fused (x : VFma) (f : FFmt → Rnd → Fl → Fl → Fl → Nat × Ev) : Option VRow :=
    let o := x.o
    let c := match x.c with | some c => c | none => o.d
    let m := vMode s o.rm
    let v (r : VReg) (k : Fin 64) : Fl := fpOf o.fmt (opnd s (is64 o.fmt) r k)
    some { g := o.g, reads := [o.a, o.b, c], pair := is64 o.fmt, d := o.d, lat := fpTicks s o.fmt, m := m, lane := fun k =>
      let r := f (ff o.fmt) (rounds s m k.val) (v o.a k) (v o.b k) (v c k)
      (BitVec.ofNat 64 r.1, r.2) }
  let un (o : VFpUn) (f : FFmt → Rnd → Fl → Nat × Ev) : Option VRow :=
    let m := vMode s o.rm
    some { g := o.g, reads := [o.a], pair := is64 o.fmt, d := o.d, lat := 8, m := m, lane := fun k =>
      let r := f (ff o.fmt) (rounds s m k.val) (fpOf o.fmt (opnd s (is64 o.fmt) o.a k))
      (BitVec.ofNat 64 r.1, r.2) }
  let exact2 (o : VFpBin) (f : Nat → Nat → Nat × Ev) : Option VRow :=
    some { g := o.g, reads := [o.a, o.b], pair := is64 o.fmt, d := o.d, lat := fpTicks s o.fmt, lane := fun k =>
      let r := f (fpBits o.fmt (opnd s (is64 o.fmt) o.a k)) (fpBits o.fmt (opnd s (is64 o.fmt) o.b k))
      (BitVec.ofNat 64 r.1, r.2) }
  let exact1 (o : VFpOne) (pair : Bool) (lat : Nat) (f : Nat → Nat) : Option VRow :=
    some { g := o.g, reads := [o.a], pair := pair, d := o.d, lat := lat, lane := fun k => (BitVec.ofNat 64 (f (fpBits o.fmt (opnd s (is64 o.fmt) o.a k))), 0) }
  match i with
  | .vadd o => bin o fun f q a b => f.add q a b
  | .vsub o => bin o fun f q a b => f.add q a b.neg
  | .vmul o => bin o fun f q a b => f.mul q a b
  | .vfma o => fused o fun f q a b c => f.fma q a b c
  | .vfms o => fused o fun f q a b c => f.fma q a b c.neg
  | .vfnma o => fused o fun f q a b c => f.fma q a.neg b c
  | .vmin o => exact2 o fun a b => (ff o.fmt).minMax false a b
  | .vmax o => exact2 o fun a b => (ff o.fmt).minMax true a b
  | .vcps o => exact2 o fun a b => (withSign o.fmt a (decide (2 ^ (fpW o.fmt - 1) ≤ b)), 0)
  | .vabs o => exact1 o (is64 o.fmt) (fpTicks s o.fmt) fun a => withSign o.fmt a false
  | .vneg o => exact1 o (is64 o.fmt) (fpTicks s o.fmt) fun a => withSign o.fmt a (decide (a < 2 ^ (fpW o.fmt - 1)))
  | .vrcp o => un o fun f q a => f.rcp q a
  | .vsqrt o => un o fun f q a => f.sqrt q a
  | .vrsq o => un o fun f q a => f.rsq q a
  | .vexp2 o => un o fun f q a => f.exp2 q a
  | .vlog2 o => un o fun f q a => f.log2 q a
  | .vclass o => exact1 o false 2 fun a => 2 ^ classBit o.fmt a
  | .vexpx o => exact1 o false 2 fun a =>
      match (ff o.fmt).unpack a with
      | .fin _ m e => if m = 0 then 2 ^ 31 else (BitVec.ofInt 32 ((Nat.log2 m : Int) + e)).toNat
      | _ => 2 ^ 31 - 1
  | .vmant o => exact1 o (is64 o.fmt) 2 fun a =>
      match (ff o.fmt).unpack a with
      | .fin n m _ => if m = 0 then a else ((ff o.fmt).roundFin Rnd.rne n m (-(Nat.log2 m : Int))).1
      | .inf _ => a
      | .nan _ => (ff o.fmt).nanBits
  | .vldx o =>
    let m := vMode s o.rm
    some { g := o.g, reads := [o.a, o.b], pair := is64 o.fmt, d := o.d, lat := 2, m := m, lane := fun k =>
      let x := fpOf o.fmt (opnd s (is64 o.fmt) o.a k)
      let r := match x with
        | .fin n a e => (ff o.fmt).roundFin (rounds s m k.val) n a (e + clamp (-5000) 5000 ((s.rv o.b).get k).toInt)
        | x => (ff o.fmt).ofFl (rounds s m k.val) x
      (BitVec.ofNat 64 r.1, r.2) }
  | _ => none

/-! #### Integers and conversions (09 R203 to R205) -/

/-- Width, signedness and bounds of an integer format. -/
def iW (f : IntFmt) : Nat :=
  match f with
  | .i32 => 32
  | .ui32 => 32
  | .i16 => 16
  | .ui16 => 16
  | .i8 => 8
  | .ui8 => 8
  | .i64 => 64

def iSigned (f : IntFmt) : Bool :=
  match f with
  | .ui32 => false
  | .ui16 => false
  | .ui8 => false
  | _ => true

def is64i (f : IntFmt) : Bool :=
  match f with
  | .i64 => true
  | _ => false

def iLo (f : IntFmt) : Int := if iSigned f then -(2 ^ (iW f - 1)) else 0

def iHi (f : IntFmt) : Int := if iSigned f then 2 ^ (iW f - 1) - 1 else 2 ^ iW f - 1

/-- The element of a lane (05 R97). -/
def iOf (f : IntFmt) (w : Word64) : Int := if iSigned f then (w.setWidth (iW f)).toInt else (w.setWidth (iW f)).toNat

/-- An element as its lane holds it, mod 2^n and extended by its signedness (05 R97). -/
def iPut (f : IntFmt) (v : Int) : Word64 :=
  let x := BitVec.ofInt (iW f) v
  if iSigned f then x.signExtend 64 else x.setWidth 64

/-- Saturation, with its event (05 R98). -/
def iSat (f : IntFmt) (v : Int) : Word64 × Ev :=
  (iPut f (clamp (iLo f) (iHi f) v), if v < iLo f ∨ v > iHi f then BitVec.twoPow 9 5 else 0)

def pairOf (f : NumFmt) : Bool :=
  match f with
  | .fp f => is64 f
  | .int f => is64i f

/-- A conversion of one lane: float to float and integer to float round, float to integer rounds and saturates, integer to integer
saturates (09 R205). -/
def converted (src dst : NumFmt) (q : Rnd) (w : Word64) : Word64 × Ev :=
  match src, dst with
  | .fp a, .fp b => let r := (ff b).ofFl q (fpOf a w); (BitVec.ofNat 64 r.1, r.2)
  | .fp a, .int b => let r := (fpOf a w).toInt q (iLo b) (iHi b); (iPut b r.1, r.2)
  | .int a, .fp b => let r := (ff b).ofInt q (iOf a w); (BitVec.ofNat 64 r.1, r.2)
  | .int a, .int b => iSat b (iOf a w)

/-- Conversions that use rm: all but integer to integer and a widening between floats. -/
def usesRm (src dst : NumFmt) : Bool :=
  match src, dst with
  | .fp a, .fp b => decide ((ff b).p < (ff a).p)
  | .int _, .int _ => false
  | _, _ => true

/-- The integer rows of 09 R203 and R205. -/
def viRow (s : State) (i : Instr) : Option VRow :=
  let bin (o : VInt) (lat : Nat) (f : Int → Int → Word64 × Ev) : Option VRow :=
    some { g := o.g, reads := [o.a, o.b], pair := is64i o.fmt, d := o.d, lat := lat, lane := fun k => f (iOf o.fmt (opnd s (is64i o.fmt) o.a k)) (iOf o.fmt (opnd s (is64i o.fmt) o.b k)) }
  let raw (o : VInt) (f : BitVec (iW o.fmt) → BitVec (iW o.fmt) → BitVec (iW o.fmt)) : Option VRow :=
    bin o 1 fun a b => (iPut o.fmt (f (BitVec.ofInt _ a) (BitVec.ofInt _ b)).toNat, 0)
  let count (o : VIntUn) (n : Nat → Nat) : Option VRow :=
    some { g := o.g, reads := [o.a], pair := is64i o.fmt, d := o.d, lat := 2, lane := fun k => (iPut o.fmt (n ((opnd s (is64i o.fmt) o.a k).toNat % 2 ^ iW o.fmt)), 0) }
  match i with
  | .viadd sat o => bin o 2 fun a b => if sat then iSat o.fmt (a + b) else (iPut o.fmt (a + b), 0)
  | .visub sat o => bin o 2 fun a b => if sat then iSat o.fmt (a - b) else (iPut o.fmt (a - b), 0)
  | .vimul o => bin o 2 fun a b => (iPut o.fmt (a * b), 0)
  | .vimulh o => bin o 2 fun a b => (iPut o.fmt (a * b / 2 ^ iW o.fmt), 0)
  | .vand o => raw o fun a b => a &&& b
  | .vor o => raw o fun a b => a ||| b
  | .vxor o => raw o fun a b => a ^^^ b
  | .vshl o => raw o fun a b => a <<< (b.toNat % iW o.fmt)
  | .vshr o => raw o fun a b => a >>> (b.toNat % iW o.fmt)
  | .vsar o => raw o fun a b => a.sshiftRight (b.toNat % iW o.fmt)
  | .vimin o => bin o 2 fun a b => (iPut o.fmt (if a ≤ b then a else b), 0)
  | .vimax o => bin o 2 fun a b => (iPut o.fmt (if a ≤ b then b else a), 0)
  | .vpopc o => count o fun x => (List.range (iW o.fmt)).countP fun j => x / 2 ^ j % 2 == 1
  | .vclz o => count o fun x => (List.range (iW o.fmt)).countP fun j => x < 2 ^ j
  | .vcvt g src dst rm d a =>
    let m := if usesRm src dst then vMode s rm else .rne
    some { g := g, reads := [a], pair := pairOf dst, d := d, lat := 3, m := m, lane := fun k => converted src dst (rounds s m k.val) (opnd s (pairOf src) a k) }
  | _ => none

/-! #### Movement, the row axis and SEF (09 R208 to R212) -/

def pairF (f : Fmt) : Bool :=
  match f with
  | .num n => pairOf n
  | .sef => true
  | .mx _ => false

/-- Lane `n` mod 64 of an operand. -/
def laneOf (s : State) (pair : Bool) (a : VReg) (n : Nat) : Word64 := opnd s pair a (Fin.ofNat 64 n)

/-- Set bits of a mask below a lane. -/
def below (m : Mask) (n : Nat) : Nat := (List.range n).countP fun j => m.getLsbD j

/-- The rows of 09 R208 to R212 that write one register or a pair. -/
def vmRow (s : State) (i : Instr) : Option VRow :=
  let all (g : Guard) (rs : List VReg) (pair : Bool) (d : VReg) (lat : Nat) (f : Fin 64 → Word64) : Option VRow :=
    some { g := g, whole := true, reads := rs, pair := pair, d := d, lat := lat, lane := fun k => (f k, 0) }
  let sef2 (g : Guard) (d a b : VReg) (f : Sef → Sef → Sef × Ev) : Option VRow :=
    some { g := g, reads := [a, b], pair := true, d := d, lat := 5, lane := fun k =>
      let r := f (Sef.ofPair (opnd s true a k)) (Sef.ofPair (opnd s true b k))
      (r.1.toPair, r.2) }
  let sef1 (g : Guard) (d a : VReg) (from_ to_ : Bool) (m : Rm) (f : Rnd → Word64 → Word64 × Ev) : Option VRow :=
    some { g := g, reads := [a], pair := to_, d := d, lat := 5, m := m, lane := fun k => f (rounds s m k.val) (opnd s from_ a k) }
  let toSef (f : FFmt) (w : Word64) : Word64 × Ev := let r := Sef.ofFl (f.unpack w.toNat); (r.1.toPair, r.2)
  let fromSef (f : FFmt) (q : Rnd) (w : Word64) : Word64 × Ev := let r := (Sef.ofPair w).toFl f q; (BitVec.ofNat 64 r.1, r.2)
  match i with
  | .vmov g f d a => some { g := g, reads := [a], pair := pairF f, d := d, lat := 1, lane := fun k => (opnd s (pairF f) a k, 0) }
  | .vsplat g d v => all g [] false d 1 fun _ => v.setWidth 64
  | .vext g p d a b n => all g [a, b] p d 2 fun k =>
      if k.val + n.val < 64 then laneOf s p a (k.val + n.val) else laneOf s p b (k.val + n.val - 64)
  | .viota g p d v => some { g := g, reads := [], pair := p, d := d, lat := 1, lane := fun k => (BitVec.ofInt 64 (v.toInt + k.val), 0) }
  | .vrotr o => all o.g [o.a] (pairF o.fmt) o.d 2 fun k => laneOf s (pairF o.fmt) o.a (k.val + o.n.val)
  | .vbcr o => all o.g [o.a] (pairF o.fmt) o.d 2 fun _ => opnd s (pairF o.fmt) o.a o.n
  | .vperm g f d a b => all g [a, b] (pairF f) d 3 fun k => laneOf s (pairF f) a ((s.rv b).get k).toNat
  | .vcmpr g f d a pm =>
    let m := s.cur.pred pm
    all g [a] (pairF f) d 3 fun k =>
      match (List.finRange 64).find? fun j => m.getLsbD j.val && below m j.val == k.val with
      | some j => opnd s (pairF f) a j
      | none => 0
  | .vexpd g f d a pm =>
    let m := s.cur.pred pm
    all g [a] (pairF f) d 3 fun k => if m.getLsbD k.val then laneOf s (pairF f) a (below m k.val) else 0
  | .vxmul g d a b => sef2 g d a b SefForm.pair.mul
  | .vxadd g d a b => sef2 g d a b SefForm.pair.add
  | .vxmax g d a b => sef2 g d a b fun x y => (if x = .nan ∨ y = .nan then .nan else if x.below y then y else x, 0)
  | .vxnorm g d a => sef1 g d a true true .rne fun _ w => let r := (Sef.ofPair w).norm; (r.1.toPair, r.2)
  | .vxcvt g .f32ToSef _ d a => sef1 g d a false true .rne fun _ w => toSef (ff .f32) w
  | .vxcvt g .bf16ToSef _ d a => sef1 g d a false true .rne fun _ w => toSef (ff .bf16) w
  | .vxcvt g .sefToF32 rm d a => sef1 g d a true false (vMode s rm) fun q w => fromSef (ff .f32) q w
  | .vxcvt g .sefToBf16 rm d a => sef1 g d a true false (vMode s rm) fun q w => fromSef (ff .bf16) q w
  | _ => none

/-- A comparison of lanes: the acting lanes of the predicate are set or cleared, and the others stand (09 R201 R204). -/
structure VCmpRow where
  g     : Guard
  reads : List VReg
  pd    : Fin 64
  lane  : Fin 64 → Bool × Ev

def VCmpRow.after (r : VCmpRow) (s : State) : State :=
  let m := acts s r.g
  plus s ((if m = 0 then [] else ebpOf s [] r.reads)
    ++ [res s 2 [.pred (pReg s.cur r.pd) m (packLanes fun k => m.getLsbD k.val && (r.lane k).1)] none
      (Ev.union ((List.finRange 64).map fun k => if m.getLsbD k.val then (r.lane k).2 else 0))])

def icmp (cc : ICc) (a b : Int) : Bool :=
  match cc with
  | .eq => decide (a = b)
  | .ne => decide (a ≠ b)
  | .lt => decide (a < b)
  | .le => decide (a ≤ b)
  | .gt => decide (b < a)
  | .ge => decide (b ≤ a)

def vCmpRow (s : State) (i : Instr) : Option VCmpRow :=
  match i with
  | .vcmp g pd cc f a b => some { g := g, reads := [a, b], pd := pd, lane := fun k => fcmpHolds cc (fpOf f (opnd s (is64 f) a k)) (fpOf f (opnd s (is64 f) b k)) }
  | .vicmp g pd cc f a b => some { g := g, reads := [a, b], pd := pd, lane := fun k => (icmp cc (iOf f (opnd s (is64i f) a k)) (iOf f (opnd s (is64i f) b k)), 0) }
  | _ => none

end Sys2Proof.Claim

/-- 09 R196 to R202 R207, 05 R101 R102 R103 R107: the floating-point vector instructions. Each acting lane gets the rounded value of its
elements; the others keep theirs; nothing else changes but the draw number under RSTO. -/
def Obligations.VectorFloat : Prop :=
  ∀ (i : Instr) (s : State) (r : Claim.VRow), Claim.vfRow s i = some r → exec i s = .next (r.after s)

/-- 09 R203 R205, 05 R97 R98: the integer vector instructions and the conversions. -/
def Obligations.VectorInteger : Prop :=
  ∀ (i : Instr) (s : State) (r : Claim.VRow), Claim.viRow s i = some r → exec i s = .next (r.after s)

/-- 09 R208 R209 R210 R212, 05 R116 to R120: movement along the row, and the SEF instructions; a whole-vector operation acts when lane 0
of its predicate lets it, and writes every lane. VSEL writes every lane whatever its predicate holds. -/
def Sys2Proof.Claim.vectorMoves : Prop :=
  (∀ (i : Instr) (s : State) (r : Claim.VRow), Claim.vmRow s i = some r → (r.whole = true → s.on r.g = true) →
    exec i s = .next (r.after s))
  ∧ ∀ (g : Guard) (pair : Bool) (d a b : VReg) (s : State),
    exec (.vsel g pair d a b) s = .next (({ g := g, whole := true, reads := [a, b], pair := pair, d := d, lat := 1, lane := fun k =>
      (if (Claim.acts s g).getLsbD k.val then Claim.opnd s pair a k else Claim.opnd s pair b k, 0) } : Claim.VRow).after s)

/-- 09 R201 R204, 07 R152: VCMP and VICMP write the acting lanes of their predicate at two ticks. -/
def Sys2Proof.Claim.vectorCompares : Prop :=
  ∀ (i : Instr) (s : State) (r : Claim.VCmpRow), Claim.vCmpRow s i = some r → exec i s = .next (r.after s)


/-! ### Reductions, columns, random numbers, witnesses and quantisation (05, 09 R206 R211 R213 R214, 12) -/

namespace Sys2Proof.Claim
open Machine

/-- What is written to consecutive vector registers (03 R51 R60 R65). -/
def vecs (s : State) (d : VReg) (vs : List Vec) : List RegWrite :=
  match d with
  | .v n => vs.zipIdx.map fun x => .vec (vReg s.cur (tileReg n x.2)) (-1) x.1
  | _ => []

/-- A result of a V unit in several registers and other destinations; its bypass carries the last register (09 R197). -/
def many (s : State) (lat : Nat) (d : VReg) (vs : List Vec) (more : List RegWrite) (ev : Ev) : Result :=
  res s lat (vecs s d vs ++ more) (some (unitBp s (vs.getLastD Vec.zero))) ev

/-- One combine of a reduction or scan (09 R211). -/
def combines (o : VRed) (q : Rnd) (a b : Word64) : Word64 × Ev :=
  match o.fmt with
  | .fp f =>
    let r := match o.op with
      | .max => (ff f).minMax true (fpBits f a) (fpBits f b)
      | .min => (ff f).minMax false (fpBits f a) (fpBits f b)
      | _ => (ff f).add q (fpOf f a) (fpOf f b)
    (BitVec.ofNat 64 r.1, r.2)
  | .int f =>
    let x := iOf f a
    let y := iOf f b
    let raw (g : BitVec (iW f) → BitVec (iW f) → BitVec (iW f)) : Word64 × Ev :=
      (iPut f (g (BitVec.ofInt _ x) (BitVec.ofInt _ y)).toNat, 0)
    match o.op with
    | .sum => if o.sat then iSat f (x + y) else (iPut f (x + y), 0)
    | .max => (iPut f (if x ≤ y then y else x), 0)
    | .min => (iPut f (if x ≤ y then x else y), 0)
    | .and => raw fun u v => u &&& v
    | .or => raw fun u v => u ||| v
    | .xor => raw fun u v => u ^^^ v

/-- The fixed tree over 2^n elements: element i with element i + 2^(n − 1), then the tree of the lower half (05 R123 R124). -/
def tree (op : Word64 → Word64 → Word64 × Ev) : Nat → (Nat → Word64 × Ev) → Word64 × Ev
  | 0, x => x 0
  | n + 1, x => tree op n fun i =>
      let a := x i
      let b := x (i + 2 ^ n)
      let r := op a.1 b.1
      (r.1, a.2 ||| b.2 ||| r.2)

/-- A scan's first element as a result of its format (05 R97 R100). -/
def firstOf (f : NumFmt) (a : Word64) : Word64 × Ev :=
  match f with
  | .fp f =>
    if (fpOf f a).isNan then (BitVec.ofNat 64 (ff f).nanBits, if (fpOf f a).isSig then 1 else 0) else (BitVec.ofNat 64 (fpBits f a), 0)
  | .int f => (iPut f (iOf f a), 0)

/-- y[i] of a scan: y[0] := x[0], y[i] := op(y[i − 1], x[i]) (05 R125). -/
def scanned (o : VRed) (q : Rnd) (x : Nat → Word64) : Nat → Word64 × Ev
  | 0 => firstOf o.fmt (x 0)
  | i + 1 => combines o q (scanned o q x i).1 (x (i + 1))

/-- Row `i` of the tile that starts at a register. -/
def tileRow (s : State) (a : VReg) (i : Nat) : Vec := s.rv (a.plus i)

/-- Philox-4×32-10 (05 R108). -/
def philox4 : Nat → Word32 × Word32 → Word32 × Word32 × Word32 × Word32 → Word32 × Word32 × Word32 × Word32
  | 0, _, c => c
  | n + 1, k, (c0, c1, c2, c3) =>
    let p0 : Word64 := 0xD2511F53#64 * c0.setWidth 64
    let p1 : Word64 := 0xCD9E8D57#64 * c2.setWidth 64
    philox4 n (k.1 + 0x9E3779B9#32, k.2 + 0xBB67AE85#32)
      ((p1 >>> 32).setWidth 32 ^^^ c1 ^^^ k.1, p1.setWidth 32, (p0 >>> 32).setWidth 32 ^^^ c3 ^^^ k.2, p0.setWidth 32)

/-- Word `w` of the output for an element (05 R109). -/
def drawn (s : State) (w : Fin 4) (k : Nat) : Word32 :=
  let p := s.cur.sp
  let i := p.base + BitVec.ofNat 64 k
  let r := philox4 10 (p.rngk.setWidth 32, (p.rngk >>> 32).setWidth 32) (i.setWidth 32, (i >>> 32).setWidth 32, p.tid, p.draw)
  if w = 0 then r.1 else if w = 1 then r.2.1 else if w = 2 then r.2.2.1 else r.2.2.2

/-! #### Witness producers (12 R248 to R257) -/

/-- Whether an element of a format is a NaN, its place in the order of 12 R251, and itself as a result. -/
def nanOf (f : NumFmt) (w : Word32) : Bool :=
  match f with
  | .fp f => (fpOf f (w.setWidth 64)).isNan
  | .int _ => false

def sigOf (f : NumFmt) (w : Word32) : Bool :=
  match f with
  | .fp f => (fpOf f (w.setWidth 64)).isSig
  | .int _ => false

def place (f : NumFmt) (w : Word32) : Int :=
  match f with
  | .fp f =>
    let x := fpBits f (w.setWidth 64)
    let top := 2 ^ (fpW f - 1)
    if x < top then x else -1 - ((x - top : Nat) : Int)
  | .int f => iOf f (w.setWidth 64)

def asOut (f : NumFmt) (w : Word32) : Word32 :=
  match f with
  | .fp f => BitVec.ofNat 32 (fpBits f (w.setWidth 64))
  | .int f => (iPut f (iOf f (w.setWidth 64))).setWidth 32

def nanWord (f : NumFmt) : Word32 :=
  match f with
  | .fp f => BitVec.ofNat 32 (ff f).nanBits
  | .int _ => 0

/-- Which place of the sorted order a selection takes, among `n`. -/
inductive Pick where
  | largest | smallest | middle

/-- The value, entry and events of a selection: a NaN wins with the lowest index that holds one; else the lowest index whose value
stands at the place asked for, with the tie bit where another is equal (12 R250 R251). -/
def chosen (p : Pick) (f : NumFmt) (n : Nat) (c : Nat → Word32) : Word32 × Byte × Ev :=
  let lower (q : Nat) := (List.range n).countP fun j => place f (c j) < place f (c q)
  let upTo (q : Nat) := (List.range n).countP fun j => place f (c j) ≤ place f (c q)
  let at_ := match p with
    | .largest => n - 1
    | .smallest => 0
    | .middle => (n - 1) / 2
  let ev : Ev := if (List.range n).any fun q => sigOf f (c q) then 1 else 0
  match (List.range n).find? fun q => nanOf f (c q) with
  | some q => (nanWord f, BitVec.ofNat 8 (q + 128), ev)
  | none =>
    match (List.range n).find? fun q => decide (lower q ≤ at_) && decide (at_ < upTo q) with
    | some q => (asOut f (c q), BitVec.ofNat 8 (q + if lower q + 1 < upTo q then 64 else 0), ev)
    | none => (0, 0, 0)

/-- A clamp of one element (12 R254). -/
def clamped (f : NumFmt) (x lo hi : Word32) : Word32 × Byte × Ev :=
  let ev : Ev := if sigOf f x || sigOf f lo || sigOf f hi then 1 else 0
  if nanOf f x || nanOf f lo || nanOf f hi then (nanWord f, 3, ev)
  else if place f x < place f lo then (asOut f lo, 1, ev)
  else if place f x > place f hi then (asOut f hi, 2, ev)
  else (asOut f x, 0, ev)

/-- An exact sum of `n` elements, saturated once (12 R256). -/
def summed (f : IntFmt) (n : Nat) (c : Nat → Word32) : Word32 × Byte × Ev :=
  let v := (List.range n).foldl (fun v q => v + iOf f ((c q).setWidth 64)) (0 : Int)
  ((iPut f (clamp (iLo f) (iHi f) v)).setWidth 32, if v < iLo f then 3 else if v > iHi f then 1 else 0,
    if v < iLo f ∨ v > iHi f then BitVec.twoPow 9 5 else 0)

/-- A producer's row: guard, bypasses it may read, destination, ticks, witness, OP, AXIS, CNT, and the value, entry and events of each
element, of a tile (axis 0), of 16 rows (axis 1) or of 64 columns (axis 2). -/
structure WRow where
  g    : Guard
  reads : List VReg
  d    : VReg
  lat  : Nat
  k    : Fin 8
  op   : Nat
  axis : Nat
  cnt  : Nat
  el   : Fin 16 → Fin 64 → Word32 × Byte × Ev

/-- The elements that a shape uses. -/
def WRow.used (r : WRow) (i : Fin 16) (j : Fin 64) : Bool := r.axis == 0 || (r.axis == 1 && j == 0) || (r.axis == 2 && i == 0)

/-- Data and witness land together; entries that the shape does not use are 0 (12 R248 R253). -/
def WRow.after (r : WRow) (s : State) : State :=
  let val (i : Fin 16) (j : Fin 64) : Word32 := (r.el i j).1
  let vs : List Vec :=
    if r.axis = 0 then (List.finRange 16).map fun i => Vec.ofLanes fun j => val i j
    else if r.axis = 1 then [Vec.ofLanes fun k => if k.val < 16 then val (Fin.ofNat 16 k.val) 0 else 0]
    else [Vec.ofLanes fun k => val 0 k]
  let e : Vector (Vector Byte 64) 16 := Vector.ofFn fun i => Vector.ofFn fun j => if r.used i j then (r.el i j).2.1 else 0
  let ev := Ev.union ((List.finRange 16).flatMap fun i => (List.finRange 64).map fun j => if r.used i j then (r.el i j).2.2 else 0)
  plus s (ebpOf s [] r.reads ++ [many s r.lat r.d vs
    [.witness r.k ⟨e, BitVec.ofNat 4 r.op, BitVec.ofNat 2 r.axis, BitVec.ofNat 7 r.cnt, s.cur.ctxId, true, 0⟩] ev])

/-- Ticks of an element-wise producer (12 R257). -/
def eLat (s : State) (f : NumFmt) : Nat :=
  match f with
  | .fp _ => if s.cur.profA then 6 else 5
  | .int _ => 3

def wRow (s : State) (i : Instr) : Option WRow :=
  let cell (a : VReg) (i : Nat) (j : Nat) : Word32 := (tileRow s a i).get (Fin.ofNat 64 j)
  let ext (o : WProd) (op : Nat) (p : Pick) : Option WRow :=
    match o.shape with
    | .elem => some ⟨o.g, [], o.d, eLat s o.fmt, o.k, op, 0, o.n.val, fun i j => chosen p o.fmt o.n.val fun q => cell o.a (16 * q + i.val) j.val⟩
    | .row => some ⟨o.g, [], o.d, 5, o.k, op, 1, 64, fun i _ => chosen p o.fmt 64 fun q => cell o.a i.val q⟩
    | .col => some ⟨o.g, [], o.d, 7, o.k, op, 2, 16, fun _ j => chosen p o.fmt 16 fun q => cell o.a q j.val⟩
  match i with
  | .vmaxw o => ext o 1 .largest
  | .vminw o => ext o 2 .smallest
  | .vmedw g d a n k f =>
    some ⟨g, [], d, eLat s f, k, 4, 0, n.val, fun i j => chosen .middle f n.val fun q => cell a (16 * q + i.val) j.val⟩
  | .vclmpw g d a b k f =>
    some ⟨g, [b], d, eLat s f, k, 3, 0, 1, fun i j => clamped f (cell a i.val j.val) ((s.rv b).get 0) ((s.rv b).get 1)⟩
  | .vsatw g d a false k f => some ⟨g, [], d, 5, k, 5, 1, 64, fun i _ => summed f 64 fun q => cell a i.val q⟩
  | .vsatw g d a true k f => some ⟨g, [], d, 7, k, 5, 2, 16, fun _ j => summed f 16 fun q => cell a q j.val⟩
  | _ => none

/-! #### The adjoint broadcast (12 R258 R259) -/

def adjOp (o : AdjOp) : Nat :=
  match o with
  | .max => 1
  | .min => 2
  | .clamp => 3
  | .med => 4
  | .sat => 5

/-- AXIS and CNT that VADJ expects. -/
def adjShape (o : AdjOpnd) : Nat × Nat :=
  match o.shape with
  | .elem => (0, match o.op with | .clamp => 1 | _ => o.n.val)
  | .row => (1, 64)
  | .col => (2, 16)

/-- The contributor that an entry names. -/
def routes (cnt : Nat) (e : Byte) (q : Nat) : Bool := !e.getLsbD 7 && e.toNat % 64 == q && decide (q < cnt)

/-- dx of a contributor (12 R259). -/
def dx (s : State) (o : AdjOpnd) (q : Nat) (i : Fin 16) (j : Fin 64) : Word32 :=
  let e (i : Fin 16) (j : Fin 64) : Byte := ((s.cur.regs.w.get o.k).e.get i).get j
  let n := (adjShape o).2
  let on (c : Bool) (v : Word32) : Word32 := if c then v else 0
  match o.op, o.shape with
  | .clamp, _ => on ((e i j).toNat % 4 == 0) ((tileRow s o.a i.val).get j)
  | .sat, .col => on (!(e 0 j).getLsbD 0) ((s.rv o.a).get j)
  | .sat, _ => on (!(e i 0).getLsbD 0) ((s.rv o.a).get (Fin.ofNat 64 i.val))
  | _, .elem => on (routes n (e i j) q) ((tileRow s o.a i.val).get j)
  | _, .row => on (routes n (e i 0) j.val) ((s.rv o.a).get (Fin.ofNat 64 i.val))
  | _, .col => on (routes n (e 0 j) i.val) ((s.rv o.a).get j)

/-- The entries that VADJ reads hold the mark of a NaN. -/
def adjNaN (s : State) (o : AdjOpnd) : Prop :=
  let mark (i : Fin 16) (j : Fin 64) : Prop :=
    let e := ((s.cur.regs.w.get o.k).e.get i).get j
    match o.op with
    | .clamp => e.toNat % 4 = 3
    | .sat => False
    | _ => e.getLsbD 7 = true
  match o.shape with
  | .elem => ∃ i j, mark i j
  | .row => ∃ i, mark i 0
  | .col => ∃ j, mark 0 j

/-- The tiles that VADJ writes. -/
def adjTiles (o : AdjOpnd) : Nat :=
  match o.op, o.shape with
  | .clamp, _ => 1
  | _, .elem => o.n.val
  | _, _ => 1

/-- The header of a witness (12 R249). -/
def headerOf (w : Wit) : Nat :=
  if w.live = true then w.op.toNat + w.axis.toNat * 2 ^ 4 + w.cnt.toNat * 2 ^ 8 + 2 ^ 15 + w.gen.toNat * 2 ^ 16 + w.ctx.toNat * 2 ^ 32
  else w.gen.toNat * 2 ^ 16

/-- The first check of VADJ that fails (12 R259 R260). -/
def stale (s : State) (o : AdjOpnd) : Nat :=
  let w := s.cur.regs.w.get o.k
  if w.live = false then 1 else if w.op.toNat ≠ adjOp o.op then 2
  else if w.axis.toNat ≠ (adjShape o).1 ∨ w.cnt.toNat ≠ (adjShape o).2 then 3 else 0

/-! #### Quantisation (05 R112 to R115, 09 R206) -/

def mxRegs (f : MxFmt) : Nat :=
  match f with
  | .mxint4 => 8
  | _ => 4

def mxW (f : MxFmt) : Nat :=
  match f with
  | .mxint8 => 8
  | .mxint6 => 6
  | .mxint4 => 4

/-- Element scaling and the largest code. -/
def mxFrac (f : MxFmt) : Nat := mxW f - 2

/-- Byte `i` of a vector register. -/
def vByte (v : Vec) (i : Nat) : Nat := (v.get (Fin.ofNat 64 (i / 4))).toNat / 256 ^ (i % 4) % 256

/-- Element `j` of packed bytes. -/
def mxElem (f : MxFmt) (b : Nat → Nat) (j : Nat) : Int :=
  let x : Nat := match f with
    | .mxint4 => b (j / 2) / 16 ^ (j % 2)
    | _ => b j
  let y := x % 2 ^ mxW f
  if y < 2 ^ (mxW f - 1) then (y : Int) else (y : Int) - 2 ^ mxW f

/-- A register of packed elements: its byte `i`. -/
def packed (f : MxFmt) (q : Nat → Int) (i : Nat) : Nat :=
  match f with
  | .mxint4 => (q (2 * i) % 16).toNat + 16 * (q (2 * i + 1) % 16).toNat
  | _ => (q i % 256).toNat

/-- A vector register from its bytes. -/
def ofBytes (b : Nat → Nat) : Vec :=
  Vec.ofLanes fun k => BitVec.ofNat 32 (b (4 * k.val) + 2 ^ 8 * b (4 * k.val + 1) + 2 ^ 16 * b (4 * k.val + 2) + 2 ^ 24 * b (4 * k.val + 3))

def wideOf (bf16 : Bool) : FFmt := if bf16 then ⟨8, 8⟩ else ⟨24, 8⟩

/-- Magnitude m × 2^e at most f × 2^a. -/
abbrev atMost (m : Nat) (e : Int) (f : Nat) (a : Int) : Prop := m * 2 ^ (e - min e a).toNat ≤ f * 2 ^ (a - min e a).toNat

end Sys2Proof.Claim

/-- 09 R211 R213, 05 R97 R123 R124 R125: VREDR and VREDC combine by the fixed tree, of 64 lanes or of 16 rows lane by lane; VSCANR and
VSCANC in index order. Each combine rounds once; RSTO rounds RNE and draws nothing. Nothing else changes. -/
def Obligations.Reductions : Prop :=
  ∀ (o : VRed) (s : State), s.on o.g = true →
    let q := Claim.sMode s o.rm
    let p := Claim.pairOf o.fmt
    let row : Claim.VRow := { g := o.g, whole := true, reads := [o.a], pair := p, d := o.d, lat := 4, lane := fun _ => (0, 0) }
    let col (j : Fin 64) (i : Nat) : Word64 := ((Claim.tileRow s o.a i).get j).setWidth 64
    exec (.vredr o) s = .next (({ row with
      lane := fun _ => Claim.tree (Claim.combines o q) 6 fun k => (Claim.laneOf s p o.a k, 0) } : Claim.VRow).after s)
    ∧ exec (.vscanr o) s = .next (({ row with
      lat := 5, lane := fun k => Claim.scanned o q (Claim.laneOf s p o.a) k.val } : Claim.VRow).after s)
    ∧ exec (.vredc o) s = .next (({ row with
      reads := [], pair := false, lat := 6, lane := fun j => Claim.tree (Claim.combines o q) 4 fun i => (col j i, 0) } : Claim.VRow).after s)
    ∧ exec (.vscanc o) s = .next (Claim.plus s [Claim.many s 7 o.d
        ((List.range 16).map fun i => Vec.ofLanes fun j => (Claim.scanned o q (col j) i).1.setWidth 32) []
        (Ev.union ((List.finRange 64).flatMap fun j => (List.range 16).map fun i => (Claim.scanned o q (col j) i).2))])

/-- 09 R213 R214, 05 R107 R108 R109: VROTC and VBCC move the rows of a tile; VRNG.SET sets the stochastic state from the next bundle on;
GEN gives each acting lane its word of Philox, and advances the draw number or the base whatever lanes act; GET delivers the state. -/
def Obligations.ColumnsAndRandom : Prop :=
  ∀ (g : Guard) (f : NumFmt) (d a : VReg) (n : Fin 16) (s : State),
    (s.on g = true →
      exec (.vrotc g f d a n) s
        = .next (Claim.plus s [Claim.many s 4 d ((List.range 16).map fun i => Claim.tileRow s a ((i + n.val) % 16)) [] 0])
      ∧ exec (.vbcc g f d a n) s = .next (Claim.plus s [Claim.many s 3 d ((List.range 16).map fun _ => Claim.tileRow s a n.val) [] 0])
      ∧ exec (.vrngSet g a) s = .next (Claim.plus s (Claim.ebpOf s [] [a] ++
          [Claim.res s 1 [.stoch ((s.rv a).get 0) ((s.rv a).get 2 ++ (s.rv a).get 1) ((s.rv a).get 3)] none]))
      ∧ exec (.vrngGet g d) s = .next (({ g := g, whole := true, reads := [], pair := false, d := d, lat := 6, lane := fun k =>
          let p := s.cur.sp
          ((if k = 0 then p.tid.setWidth 64 else if k = 1 then p.base &&& 0xFFFFFFFF else if k = 2 then p.base >>> 32
            else if k = 3 then p.draw.setWidth 64 else 0), 0) } : Claim.VRow).after s))
    ∧ ∀ (f32 adv : Bool) (w : Fin 4), exec (.vrngGen g f32 adv w d) s
        = .next (({ g := g, reads := [], pair := false, d := d, lat := 6, lane := fun k =>
            let x := Claim.drawn s w k.val
            (if f32 then BitVec.ofNat 64 ((Claim.ff .f32).roundFin Rnd.rne false (x.toNat / 256) (-24)).1 else x.setWidth 64, 0) } : Claim.VRow).after
          (Claim.cur s fun c => { c with sp :=
            if adv then { c.sp with base := c.sp.base + 64 } else { c.sp with draw := c.sp.draw + 1 } }))

/-- 12 R248 to R257: a producer lands its data and its witness in one result, by the order and tie rules, with the entries that its shape
does not use at 0, and raises invalid for a signalling NaN and saturation for a changed sum only. That VMEDW names the lowest index of
equal values is the model's choice (assumption log 25). -/
def Sys2Proof.Claim.witnessProducers : Prop :=
  ∀ (i : Instr) (s : State) (r : Claim.WRow), Claim.wRow s i = some r → s.on r.g = true → exec i s = .next (r.after s)

/-- 12 R258 R259 R260: VADJ on a live witness of its operator and shape routes dy to the contributors that the entries name, zero
elsewhere, raises witness NaN where a read entry marks one, and with FREE empties the witness when it lands. The first check that fails
is a stale-witness fault with its reason and the header found. -/
def Obligations.AdjointBroadcast : Prop :=
  ∀ (o : AdjOpnd) (s : State), s.on o.g = true →
    (Claim.stale s o ≠ 0 → exec (.vadj o) s = Claim.faults s 8 (BitVec.ofNat 64 (o.k.val + 16 * Claim.stale s o))
      (BitVec.ofNat 64 (Claim.headerOf (s.cur.regs.w.get o.k))))
    ∧ (Claim.stale s o = 0 → ∀ e : Ev, (Claim.adjNaN s o → e = BitVec.twoPow 9 7) → (¬ Claim.adjNaN s o → e = 0) →
      exec (.vadj o) s = .next (Claim.plus s (Claim.ebpOf s [] (match o.shape with | .elem => [] | _ => [o.a]) ++
        [Claim.many s 3 o.d ((List.range (Claim.adjTiles o)).flatMap fun q =>
            (List.finRange 16).map fun i => Vec.ofLanes fun j => Claim.dx s o q i j)
          (if o.free then [.witFree o.k] else []) e])))

/-- 12 R248 R261: WMOV reads the entries of a witness in any state into four registers, WMOV.H its header; WCLR empties it, and the
counter stands. -/
def Sys2Proof.Claim.witnessMoves : Prop :=
  ∀ (g : Guard) (d : VReg) (k : Fin 8) (s : State), s.on g = true →
    let w := s.cur.regs.w.get k
    exec (.wmov g false d k) s = .next (Claim.plus s [Claim.many s 2 d ((List.range 4).map fun r => Claim.ofBytes fun b =>
        ((w.e.get (Fin.ofNat 16 (4 * r + b / 64))).get (Fin.ofNat 64 b)).toNat) [] 0])
    ∧ exec (.wmov g true d k) s = .next (Claim.plus s [Claim.many s 2 d [Vec.ofLanes fun i =>
        if i = 0 then BitVec.ofNat 32 (Claim.headerOf w) else if i = 1 then BitVec.ofNat 32 (Claim.headerOf w / 2 ^ 32) else 0] [] 0])
    ∧ exec (.wclr g k) s = .next (Claim.plus s [Claim.res s 1 [.witFree k] none])
    ∧ ∀ c : Ctx, ((RegWrite.witFree k).apply c).regs.w.get k
        = ⟨Vector.replicate 16 (Vector.replicate 64 0), 0, 0, 0, 0, false, (c.regs.w.get k).gen⟩

/-- 09 R206, 05 R112 to R115: VQNT packs the codes of its blocks and writes their scales in one result; VDQNT writes each element's
exact value, a NaN under scale 0xFF, and a free value for −2^128, which neither format holds (assumption log 12). Nothing else changes but the draw number under RSTO. -/
def Sys2Proof.Claim.quantisation : Prop :=
  ∀ (o : VQ) (rm : Rm) (s : State), s.on o.g = true →
    let n := Claim.mxRegs o.mx
    let base := 2 * n * o.grp.val
    let m := Claim.vMode s rm
    let W := Claim.wideOf o.bf16
    let x (j : Nat) : Fl := W.unpack ((Claim.tileRow s o.a (j / 64)).get (Fin.ofNat 64 j)).toNat
    let block (b : Nat) := mxQuant o.mx (fun j => Claim.rounds s m (32 * b + j)) ((List.range 32).map fun j => x (32 * b + j))
    exec (.vqnt rm o) s = .next (Claim.plus (Claim.draws s m) (Claim.ebpOf s [] [o.a] ++
      [Claim.many s 6 o.d [Claim.ofBytes (Claim.packed o.mx fun j => (block (j / 32)).2.1.getD (j % 32) 0)]
        [.scale o.e (BitVec.ofNat 64 ((2 ^ (2 * n) - 1) * 2 ^ base)) (Vector.ofFn fun i =>
          if i.val - base < 2 * n then BitVec.ofNat 8 (block (i.val - base)).1 else 0)]
        (Ev.union ((List.range (2 * n)).map fun b => (block b).2.2))]))
    ∧ exec (.vdqnt o) s = .next (Claim.plus s (Claim.ebpOf s [] [o.a] ++ [Claim.many s 3 o.d
        ((List.range n).map fun r => Vec.ofLanes fun k =>
          let j := 64 * r + k.val
          let q := Claim.mxElem o.mx (Claim.vByte (s.rv o.a)) j
          let c := ((s.cur.regs.e.get o.e).get (Fin.ofNat 64 (base + j / 32))).toNat
          BitVec.ofNat 32 (if c = 255 then W.nanBits
            else if c = 254 ∧ q = -(2 ^ (Claim.mxW o.mx - 1)) then (Config.mxBeyond o.bf16).toNat % 2 ^ (if o.bf16 then 16 else 32)
            else (W.roundFin Rnd.rne (decide (q < 0)) q.natAbs
            ((c : Int) - 127 - Claim.mxFrac o.mx)).1)) [] 0]))

/-- 05 R113: a block with a NaN or an infinity has scale 0xFF, all codes 0 and invalid; a block of zeros scale 0. Otherwise the scale is
the smallest power of two at which no element exceeds the largest code, clamped to 2^−127 and 2^127. -/
def Sys2Proof.Claim.blockScales : Prop :=
  ∀ (f : MxFmt) (q : Nat → Rnd) (xs : List Fl), xs.length = 32 →
    let top := 2 ^ (Claim.mxW f - 1) - 1
    let r := mxQuant f q xs
    let fits (c : Int) : Prop := ∀ (n : Bool) (m : Nat) (e : Int), Fl.fin n m e ∈ xs → Claim.atMost m e top (c - 127 - Claim.mxFrac f)
    ((∃ x ∈ xs, ∀ (n : Bool) (m : Nat) (e : Int), x ≠ .fin n m e) → r = (255, xs.map fun _ => 0, 1))
    ∧ ((∀ x ∈ xs, ∃ (n : Bool) (e : Int), x = .fin n 0 e) → r = (0, xs.map fun _ => 0, 0))
    ∧ ((∀ x ∈ xs, ∃ (n : Bool) (m : Nat) (e : Int), x = .fin n m e) → (∃ (n : Bool) (m : Nat) (e : Int), Fl.fin n m e ∈ xs ∧ 0 < m) →
        r.1 ≤ 254 ∧ (r.1 < 254 → fits r.1) ∧ (0 < r.1 → ¬ fits ((r.1 : Int) - 1)))


/-! ### Matrix steps and accumulator moves (10 R216 to R225, 05 R121 R122) -/

namespace Sys2Proof.Claim
open Machine

/-- Positions along K of one step, element widths of A and of B (0 for BF16), in the rows of the table (10 R216). -/
def mRow (f : MFmt) : Nat × Nat × Nat :=
  match f with
  | .mx8 => (1, 8, 8)
  | .mx6 => (1, 6, 6)
  | .mx4 => (4, 4, 4)
  | .mx8x4 => (2, 8, 4)
  | .mx4x8 => (2, 4, 8)
  | .bf16 => (1, 0, 0)

/-- Bytes of `p` positions of an operand whose elements are `w` bits wide; 0 stands for BF16 (10 R217). -/
def mBytes (w p : Nat) : Nat := if w = 0 then 128 * p else if w = 4 then 32 * p else 64 * p

/-- Which operand a sparse step keeps, and its positions: A and B of an instruction (10 R217 R222). -/
def mPos (f : MFmt) (sp : Option (Bool × VReg)) : Nat × Nat :=
  let k := (mRow f).1
  match sp with
  | none => (k, k)
  | some (false, _) => (k, 2 * k)
  | some (true, _) => (2 * k, k)

/-- An operand: the context whose LS it streams from, the kind of its request, its address and its length; none for a register. The
faults come before (10 R218). -/
def mAddr (x : MSrc) : Option (Fin 16 × Option (Fin 16)) :=
  match x with
  | .vec _ => none
  | .ls a => some (a, none)
  | .remote a c => some (a, some c)

/-- The context that a stream reads: its own, or the one of the grid on a core of its cluster, resident or saved. -/
def mKey (s : State) (x : MSrc) : Option LsAt :=
  match x with
  | .remote _ c => s.peerAt c
  | _ => some ⟨s.focus, none⟩

/-- The fault of a stream (06 R390, 10 R218). -/
def mFault (s : State) (x : MSrc) (len : Nat) : Option Flt :=
  match mAddr x with
  | none => none
  | some (a, c) =>
    let va := s.cur.aVal a
    if va.toNat % 64 ≠ 0 then some (7, va, 0)
    else match mKey s x with
      | none => some (5, BitVec.ofNat 64 (match c with | some c => c.val | none => 0), 11)
      | some k => if va.toNat + len > (s.lsCtx k).foot then some (5, va, 2) else none

/-- The stream's request on the banks as its step issues: elastic for a secondary context (10 R218, 06 R130). -/
def mAsks (s : State) (x : MSrc) (kind len : Nat) : State :=
  match mAddr x, mKey s x with
  | some (a, c), some k =>
    if s.cur.kind = .compute ∧ k.saved = none then
      { s with lsReqs := s.lsReqs ++ [⟨k.key, (match c with | some _ => 4 | none => kind), s.cur.gid % 16, (s.cur.aVal a).toNat, len, false,
          s.focus, s.issue.addr, s.issue.pos, s.cur.second⟩] }
    else s
  | _, _ => s

/-- The bytes of an operand. -/
def mByte (s : State) (x : MSrc) (i : Nat) : Nat :=
  match x with
  | .vec v => vByte (s.rv v) i
  | .ls a => (s.cur.lsView.read ((s.cur.aVal a).toNat + i)).toNat
  | .remote a _ => match mKey s x with
    | some k => ((s.lsCtx k).ls.read ((s.cur.aVal a).toNat + i)).toNat
    | none => 0

/-- Element `e` of an integer operand (05 R112). -/
def mInt (w : Nat) (b : Nat → Nat) (e : Nat) : Int :=
  let x := (if w = 4 then b (e / 2) / 16 ^ (e % 2) else b e) % 2 ^ w
  if x < 2 ^ (w - 1) then (x : Int) else (x : Int) - 2 ^ w

def mBf (b : Nat → Nat) (e : Nat) : Fl := (ff .bf16).unpack (b (2 * e) + 256 * b (2 * e + 1))

/-- The dense position that kept value `x` of a line multiplies (10 R222). -/
def kept (k : Nat) (sel : Nat) (x : Nat) : Nat :=
  if k = 1 then sel % 2 else if k = 2 then sel / 4 ^ x % 4 else 4 * (x / 2) + sel / 4 ^ x % 4

/-- The positions of A and of B whose product is term `x` of cell (i, j); `sel` gives the select byte of a line of the operand that is
kept dense. -/
def terms (f : MFmt) (sel : Option (Bool × (Nat → Nat))) (i j x : Nat) : Nat × Nat :=
  match sel with
  | none => (x, x)
  | some (false, v) => (x, kept (mRow f).1 (v i) x)
  | some (true, v) => (kept (mRow f).1 (v j) x, x)

/-- Cells by their row and column. -/
def byCell (f : Nat → Nat → Word32) : Cells := Vector.ofFn fun i => Vector.ofFn fun j => f i.val j.val

def cellOf (c : Cells) (i j : Nat) : Word32 := (c.get (Fin.ofNat 64 i)).get (Fin.ofNat 64 j)

/-- A cell after a BF16 step: one rounding for each term, in K order (05 R122). -/
def bfStep (a b : Nat → Fl) (ts : List (Nat × Nat)) (i j : Nat) (m : Word32) : Word32 × Ev :=
  ts.foldl (fun x t =>
    let r := (ff .f32).fma Rnd.rne (a (64 * t.1 + i)) (b (64 * t.2 + j)) ((ff .f32).unpack x.1.toNat)
    (BitVec.ofNat 32 r.1, x.2 ||| r.2)) (m, 0)

/-- An accumulator after a step, with its events (10 R220). -/
def stepped (m0 : Acc) (o : MStepOp) (sel : Option (Bool × (Nat → Nat))) (eA eB : Vector Byte 64) (A B : Nat → Nat) : Acc × Ev :=
  let zero := byCell fun _ _ => 0
  let m : Acc := if o.ovw then ⟨zero, zero, 0, none, m0.seen⟩ else m0
  let (k, wa, wb) := mRow o.fmt
  let ts (i j : Nat) := (List.range k).map fun x => terms o.fmt sel i j x
  let all (e : Nat → Nat → Ev) : Ev := Ev.union ((List.range 64).map fun i => Ev.union ((List.range 64).map fun j => e i j))
  if wa = 0 then
    let c (i j : Nat) := bfStep (mBf A) (mBf B) (ts i j) i j (cellOf m.cells i j)
    ({ m with cells := byCell fun i j => (c i j).1 }, all fun i j => (c i j).2)
  else
    let part (i j : Nat) : Word32 := BitVec.ofInt 32 ((ts i j).foldl
      (fun v t => v + mInt wa A (64 * t.1 + i) * mInt wb B (64 * t.2 + j)) (cellOf m.part i j).toInt)
    let kc := m.kcount + (match sel with | none => k | some _ => 2 * k)
    if kc = 32 then
      let c (i j : Nat) : Nat × Ev :=
        let cA := (eA.get (Fin.ofNat 64 i)).toNat
        let cB := (eB.get (Fin.ofNat 64 j)).toNat
        if cA = 255 ∨ cB = 255 then ((ff .f32).nanBits, 0)
        else (ff .f32).add Rnd.rne ((ff .f32).unpack (cellOf m.cells i j).toNat)
          (.fin (decide ((part i j).toInt < 0)) (part i j).toInt.natAbs ((cA : Int) - 127 + cB - 127 - (wa - 2 : Nat) - (wb - 2 : Nat)))
      (⟨byCell fun i j => BitVec.ofNat 32 (c i j).1, zero, 0, some o.fmt, m.seen⟩, all fun i j => (c i j).2)
    else ({ m with part := byCell part, kcount := kc, tag := some o.fmt }, 0)

/-- The step breaks a block that is open (10 R221). -/
def breaks (m : Acc) (o : MStepOp) (sp : Option (Bool × VReg)) : Prop :=
  o.fmt ≠ .bf16 ∧ o.ovw = false ∧ m.kcount ≠ 0
    ∧ (m.tag ≠ some o.fmt ∨ m.kcount + (match sp with | none => (mRow o.fmt).1 | some _ => 2 * (mRow o.fmt).1) > 32)

/-- An accumulator takes its new state at once; its cells land no earlier than those of its earlier results (10 R223). -/
def accumulates (s : State) (n : Fin 4) (lat : Nat) (m : Acc) (ev : Ev) : State :=
  let c := s.cur
  let prior := (c.flight.filter fun r => r.accOf == some n).foldl (fun x r => max x r.rem) 0
  { s with cur := { c with
      regs := { c.regs with m := c.regs.m.set n m }
      flight := c.flight ++ [⟨max lat prior, [.acc n m.cells], none, ev, s.issue.addr, s.issue.pos, c.sp.scnt.toNat, false, some n⟩] } }

/-- Sources that the step reads as vector registers. -/
def mReads (o : MStepOp) (sp : Option (Bool × VReg)) : List VReg :=
  let r (x : MSrc) : List VReg := match x with | .vec v => [v] | _ => []
  r o.a ++ r o.b ++ (match sp with | some (_, v) => [v] | none => [])

/-- A stream on another core of an elastic grid (10 R218). -/
def far (s : State) (x : MSrc) : Bool :=
  match x with
  | .remote _ _ => s.cur.elastic
  | _ => false

/-- The bytes that an operand has in the issue tick; none where it comes from another core of an elastic grid. -/
def ready? (s : State) (x : MSrc) (len : Nat) : Option (List Byte) :=
  match x with
  | .vec v => some (rowBytes [s.rv v])
  | .ls a => some (s.cur.lsView.readN (s.cur.aVal a).toNat len)
  | .remote _ _ => none

/-- A stream is asked for: from another core as an access of this tick, else on the banks as the step issues. -/
def mStream (s : State) (right : Bool) (x : MSrc) (kind len : Nat) : State :=
  match x with
  | .remote a c => later s [(0, .stream right c (s.cur.aVal a) len)]
  | x => mAsks s x kind len

/-- MSTEP, or MSTEPS with the kept operand and its select register. -/
def mInstr (o : MStepOp) (sp : Option (Bool × VReg)) : Instr :=
  match sp with
  | none => .mstep o
  | some (b, v) => .msteps b o v

/-- The row that an accumulator move names (10 R224). -/
def mLine (s : State) (r : MRow) : Fin 64 :=
  match r with
  | .imm n => n
  | .areg a => Fin.ofNat 64 (s.cur.aVal a).toNat

end Sys2Proof.Claim

/-- 10 R217 to R223, 05 R121 R122 R127: a matrix step, dense or sparse, adds its products to every cell of its accumulator in K order, in
issue order with the other syllables of that accumulator; a block closes at 32 positions. Nothing else changes. A step of an elastic grid with a stream
on another core issues, asks for that stream and waits; with the last of its bytes it acts as at its issue, and its cells land eight ticks after that. A
stream that is misaligned, out of its footprint, or on a core with no context of the grid (detail word 0 its index: log 23) faults. A step that breaks an
open block is an illegal instruction with bit 61 and the accumulator. That the break comes first, then A, then B, is the model's choice (log 61). -/
def Obligations.MatrixSteps : Prop :=
  ∀ (o : MStepOp) (sp : Option (Bool × VReg)) (s : State), s.on o.g = true →
    let m := s.cur.regs.m.get o.acc
    let la := Claim.mBytes (Claim.mRow o.fmt).2.1 (Claim.mPos o.fmt sp).1
    let lb := Claim.mBytes (Claim.mRow o.fmt).2.2 (Claim.mPos o.fmt sp).2
    (Claim.breaks m o sp → exec (Claim.mInstr o sp) s = Claim.faults s 1 (BitVec.ofNat 64 (2 ^ 61 + o.acc.val)) 0)
    ∧ (¬ Claim.breaks m o sp → ∀ f : Flt,
        Claim.mFault s o.a la = some f ∨ Claim.mFault s o.a la = none ∧ Claim.mFault s o.b lb = some f →
        exec (Claim.mInstr o sp) s = Claim.faults s f.1 f.2.1 f.2.2)
    ∧ (¬ Claim.breaks m o sp → Claim.mFault s o.a la = none → Claim.mFault s o.b lb = none →
        let t := Claim.plus s (Claim.ebpOf s [] (Claim.mReads o sp))
        let eA := s.cur.regs.e.get o.eA
        let eB := s.cur.regs.e.get o.eB
        (Claim.far s o.a = false → Claim.far s o.b = false →
          let r := Claim.stepped m o (sp.map fun x => (x.1, Claim.vByte (s.rv x.2))) eA eB (Claim.mByte s o.a) (Claim.mByte s o.b)
          exec (Claim.mInstr o sp) s = .next (Claim.accumulates (Claim.mAsks (Claim.mAsks t o.a 2 la) o.b 3 lb) o.acc 8 r.1 r.2))
        ∧ (Claim.far s o.a = true ∨ Claim.far s o.b = true →
          let w : MPend := ⟨o, sp.map fun x => (x.1, Claim.rowBytes [s.rv x.2]), Claim.ready? s o.a la, Claim.ready? s o.b lb, eA, eB,
            s.issue.addr, s.issue.pos, s.cur.sp.scnt.toNat⟩
          exec (Claim.mInstr o sp) s = .next
            (Claim.mStream (Claim.mStream (Claim.cur t fun c => { c with mstep := some w }) false o.a 2 la) true o.b 3 lb)))
    ∧ ∀ (p : LsPend) (w : MPend) (right : Bool) (core : Fin 16) (a : Word64) (len : Nat) (k : LsAt), p.op = .stream right core a len →
        s.cur.mstep = some w → s.peerAt core = some k → a.toNat % 64 = 0 → a.toNat + len ≤ (s.lsCtx k).foot →
        let bs := (s.lsCtx k).ls.readN a.toNat len
        let got : MPend := if right then { w with b := some bs } else { w with a := some bs }
        (got.a = none ∨ got.b = none → s.runLs p = .ok (Claim.cur s fun c => { c with mstep := some got }))
        ∧ ∀ A B, got.a = some A → got.b = some B →
          let byte (l : List Byte) (i : Nat) : Nat := (l.getD i 0).toNat
          let r := Claim.stepped (s.cur.regs.m.get w.op.acc) w.op (w.sel.map fun x => (x.1, byte x.2)) w.eA w.eB (byte A) (byte B)
          let prior := (s.cur.flight.filter fun r => r.accOf == some w.op.acc).foldl (fun x r => max x r.rem) 0
          s.runLs p = .ok (Claim.cur s fun c => { c with
            mstep := none
            regs := { c.regs with m := c.regs.m.set w.op.acc r.1 }
            flight := c.flight ++ [⟨max (w.born + 8 - s.cur.sp.scnt.toNat) prior, [.acc w.op.acc r.1.cells], none, r.2, w.addr, w.pos, w.born,
              false, some w.op.acc⟩] })

/-- 10 R224 R225, 05 R113 R114: MZERO clears an accumulator and its hidden state; MWR sets one row and leaves the partials; MRD delivers
a row of the cells as they have landed; MRDQ rounds it to BF16, or quantises its two blocks and writes their scales. -/
def Obligations.AccumulatorMoves : Prop :=
  ∀ (g : Guard) (n : Fin 4) (d : VReg) (row : MRow) (rm : Rm) (e : Fin 8) (s : State), s.on g = true →
    let a := s.cur.regs.m.get n
    let r := Claim.mLine s row
    let zero := Claim.byCell fun _ _ => 0
    let m := Claim.vMode s rm
    let x (k : Nat) : Fl := (Claim.ff .f32).unpack (Claim.cellOf a.seen r.val k).toNat
    let bf (k : Nat) : Nat × Ev := (Claim.ff .bf16).ofFl (Claim.rounds s m k) (x k)
    let block (b : Nat) := mxQuant .mxint8 (fun j => Claim.rounds s m (32 * b + j)) ((List.range 32).map fun j => x (32 * b + j))
    let q := Claim.ofBytes fun i => if i < 64 then (((block (i / 32)).2.1.getD (i % 32) 0) % 256).toNat else 0
    let v := Vec.ofLanes fun k => BitVec.ofNat 32 (bf k.val).1
    exec (.mzero g n) s = .next (Claim.accumulates s n 1 ⟨zero, zero, 0, none, a.seen⟩ 0)
    ∧ exec (.mwr g n row d) s
        = .next (Claim.accumulates (Claim.plus s (Claim.ebpOf s [] [d])) n 2 { a with cells := a.cells.set r (s.rv d) } 0)
    ∧ exec (.mrd g d n row) s = .next (Claim.plus s [Claim.res s 3 (Claim.vDest s d (a.seen.get r)) (some (.m (a.seen.get r)))])
    ∧ exec (.mrdq g false rm d n row e) s = .next (Claim.plus (Claim.draws s m)
        [Claim.res s 5 (Claim.vDest s d v) (some (.m v)) (Ev.union ((List.range 64).map fun k => (bf k).2))])
    ∧ exec (.mrdq g true rm d n row e) s = .next (Claim.plus (Claim.draws s m)
        [Claim.res s 5 (Claim.vDest s d q ++ [.scale e (BitVec.ofNat 64 (3 * 2 ^ (2 * (r.val % 32)))) (Vector.ofFn fun i =>
            if i.val - 2 * (r.val % 32) < 2 then BitVec.ofNat 8 (block (i.val - 2 * (r.val % 32))).1 else 0)])
          (some (.m q)) ((block 0).2.2 ||| (block 1).2.2)])


/-! ### The K class and the events of a kiosk core (15 R298 to R311) -/

namespace Sys2Proof.Claim
open Machine

/-- Words of a block in the kiosk store. -/
def kBlock (s : State) (a : Word64) (words : Nat) : List Word64 := wordsOfBytes words (s.cur.lsView.readN a.toNat (8 * words))

/-- The access of a K syllable's operand: guard, address, bytes, alignment, 0 load or 1 store (15 R300 to R308). -/
def kRow (s : State) (i : Instr) : Option (Guard × Word64 × Nat × Nat × Nat) :=
  match i with
  | .kmbox g _ _ y => some (g, s.rs y, 64, 64, 1)
  | .kput g _ y => some (g, s.rs y, 32, 32, 0)
  | .kdone g _ y => some (g, s.rs y, 32, 32, 0)
  | .kgath g y _ => some (g, s.rs y, 64, 64, 0)
  | .kdedup g _ y _ => some (g, s.rs y, 64, 64, 0)
  | .kpool g y _ => some (g, s.rs y, 64, 64, 0)
  | .kndsc g y _ => some (g, s.rs y, 32, 32, 0)
  | .ktreeStart g _ y => some (g, s.rs y, 64, 8, 0)
  | .kfold g y _ => some (g, s.rs y, 16, 16, 0)
  | .klogAppend g _ y _ => some (g, s.rs y, 64, 64, 0)
  | _ => none

/-- An aligned access in the kiosk store. -/
abbrev kFits (s : State) (a n al : Nat) : Prop := a % al = 0 ∧ a + n ≤ s.cur.foot

/-- The next bundle sees the scalar of a K syllable (15 R298). -/
def kOut (s : State) (x : SReg) (v : Word64) (reads : List SReg) : State :=
  plus s (res s 1 (sDest x v) none :: ebpOf s reads [])

/-- Bytes stored in the context's own store. -/
def kStore (s : State) (a : Nat) (bs : List Byte) : State := cur s fun c => { c with ls := c.ls.writeN a bs }

def kState (s : State) (f : Kiosk → Kiosk) : State := cur s fun c => { c with kiosk := f c.kiosk }

/-- Words as bytes. -/
def wordBytes (l : List Word64) : List Byte := l.flatMap fun w => bytesOfNat 8 w.toNat

/-- `n` numbers of `w` bytes from `a` on. -/
def nums (m : Memory) (a w n : Nat) : List Nat := (List.range n).map fun i => leNat (m.readN (a + w * i) w)

/-- The context that a deposit names: one placed on the core, or one of a pre-empted grid (15 R301, 02 R42). -/
def placed? (s : State) (core : Nat) (ctx : BitVec 8) (k : Nat) : Prop :=
  (k = 2 * core ∨ k = 2 * core + 1) ∧ (s.ctx k).ctxId = ctx ∧ (s.ctx k).grid ≠ none

def saved? (s : State) (core : Nat) (ctx : BitVec 8) (n k : Nat) (c : Ctx) : Prop :=
  (k = 2 * core ∨ k = 2 * core + 1) ∧ c.ctxId = ctx ∧ ∃ g, (n, g) ∈ s.grids ∧ g.saved.get? k = some c

/-- Bytes stored into the LS of a saved context. -/
def saveStore (s : State) (n k a : Nat) (bs : List Byte) : State :=
  match s.grids.get? n with
  | some g =>
    let keep (c : Ctx) : Grid := { g with saved := g.saved.set k { c with ls := c.ls.writeN a bs } }
    match g.saved.get? k with
    | some c => { s with grids := s.grids.set n (keep c) }
    | none => s
  | none => s

/-- A deposit's pieces: 64-byte lines of a tile, then the completion word (15 R301). -/
def pieces (b : List Word64) (tile : List Byte) : List (ElKind × Nat × List Byte) :=
  ((List.range (tile.length / 64)).map fun i => (.deposit, fld b 1 32 20 + 64 * i, (tile.drop (64 * i)).take 64))
    ++ (if fld b 0 24 1 = 1 then [(.cword, fld b 2 0 20, bytesOfNat 8 (b.getD 3 0).toNat)] else [])

/-- A descriptor with no value out of range and no field past its node (15 R304). -/
abbrev descOk (b : List Word64) : Prop :=
  let n := 64 * fld b 0 0 4
  1 ≤ fld b 0 0 4 ∧ fld b 0 0 4 ≤ 8 ∧ fld b 0 31 2 ≠ 3
  ∧ fld b 0 8 9 + fld b 0 17 5 + 1 ≤ n ∧ fld b 0 22 9 % 8 = 0 ∧ fld b 0 22 9 + 32 ≤ n ∧ fld b 0 33 9 + fld b 0 42 5 + 1 ≤ n
  ∧ fld b 0 48 9 + 1 ≤ n ∧ fld b 1 0 9 % 8 = 0 ∧ fld b 1 0 9 + 32 ≤ n ∧ (fld b 1 25 1 = 1 → fld b 1 16 9 + 1 ≤ n)
  ∧ (fld b 0 47 1 = 1 → fld b 1 32 9 + fld b 0 42 5 + 1 ≤ n)

/-- An entry as START makes it (15 R305). -/
def started (b d : List Word64) (feat : List Nat) : Trav where
  state := .waiting
  node := 0
  root := b.getD 0 0
  tree := BitVec.ofNat 32 (fld b 1 0 32)
  desc := d
  buf := Fin.ofNat 64 (fld b 1 40 6)
  score := b.getD 2 0
  feat := feat.map (BitVec.ofNat 32)
  lo := b.getD 4 0
  hi := b.getD 5 0
  steps := 0
  value := 0
  limit := false
  data := []

/-- The path fold of one lane (15 R307). -/
def folds (r : Nat) (f v : Word64) : Word64 := (f ^^^ v).rotateLeft r * 0x9E3779B97F4A7C15#64

/-- A node field of `w` bits at bit `o`. -/
def nodeBits (node : Nat) (o w : Nat) : Nat := node / 2 ^ o % 2 ^ w

/-- Where an internal node sends a traversal: left or right, the missing direction, or by a bit of the categorical set (15 R306). -/
def leftOf (t : Trav) (node : Nat) (bit : Bool) : Bool :=
  let b := t.desc
  let lost := fld b 1 25 1 == 0 || nodeBits node (fld b 1 16 9) 1 == 0
  match t.feat[nodeBits node (fld b 0 8 9) (fld b 0 17 5 + 1)]? with
  | none => lost
  | some x =>
    let thr := nodeBits node (fld b 0 22 9) 32
    if fld b 0 31 2 = 0 then
      let v := (ff .f32).unpack x.toNat
      if v.isNan then lost else (fcmpHolds .lt v ((ff .f32).unpack thr)).1
    else if fld b 0 31 2 = 1 then if x = 0x80000000#32 then lost else decide (x.toInt < (BitVec.ofNat 32 thr).toInt)
    else if 256 ≤ x.toNat then lost else bit

/-- A categorical step reads 32 bytes of its set: the address of the set. -/
def catAt (t : Trav) : Option Word64 :=
  let b := t.desc
  let node := leNat t.data
  match t.feat[nodeBits node (fld b 0 8 9) (fld b 0 17 5 + 1)]? with
  | some x =>
    if nodeBits node (fld b 0 48 9) 1 = 0 ∧ 2 ≤ fld b 0 31 2 ∧ x.toNat < 256 then
      some (b.getD 2 0 + BitVec.ofNat 64 (32 * nodeBits node (fld b 0 22 9) 32))
    else none
  | none => none

/-- An entry after its step, given the bit that a categorical step reads (15 R306). -/
def walked (t : Trav) (set : Nat) : Trav :=
  let b := t.desc
  let node := leNat t.data
  let v := BitVec.ofNat 64 (t.tree.toNat * 2 ^ 32 + t.node)
  let f (r : Nat) (x : Word64) := folds r x v
  let t := { t with lo := f 23 t.lo, hi := f 41 t.hi, steps := t.steps + 1, data := [] }
  if nodeBits node (fld b 0 48 9) 1 = 1 then { t with value := BitVec.ofNat 32 (nodeBits node (fld b 1 0 9) 32), state := .done }
  else
    let w := fld b 0 42 5 + 1
    let x := match t.feat[nodeBits node (fld b 0 8 9) (fld b 0 17 5 + 1)]? with | some x => x.toNat | none => 0
    let c := nodeBits node (fld b 0 33 9) w
    let i := if leftOf t node (set.testBit x) then c
      else if fld b 0 47 1 = 0 then c + 1 else nodeBits node (fld b 1 32 9) w
    if t.steps = 65535 then { t with node := i, limit := true, value := 0, state := .done } else { t with node := i, state := .waiting }

/-- Entries step one after another; none where a set cannot be read. -/
def walkAll : List (Nat × Trav) → State → Option State
  | [], s => some s
  | (i, t) :: l, s =>
    match catAt t with
    | none => walkAll l (kState s fun k => { k with trav := k.trav.set i (walked t 0) })
    | some va =>
      match s.gxlate (.ltt 0 0) va 32 1 0 with
      | .ok p =>
        let r := s.gload p.1 32 t.buf
        walkAll l (kState r.1 fun k => { k with trav := k.trav.set i (walked t (leNat r.2)) })
      | .error _ => none

/-- Rows of a table that a gather moves, one after another; none where one cannot be read or does not fit. -/
def gathered (tbase : Word64) (rb rows : Nat) (buf : Fin 64) : List (Nat × Nat) → State → Option State
  | [], s => some s
  | (i, p) :: l, s =>
    match s.gxlate (.ltt 0 0) (tbase + BitVec.ofNat 64 (i * rb)) rb 1 0 with
    | .ok a =>
      let r := s.gload a.1 rb buf
      if rows + p * rb + rb ≤ s.cur.foot then gathered tbase rb rows buf l (kStore r.1 (rows + p * rb) r.2) else none
    | .error _ => none

/-- Element `i` of row `p` of a gather, in F32 (15 R303). -/
def rowElem (b : List Word64) (m : Memory) (p i : Nat) : Nat :=
  let w := if fld b 0 12 1 = 1 then 2 else 4
  leNat (m.readN (fld b 3 0 17 + (p * fld b 0 0 12 + i) * w) w) * (if w = 2 then 2 ^ 16 else 1)

/-- Element `i` of a bag of rows, with its events (15 R303). -/
def bagElem (b : List Word64) (m : Memory) (rs : List Nat) (i : Nat) : Nat × Ev :=
  let F := ff .f32
  match rs with
  | [] => (0, 0)
  | r :: l =>
    let x := l.foldl (fun (a : Nat × Ev) p =>
      let y := rowElem b m p i
      let z := if fld b 0 13 2 = 2 then F.minMax true a.1 y else F.add Rnd.rne (F.unpack a.1) (F.unpack y)
      (z.1, a.2 ||| z.2)) (rowElem b m r i, 0)
    if fld b 0 13 2 = 1 then
      let z := F.div Rnd.rne (F.unpack x.1) (F.unpack (F.ofInt Rnd.rne rs.length).1)
      (z.1, x.2 ||| z.2)
    else x

/-- The bags in order: the ends and the rows of each are read after the bags before it have left the store; none where an access does
not fit. -/
def pooled (b : List Word64) (foot : Nat) : List Nat → State × Ev → Option (State × Ev)
  | [], x => some x
  | g :: l, (s, ev) =>
    let m := s.cur.lsView
    let bag (i : Nat) : Nat := leNat (m.readN (fld b 4 0 17 + 2 * i) 2)
    let lo := if g = 0 then 0 else bag (g - 1)
    let hi := bag g
    let n := fld b 0 0 12
    let w := if fld b 0 12 1 = 1 then 2 else 4
    let map := fld b 2 32 17 + 2 * lo
    let plain := fld b 0 15 1 = 1 ∨ hi ≤ lo
    let rs := if plain then (List.range (hi - lo)).map (· + lo) else nums m map 2 (hi - lo)
    let out := fld b 3 32 17 + g * n * 4
    if (plain ∨ (map % 2 = 0 ∧ map + 2 * (hi - lo) ≤ foot)) ∧ (∀ r ∈ rs, fld b 3 0 17 + r * n * w + n * w ≤ foot) ∧ out + 4 * n ≤ foot then
      let el := (List.range n).map fun i => bagElem b m rs i
      pooled b foot l (kStore s out (el.flatMap fun e => bytesOfNat 4 e.1), ev ||| Ev.union (el.map Prod.snd))
    else none

/-- The 64 bytes that KLOG.HEAD writes (15 R308). -/
def logHead (l : AuditLog) (n : Fin 64) : List Byte := bytesOfNat 8 n.val ++ bytesOfNat 8 (l.covered % 2 ^ 64) ++ l.head

/-- An audit-log record as it is appended (15 R308); its reserved bits leave as zero (00 R7). -/
def logged (b : List Word64) (seq kid : Nat) (meas : List Byte) : List Word64 :=
  [BitVec.ofNat 64 seq, b.getD 1 0, (b.getD 2 0 &&& 0xFFFFFFFF000000FF#64) ||| BitVec.ofNat 64 (kid % 128 * 2 ^ 16),
    BitVec.ofNat 64 (leNat (meas.take 8)), b.getD 4 0, b.getD 5 0, b.getD 6 0, 0]

end Sys2Proof.Claim

/-- 15 R300 R301 R302 R304 R305 R307 R308 R311: the block of a K syllable must be aligned and lie in the kiosk store, else the fault is
taken; a count of 0 or over 512, a descriptor that is out of range, an expert beyond its table or over 4,095, and a log that the context
may not use are kiosk faults; KHEAT.RET outside the handler is an illegal instruction. -/
def Obligations.KioskSyllableFaults : Prop :=
  ∀ (s : State) (g : Guard) (x y z : SReg) (n : Fin 4) (log : Fin 64),
    (∀ (i : Instr) (g : Guard) (a : Word64) (len al acc : Nat), Claim.kRow s i = some (g, a, len, al, acc) → s.on g = true →
      (a.toNat % al ≠ 0 → exec i s = Claim.faults s 7 a (BitVec.ofNat 64 acc))
      ∧ (a.toNat % al = 0 → a.toNat + len > s.cur.foot → exec i s = Claim.faults s 5 a 2))
    ∧ (s.on g = true →
      (Claim.kFits s (s.rs y).toNat 64 64 → (s.rs z).toNat = 0 ∨ (s.rs z).toNat > 512 →
        exec (.kdedup g x y z) s = Claim.faults s 12 0 0 ∧ exec (.kgath g y z) s = Claim.faults s 12 0 0
        ∧ exec (.kpool g y z) s = Claim.faults s 12 0 0)
      ∧ (Claim.kFits s (s.rs y).toNat 32 32 → ¬ Claim.descOk (Claim.kBlock s (s.rs y) 4) → exec (.kndsc g y n) s = Claim.faults s 12 0 0)
      ∧ ((s.rs y).toNat ≥ s.cur.kiosk.krtn.toNat → exec (.kroute g x y z) s = Claim.faults s 12 0 0)
      ∧ ((s.rs y).toNat > 4095 →
        exec (.kheatAdd g x y z) s = Claim.faults s 12 0 0 ∧ exec (.kheatRead g x y) s = Claim.faults s 12 0 0)
      ∧ (s.cur.kiosk.kintr = false → exec (.kheatRet g) s = Claim.faults s 1 0 0)
      ∧ ((∀ l, s.logs.get? log.val = some l → l.ctx ≠ s.cur.ctxId) →
        exec (.klogHead g x y log) s = Claim.faults s 12 0 0 ∧ exec (.klogSign g x y log) s = Claim.faults s 12 0 0))

/-- 15 R300 R301: KMBOX ends the service of the message before; it takes the oldest message into the kiosk store and into service, or
waits, or under .POLL says that there is none.
KPUT and KDONE, which carry the kiosk's own context to the access table, make their writes as elastic requests to a context that is placed, write them at once into a pre-empted one, and report 1
where there is neither; KDONE ends the message in service. Nothing else changes. -/
def Sys2Proof.Claim.mailAndDeposits : Prop :=
  ∀ (g : Guard) (x y : SReg) (s : State), s.on g = true →
    (Claim.kFits s (s.rs y).toNat 64 64 →
      (∀ m l, s.cur.kiosk.mbox = m :: l → ∀ poll : Bool, exec (.kmbox g poll x y) s
        = .next (Claim.kOut (Claim.kState (Claim.kStore s (s.rs y).toNat (Claim.wordBytes m.words)) fun k => { k with mbox := l, serv := some m })
            x (BitVec.ofNat 64 (m.core % 2 ^ 10 + m.ctx9.toNat * 2 ^ 16)) [y]))
      ∧ (s.cur.kiosk.mbox = [] → let s0 := Claim.kState s fun k => { k with serv := none }
        exec (.kmbox g true x y) s = .next (Claim.kOut s0 x (BitVec.twoPow 64 63) [y])
        ∧ exec (.kmbox g false x y) s = .next (Claim.plus (Claim.waits s0 (.kmbox x (s.rs y).toNat)) (Claim.ebpOf s [y] []))))
    ∧ (Claim.kFits s (s.rs y).toNat 32 32 → ∀ done : Bool,
        let i : Instr := if done then .kdone g x y else .kput g x y
        let b := Claim.kBlock s (s.rs y) 4
        let core := Claim.fld b 0 0 10
        let ctx := BitVec.ofNat 8 (Claim.fld b 0 16 8)
        let len := if done then 0 else Claim.fld b 0 32 16
        let s1 := if done then Claim.kState s fun k => { k with serv := none } else s
        let ps := Claim.pieces b (s.cur.lsView.readN (Claim.fld b 1 0 17) (64 * len))
        let dst := Claim.fld b 1 32 20
        let tgt := 8 + core / 256
        let ok (foot : Nat) : Prop := (len ≠ 0 → dst % 64 = 0 ∧ dst + 64 * len ≤ foot)
          ∧ (Claim.fld b 0 24 1 = 1 → Claim.fld b 2 0 20 % 8 = 0 ∧ Claim.fld b 2 0 20 + 8 ≤ foot)
          ∧ (len ≠ 0 ∨ Claim.fld b 0 24 1 = 1 → s.admits tgt s.cur.master 1 (some s.cur.ctxId) = true)
        (done = false → len = 0 ∨ len > 1024 → exec i s = Claim.faults s 12 0 0)
        ∧ (done = true ∨ (1 ≤ len ∧ len ≤ 1024 ∧ Claim.kFits s (Claim.fld b 1 0 17) (64 * len) 64) →
          ((∀ k, ¬ Claim.placed? s core ctx k) → (∀ n k c, ¬ Claim.saved? s core ctx n k c) → exec i s = .next (Claim.kOut s1 x 1 [y]))
          ∧ (∀ k, Claim.placed? s core ctx k → (∀ j, Claim.placed? s core ctx j → k ≤ j) → ok (s.ctx k).foot →
              let l : List ElReq := ps.map fun p => ⟨p.1, s.elNow core, s.cur.master, k, some s.focus, p.2.1, p.2.2.length, .write p.2.2⟩
              exec i s = .next (Claim.kOut { s1 with elReqs := s1.elReqs ++ l } x 0 [y]))
          ∧ (∀ n gr k c, (∀ k, ¬ Claim.placed? s core ctx k) → Claim.saved? s core ctx n k c → s.grids.get? n = some gr →
              gr.saved.get? k = some c → (∀ n' k' c', Claim.saved? s core ctx n' k' c' → n' = n ∧ k' = k) → ok c.foot →
              exec i s = .next (Claim.kOut (ps.foldl (fun t p => Claim.saveStore t n k p.2.1 p.2.2) s1) x 0 [y]))))

/-- 15 R302 R303: KDEDUP leaves the distinct indices in order of first use and the place of each position among them; KGATH moves the rows
of its indices through the LTT; KPOOL accumulates the rows of each bag, element by element, by the operator of its block. That a KGATH row
is one access is the model's choice (assumption log 24). -/
def Sys2Proof.Claim.embeddings : Prop :=
  ∀ (g : Guard) (x y z : SReg) (s : State), s.on g = true → Claim.kFits s (s.rs y).toNat 64 64 →
    let b := Claim.kBlock s (s.rs y) 8
    let n := (s.rs z).toNat
    let m := s.cur.lsView
    1 ≤ n → n ≤ 512 →
    (Claim.kFits s (Claim.fld b 2 0 17) (4 * n) 4 →
      let v := Claim.nums m (Claim.fld b 2 0 17) 4 n
      let isNew (p : Nat) : Bool := (List.range p).all fun q => v.getD q 0 != v.getD p 0
      let u := ((List.range n).filter isNew).map fun p => v.getD p 0
      let place (p : Nat) : Nat := (List.range (v.idxOf (v.getD p 0))).countP isNew
      (Claim.kFits s (Claim.fld b 2 32 17) (2 * n) 2 → exec (.kdedup g x y z) s
        = .next (Claim.kOut (Claim.kStore (Claim.kStore s (Claim.fld b 2 32 17) ((List.range n).flatMap fun p => bytesOfNat 2 (place p)))
            (Claim.fld b 2 0 17) (u.flatMap (bytesOfNat 4))) x (BitVec.ofNat 64 u.length) [y, z]))
      ∧ ∀ t : State, 1 ≤ Claim.fld b 0 0 12 → Claim.fld b 0 0 12 ≤ 2048 → Claim.fld b 3 0 17 % 64 = 0 →
          Claim.gathered (b.getD 1 0) (Claim.fld b 0 0 12 * (if Claim.fld b 0 12 1 = 1 then 2 else 4)) (Claim.fld b 3 0 17)
            (Fin.ofNat 64 (Claim.fld b 0 16 6)) v.zipIdx s = some t →
          exec (.kgath g y z) s = .next (Claim.plus t (Claim.ebpOf s [y, z] [])))
    ∧ (1 ≤ Claim.fld b 0 0 12 → Claim.fld b 0 0 12 ≤ 2048 → Claim.fld b 0 13 2 ≠ 3 → Claim.fld b 3 0 17 % 64 = 0 →
        Claim.fld b 3 32 17 % 64 = 0 → Claim.kFits s (Claim.fld b 4 0 17) (2 * n) 2 →
        ∀ t ev, Claim.pooled b s.cur.foot (List.range n) (s, 0) = some (t, ev) →
          exec (.kpool g y z) s = .next (Claim.plus t (Claim.evOf s ev ++ Claim.ebpOf s [y, z] [])))

/-- 15 R304 R305 R306 R307: KNDSC loads a descriptor; KTREE.START takes the lowest free entry; STEP moves up to 16 entries whose node has
arrived, one tick each, waits where others run, and answers 0 where none does; COLLECT writes the record of the lowest done entry and
frees it; KFOLD folds a word into the two lanes. That KTREE.START with a cleared descriptor is a kiosk fault is the model's choice
(assumption log 33). -/
def Sys2Proof.Claim.trees : Prop :=
  ∀ (g : Guard) (x y z : SReg) (n : Fin 4) (s : State), s.on g = true →
    let t := s.cur.kiosk.trav
    (Claim.kFits s (s.rs y).toNat 32 32 → Claim.descOk (Claim.kBlock s (s.rs y) 4) → exec (.kndsc g y n) s
      = .next (Claim.plus (Claim.kState s fun k => { k with desc := k.desc.set n (Claim.kBlock s (s.rs y) 4) }) (Claim.ebpOf s [y] [])))
    ∧ (Claim.kFits s (s.rs y).toNat 64 8 →
      let b := Claim.kBlock s (s.rs y) 8
      let d := s.cur.kiosk.desc.get (Fin.ofNat 4 (Claim.fld b 1 32 2))
      let f := Claim.fld b 3 32 16
      ((∀ i, i < 512 → t.get? i ≠ none) → exec (.ktreeStart g x y) s = .next (Claim.kOut s x (-1) [y]))
      ∧ ∀ i, i < 512 → t.get? i = none → (∀ j, j < i → t.get? j ≠ none) →
          (¬ Claim.descOk d ∨ f = 0 ∨ f > 32768 → exec (.ktreeStart g x y) s = Claim.faults s 12 0 0)
          ∧ (Claim.descOk d → 1 ≤ f → f ≤ 32768 → Claim.kFits s (Claim.fld b 3 0 17) (4 * f) 4 →
          let e := Claim.started b d (Claim.nums s.cur.lsView (Claim.fld b 3 0 17) 4 f)
          exec (.ktreeStart g x y) s = .next (Claim.kOut (Claim.kState s fun k => { k with trav := k.trav.set i e }) x (BitVec.ofNat 64 i) [y])))
    ∧ (let es := (t.filter fun e => e.2.state == .arrived).take 16
       (es = [] → (∃ e ∈ t, e.2.state = .waiting) → exec (.ktreeStep g x) s = .next (Claim.waits s (.kstep x s.issue.addr s.issue.pos)))
       ∧ (es = [] → (∀ e ∈ t, e.2.state = .done) → exec (.ktreeStep g x) s = .next (Claim.kOut s x 0 []))
       ∧ (es ≠ [] → ∀ u, Claim.walkAll es s = some u →
          let v := Claim.kOut u x (BitVec.ofNat 64 es.length) []
          exec (.ktreeStep g x) s = .next (if es.length = 1 then v else Claim.waits v (.tick (es.length - 1)))))
    ∧ ((∀ e ∈ t, e.2.state ≠ .done) → exec (.ktreeCollect g x y) s = .next (Claim.kOut s x (-1) [y]))
    ∧ (∀ i r l l', t = l ++ (i, r) :: l' → r.state = .done → (∀ e ∈ l, e.2.state ≠ .done) → Claim.kFits s (s.rs y).toNat 32 8 →
        let w := Claim.wordBytes [r.score, BitVec.ofNat 64 (r.value.toNat + r.steps * 2 ^ 32 + (if r.limit then 2 ^ 48 else 0)), r.lo, r.hi]
        exec (.ktreeCollect g x y) s = .next (Claim.kOut (Claim.kState (Claim.kStore s (s.rs y).toNat w) fun k => { k with trav := t.filter fun e => e.1 != i })
          x (BitVec.ofNat 64 i) [y]))
    ∧ (Claim.kFits s (s.rs y).toNat 16 16 →
        let b := Claim.kBlock s (s.rs y) 2
        exec (.kfold g y z) s = .next (Claim.plus
          (Claim.kStore s (s.rs y).toNat (Claim.wordBytes [Claim.folds 23 (b.getD 0 0) (s.rs z), Claim.folds 41 (b.getD 1 0) (s.rs z)]))
          (Claim.ebpOf s [y, z] [])))

/-- 15 R308, 27 R377 R383: KLOG.APPEND writes the record at the log's next place with its index, kiosk and measurement, and extends the chain over
each 256 records; where one of these lies on a line in error it is an uncorrectable-memory fault and appends nothing (model's choice, log 55). HEAD
writes the head; SIGN adds the 96 bytes of an ECDSA signature with SHA-384 by the identity key, whose nonce is a free value (model's choice, log 6). -/
def Sys2Proof.Claim.auditLogs : Prop :=
  ∀ (g : Guard) (x y : SReg) (log : Fin 64) (s : State) (l : AuditLog), s.on g = true → s.logs.get? log.val = some l → l.ctx = s.cur.ctxId →
    (Claim.kFits s (s.rs y).toNat 64 64 →
      let b := Claim.kBlock s (s.rs y) 8
      ∀ sl : Seal, s.seals.get? (Claim.fld b 2 0 8) = some sl →
        (sl.live = false ∨ sl.ctx ≠ s.cur.ctxId ∨ l.count ≥ 1024 * l.len → exec (.klogAppend g x y log) s = Claim.faults s 12 0 0)
        ∧ (sl.live = true → sl.ctx = s.cur.ctxId → l.count < 1024 * l.len →
          let from_ := l.base.toNat * 2 ^ 16 + 64 * (l.count - 255)
          let meets (n : Nat) := (l.count + 1) % 256 = 0 ∧ from_ / 64 ≤ n ∧ 64 * n < from_ + 16384
          let t := s.pwrite (l.base.toNat * 2 ^ 16 + 64 * l.count) (Claim.wordBytes (Claim.logged b l.count s.cur.gid sl.meas))
          let c := l.count + 1
          let l' : AuditLog := if c % 256 = 0 then
            { l with count := c, covered := c, head := sha384 (l.head ++ t.pread (l.base.toNat * 2 ^ 16 + 64 * (c - 256)) 16384) }
            else { l with count := c }
          ((∀ n ∈ s.bad, ¬ meets n) → exec (.klogAppend g x y log) s
            = .next (Claim.kOut { t with logs := t.logs.set log.val l' } x (BitVec.ofNat 64 l.count) [y]))
          ∧ ((∃ n ∈ s.bad, meets n) → ∃ n ∈ s.bad, meets n ∧ exec (.klogAppend g x y log) s = Claim.faults s 14 (BitVec.ofNat 64 (64 * n)) 2)))
    ∧ (Claim.kFits s (s.rs y).toNat (Claim.logHead l log).length 8 → exec (.klogHead g x y log) s
        = .next (Claim.kOut (Claim.kStore s (s.rs y).toNat (Claim.logHead l log)) x 0 [y]))
    ∧ ∀ sig : List Byte, sig = ecdsaSign s.boot.secret s.freeCount (Claim.logHead l log) → sig.length = 96
      ∧ (Claim.kFits s (s.rs y).toNat ((Claim.logHead l log).length + 96) 8 → exec (.klogSign g x y log) s
        = .next (Claim.kOut { Claim.kStore s (s.rs y).toNat (Claim.logHead l log ++ sig) with freeCount := s.freeCount + 1 } x 0 [y]))

/-- 15 R309 R310: KROUTE names the replica of its entry; KHEAT.ADD saturates its counter and marks a crossing of the threshold; READ
clears it; RET goes back to the saved address with the idle ticks of a BRI, and to the nest that ran there: the idle ticks and the nest are
the model's choice (assumption log 33). -/
def Sys2Proof.Claim.routingAndHeat : Prop :=
  ∀ (g : Guard) (x y z : SReg) (s : State), s.on g = true →
    let e := (s.rs y).toNat
    let old : Word32 := (s.cur.kiosk.heat.get? e).getD 0
    let put (s : State) (v : Word32) := Claim.kState s fun k => { k with heat := if v = 0 then k.heat.filter fun h => h.1 != e else k.heat.set e v }
    (e < s.cur.kiosk.krtn.toNat → let a := BitVec.ofNat 64 (s.cur.kiosk.krtb.toNat + 8 * e); Claim.kFits s a.toNat 8 8 →
      let r := leNat (s.cur.lsView.readN a.toNat 8)
      let k := (s.rs z).toNat % (r % 4 + 1)
      exec (.kroute g x y z) s = .next (Claim.kOut s x (BitVec.ofNat 64 (r / 2 ^ (10 * k + 10) % 2 ^ 10)) [y, z]))
    ∧ (e ≤ 4095 →
      let new : Word32 := BitVec.ofNat 32 (min (old.toNat + (s.rs z).toNat) (2 ^ 32 - 1))
      let crosses := old.toNat < s.cur.kiosk.kthr.toNat ∧ s.cur.kiosk.kthr.toNat ≤ new.toNat
      (¬ crosses → exec (.kheatAdd g x y z) s = .next (Claim.kOut (put s new) x (new.setWidth 64) [y, z]))
      ∧ (crosses → ∃ p, (∀ n, n ∈ p ↔ n = e ∨ n ∈ s.cur.kiosk.pend) ∧ exec (.kheatAdd g x y z) s
          = .next (Claim.kOut (Claim.kState (put s new) fun k => { k with pend := p }) x (new.setWidth 64) [y, z]))
      ∧ exec (.kheatRead g x y) s = .next (Claim.kOut (put s 0) x (old.setWidth 64) [y]))
    ∧ (s.cur.kiosk.kintr = true → exec (.kheatRet g) s = .next (Claim.cur s fun c => { c with
        next := c.kiosk.ret, idle := 3, loop := c.kiosk.loop
        kiosk := { c.kiosk with kintr := false, loop := ⟨Vector.replicate 6 none, none, none⟩ } }))

/-- 15 R305 R306 R310 R311, on the core in focus: a node arrives with its bytes, or its access is a kiosk fault; the heat trap takes the
lowest pending expert into s60 to s62 and enters the handler with the idle ticks of a BRI, a running nest put aside (the model's choice,
assumption log 33); a fault from outside halts a running kiosk. -/
def Sys2Proof.Claim.kioskEvents : Prop :=
  ∀ s : State,
    (∀ (i : Nat) (t : Trav), s.cur.kiosk.trav.get? i = some t → t.state = .waiting →
      let n := 8 * Claim.fld t.desc 0 0 4
      let va := t.root + BitVec.ofNat 64 (t.node * n)
      (∀ p, s.gxlate (.ltt 0 0) va n 8 0 = .ok p → let r := s.gload p.1 n t.buf
        exec (.treeNodeArrive s.focus i) s = .next (Claim.kState r.1 fun k => { k with trav := k.trav.set i { t with state := .arrived, data := r.2 } }))
      ∧ ∀ f, s.gxlate (.ltt 0 0) va n 8 0 = .error f →
        exec (.treeNodeArrive s.focus i) s = .next (s.takeFault ⟨f.1, 0, 0, f.2.1, f.2.2⟩))
    ∧ (∀ e l, s.cur.kiosk.pend = e :: l → s.cur.kiosk.kintr = false → s.cur.kiosk.khnd ≠ 0 →
        ∃ t, exec (.heatTrapEntry s.focus) s = .next t ∧ t.cur.regs.s.get 60 = BitVec.ofNat 64 e
          ∧ t.cur.regs.s.get 61 = ((s.cur.kiosk.heat.get? e).getD 0).setWidth 64 ∧ t.cur.regs.s.get 62 = s.cur.pc
          ∧ (∀ n : Fin 64, n < 60 ∨ 62 < n → t.cur.regs.s.get n = s.cur.regs.s.get n)
          ∧ t.cur.kiosk = { s.cur.kiosk with pend := l, kintr := true, ret := s.cur.pc, loop := s.cur.loop }
          ∧ t.cur.pc = s.cur.kiosk.khnd.setWidth 64 ∧ t.cur.next = t.cur.pc ∧ t.cur.idle = 3 ∧ t.cur.ls = s.cur.ls ∧ t.mem = s.mem)
    ∧ (s.cur.kiosk.pend = [] ∨ s.cur.kiosk.kintr = true ∨ s.cur.kiosk.khnd = 0 → exec (.heatTrapEntry s.focus) s = .next s)
    ∧ ∀ code reason : Nat, s.cur.kind = .kiosk → s.cur.run = .running →
        let f (w : Word64) : FaultWords := ⟨code, 0, s.cur.pc, w, BitVec.ofNat 64 reason⟩
        let t := { s with freeCount := s.freeCount + 1 }
        (code ≠ 14 → exec (.kioskFault s.focus code reason) s = .next (t.takeFault (f 0)))
        ∧ (code = 14 → ∃ w : Word64, exec (.kioskFault s.focus code reason) s = .next
            (State.takeFault { t with uecnt := if t.uecnt = -1 then -1 else t.uecnt + 1, uekind := BitVec.ofNat 4 reason, ueloc := w.extractLsb' 12 52 } (f w)))


/-! ### Strands, chunks, barriers and points (02 R19 to R40, 07 R164 R167, 14 R284 R285) -/

namespace Sys2Proof.Claim
open Machine

/-- Member and core rank of a core of a timetabled placement (02 R23). -/
def rankOf (g : Grid) (core m q : Nat) : Prop :=
  ∃ l x r i, g.members = l ++ x :: r ∧ l.length = m ∧ x.die = core / 256 ∧ (∀ y ∈ l, y.die ≠ core / 256)
    ∧ x.clusters[i]? = some (core / 16) ∧ (∀ j, j < i → x.clusters[j]? ≠ some (core / 16)) ∧ q = 16 * i + core % 16

/-- Coordinates of an index over the levels of one kind, level 0 fastest (02 R19). -/
def coord (kind : LevelKind) (lv : List (LevelKind × Nat)) (n k : Nat) : Nat :=
  match lv[k]? with
  | some (k', t) =>
    if k' = kind then n / ((lv.take k).foldl (fun p x => if x.1 = kind then p * x.2 else p) 1) % t else 0
  | none => 0

/-- An engine or circuit command of a context is still to make its token done. -/
def owesToken (s : State) (k : Nat) : Prop :=
  (s.ctx k).queue ≠ [] ∨ (s.ctx k).active ≠ [] ∨ (∃ p ∈ (s.ctx k).lsPend, ∃ n t, p.op = .tokenDone n t)
  ∨ ∃ e ∈ s.engines, ∃ x ∈ e.2.queue ++ e.2.loading.toList ++ e.2.pass.toList, x.key = k

/-- An operation whose value is still awaited as the strand of its context ends: no register of the next strand gets it (the model's
choice, assumption log 34). -/
def orphaned (x : Outst) : Option Outst :=
  match x.op with
  | .ldg _ pa sz buf => some { x with op := .ldg .none pa sz buf }
  | .ldgv _ pa buf => some { x with op := .ldgv none pa buf }
  | .gath _ pas sz => some { x with op := .gath none pas sz }
  | .land _ v left => some { x with op := .land none v left }
  | .xlt _ _ _ => none
  | _ => some x

/-- A context as a strand (m, n) begins on it: everything at its entry value but what stays with the context (02 R20); `keep` where a
command of an earlier strand is still to make its token done. -/
def entered (c : Ctx) (g : Grid) (m n : Nat) (keep : Bool) : Ctx :=
  let lv := (g.kcb.levels.map Level.kind).zip g.trips
  let z := Regs.entry
  { c with
    run := .running
    mIdx := m
    nIdx := n
    triggered := false
    regs := { z with s := Vector.ofFn fun i =>
      if i = 1 then g.pkt.getD 1 0 else if 2 ≤ i.val ∧ i.val ≤ 7 then BitVec.ofNat 64 (g.trips.getD (i.val - 2) 1) else 0 }
    sp := { Specials.zero with
      scnt := if c.run = .idle then 0 else c.sp.scnt
      crd := Vector.ofFn fun k => BitVec.ofNat 64 (coord .die lv m k.val + coord .core lv (if g.kcb.elastic then 0 else n) k.val)
      rngk := g.rngk }
    pc := g.entry
    next := g.entry
    idle := 0
    loop := ⟨Vector.replicate 6 none, none, none⟩
    rf := none
    bp := ⟨none, none, none, none, none, none⟩
    outst := c.outst.filterMap orphaned
    holds := c.holds.filter fun h => decide (h ≠ .start)
    strand := c.strand + 1
    oldTok := if keep then c.oldTok.set c.strand c.regs.tok else [] }

/-- A load from an LS that brings a result later. -/
def lateLoad (o : LsOp) : Prop :=
  match o with
  | .loadRows _ _ _ _ | .remoteLoad _ _ _ | .witTail _ _ _ => True
  | _ => False

/-- No exposed result of the context in focus is in flight (02 R23). -/
def noResult (s : State) : Prop :=
  s.cur.flight = [] ∧ (∀ p ∈ s.cur.lsPend, ¬ lateLoad p.op) ∧ s.cur.mstep = none ∧ s.cur.holds = []
  ∧ ∀ e ∈ s.elReqs, e.owner = some s.focus → ∀ p, e.job = .access p → ¬ lateLoad p.op

/-- The strand that a placed context runs next: a timetabled one steps its core index, then its member; an elastic one its die index
(02 R23 R24). -/
def follows (g : Grid) (c : Ctx) (m n : Nat) : Prop :=
  if g.kcb.elastic = true then n = 0 ∧ (c.run = .idle ∧ m = 0 ∨ c.run = .ended ∧ m = c.mIdx + 1 ∧ m < g.nd)
  else ∃ m0 q, rankOf g c.gid m0 q ∧
    ((c.run = .idle ∧ m = m0 ∧ n = q ∧ m < g.nd ∧ n < g.nc)
     ∨ (c.run = .ended ∧ m = c.mIdx ∧ n = c.nIdx + 16 * g.kcb.clus ∧ n < g.nc)
     ∨ (c.run = .ended ∧ g.nc ≤ c.nIdx + 16 * g.kcb.clus ∧ m = c.mIdx + g.kcb.dies * g.kcb.pkgs ∧ m < g.nd ∧ n = q))

/-- Chunks that a range holds. -/
def chunksIn (g : Grid) (r : Nat × Nat) : Nat := (r.2 - r.1 + g.kcb.chunk - 1) / g.kcb.chunk

/-- What a core takes of the bazaar of m: its own lowest chunk; else the lowest of the upper half of the largest range of its cluster;
else nothing (02 R25). -/
def takes (g : Grid) (m core first n : Nat) (g' : Grid) : Prop :=
  let r := g.range m core
  let key (i : Nat) := 1024 * m + i
  let z := g.kcb.chunk
  (r.1 < r.2 → first = r.1 ∧ n = min z (r.2 - r.1) ∧ g' = { g with ranges := g.ranges.set (key core) (first + n, r.2) })
  ∧ (r.2 ≤ r.1 → (∀ i, i < 16 → chunksIn g (g.range m (16 * (core / 16) + i)) = 0) → first = 0 ∧ n = 0 ∧ g' = g)
  ∧ (r.2 ≤ r.1 → ∀ i, i < 16 →
      let v := 16 * (core / 16) + i
      let c := chunksIn g (g.range m v)
      0 < c → (∀ j, j < 16 → chunksIn g (g.range m (16 * (core / 16) + j)) ≤ c)
      → (∀ j, j < i → chunksIn g (g.range m (16 * (core / 16) + j)) < c) →
      let cut := (g.range m v).1 + z * (c / 2)
      first = cut ∧ n = min z ((g.range m v).2 - cut)
      ∧ g' = { g with ranges := (g.ranges.set (key v) ((g.range m v).1, cut)).set (key core) (cut + n, (g.range m v).2) })

/-- Arrivals of barrier n of a scope. -/
abbrev arrivals (g : Grid) (die : Bool) (place n k : Nat) : Prop := (die, place, n, k) ∈ g.arrived

/-- The cluster or the die of a context. -/
def placeOf (c : Ctx) (die : Bool) : Nat :=
  if die then (match c.kind with | .compute => c.gid / 256 % 4 | .kiosk => c.gid / 32 % 4 | .management => 0 | .standby => 1) else c.gid / 16

/-- What a strand that ended without ETRIG has issued and not performed: stores, remote stores, atomics and commands (02 R37). -/
def stillOut (s : State) (k seq strand : Nat) : Prop :=
  (∃ t ∈ s.reqq, t.key = k ∧ t.seq < seq) ∨ (∃ e ∈ s.elReqs, e.owner = some k)
  ∨ (∃ x ∈ (s.ctx k).outst, x.op.isAtomic = true ∧ x.seq < seq) ∨ (∃ p ∈ (s.ctx k).lsPend, farStore p.op = true)
  ∨ (∃ x ∈ (s.ctx k).queue ++ (s.ctx k).active, x.strand ≤ strand)
  ∨ ∃ e ∈ s.engines, ∃ x ∈ e.2.queue ++ e.2.loading.toList ++ e.2.pass.toList, x.key = k ∧ x.strand ≤ strand

/-- Every participant has arrived or has no strand left, and one has arrived; one that is pre-empted is waited for until it is resumed,
also where it had arrived (02 R35, 07 R164; the last is the model's choice, assumption log 50). -/
def passes (s : State) (g : Grid) (die : Bool) (place n : Nat) : Prop :=
  (∃ k, arrivals g die place n k)
  ∧ (∀ k ∈ g.keys, placeOf (s.ctx k) die = place → arrivals g die place n k ∨ s.ctxOver g k = true)
  ∧ ∀ e ∈ g.saved, placeOf e.2 die = place → g.overAt e.2 e.1 = true

/-- Domains of the grid on a die. -/
def domains (g : Grid) (die : Nat) : List Nat := (g.members.filter fun m => m.die == die).flatMap Member.clusters

/-- Every domain of a die is at its next point or over. -/
def atPoint (s : State) (g : Grid) (die : Nat) : Prop := ∀ cl ∈ domains g die, g.point.get? cl ≠ none ∨ s.domainOver g cl = true

/-- Messages that a die has had from another. -/
def messages (g : Grid) (die from_ : Nat) : Nat := ((g.heard.filter fun h => h.1 == die && h.2.1 == from_).map fun h => h.2.2).sum

/-- A die has heard of the next point from every other die that is not over, and from every other package (14 R284). -/
def heardAll (s : State) (g : Grid) (die : Nat) : Prop :=
  let n := (g.released.get? die).getD 0 + 1
  atPoint s g die ∧ (∃ cl ∈ domains g die, s.domainOver g cl = false)
  ∧ (∀ m ∈ g.members, m.die = die ∨ (∀ cl ∈ domains g m.die, s.domainOver g cl = true) ∨ n ≤ messages g die m.die)
  ∧ ∀ p, 0 < p → p < g.kcb.pkgs → n ≤ (g.pkgHeard.get? p).getD 0

/-- A grid after a die is released: its domains' windows open at their own counts, and their points are passed (14 R286). -/
def opened (s : State) (g g' : Grid) (die : Nat) : Prop :=
  (∀ cl w k, cl ∈ domains g die → g.point.get? cl = some w → k ∈ g.keys → (s.ctx k).cluster = cl →
    (∀ j ∈ g.keys, (s.ctx j).cluster = cl → (s.ctx j).sp.scnt = (s.ctx k).sp.scnt) →
    g'.window.get? cl = some (w, (s.ctx k).sp.scnt.toNat))
  ∧ (∀ cl, g'.point.get? cl = if cl ∈ domains g die then none else g.point.get? cl)
  ∧ (∀ d, g'.released.get? d = if d = die then some ((g.released.get? die).getD 0 + 1) else g.released.get? d)

/-- Lines that a context has cached. -/
def lines (s : State) (k : Nat) : Tab (Vector Word64 8) := (s.icache.get? k).getD []

/-- A line is in the cache of the context in focus; where the 1,024 lines of its core are full, one of them leaves (01 R11). -/
def filled (s : State) (line : Nat) (ws : Vector Word64 8) (o : Out) : Prop :=
  let mate := if s.focus % 2 = 0 then s.focus + 1 else s.focus - 1
  let n := (lines s s.focus).length + if s.focus < 2048 then (lines s mate).length else 0
  let put (u : State) : State := { u with icache := u.icache.set s.focus ((lines u s.focus).set line ws) }
  ((lines s s.focus).get? line ≠ none ∨ n < 1024 → o = .next (put s))
  ∧ ((lines s s.focus).get? line = none → 1024 ≤ n → ∃ k, (k = s.focus ∨ (s.focus < 2048 ∧ k = mate)) ∧ lines s k ≠ []
      ∧ o = .next (put { s with icache := s.icache.set k (lines s k).tail }))

/-- An access that must wait for another of the same source: a completion word for the bytes of its deposit, an access of a strand for
its earlier ones, but for the two streams of one matrix step (13 R276 R279, 10 R218; the model's choice, assumption log 29). -/
def yields (e x : ElReq) : Prop :=
  (e.kind = .cword ∧ x.kind = .deposit ∧ x.key = e.key ∧ x.owner = e.owner)
  ∨ (x.owner = e.owner ∧ ∃ p q, e.job = .access p ∧ x.job = .access q
      ∧ ¬ ((∃ r c a n, p.op = .stream r c a n) ∧ ∃ r c a n, q.op = .stream r c a n))

/-- The tick of the die whose LS a request reaches. -/
def lsTick (s : State) (e : ElReq) : Nat := (s.dies.get (Fin.ofNat 4 (lsCore e.key / 256))).tick.toNat

/-- A request may be granted in the tick that has ended: it was made by then, no earlier one of its source goes before it, and no request
of the tick holds one of its banks (06 R131). -/
def open_ (s : State) (i : Nat) (e : ElReq) : Prop :=
  s.elReqs[i]? = some e ∧ e.age < lsTick s e ∧ (∀ j x, j < i → s.elReqs[j]? = some x → ¬ yields e x)
  ∧ ∀ b ∈ banksAt e.addr e.len, ∀ r ∈ s.lsReqs, lsCore r.key = lsCore e.key → b ∉ banksAt r.addr r.len

/-- Request x goes before request e on a bank that both want: its kind is earlier in the bank's rotation, or it is of the same kind and
older, of a lower master, or earlier made (06 R131). -/
def goesBefore (s : State) (j : Nat) (x : ElReq) (i : Nat) (e : ElReq) : Prop :=
  lsCore x.key = lsCore e.key ∧ ∃ b ∈ banksAt e.addr e.len, b ∈ banksAt x.addr x.len
    ∧ let o := s.elOrderOf (lsCore e.key) b
      (o.idxOf x.kind < o.idxOf e.kind ∨ (x.kind = e.kind
        ∧ (x.age < e.age ∨ (x.age = e.age ∧ (x.master < e.master ∨ (x.master = e.master ∧ j < i))))))

/-- The rotations of the banks after a grant: the kind goes to the back (06 R131). -/
def turned (s : State) (kind : ElKind) (core : Nat) (banks : List Nat) (t : Tab (List ElKind)) : Tab (List ElKind) :=
  banks.foldl (fun t b => t.set (32 * core + b) ((s.elOrderOf core b).filter (fun k => decide (k ≠ kind)) ++ [kind])) t

/-- The state as a request that alone stands at its LS takes its banks. -/
def taken (s : State) (e : ElReq) (rest : List ElReq) : State :=
  { s with
    elReqs := rest
    lsReqs := s.lsReqs ++ [⟨e.key, 0, 0, e.addr, e.len, true, e.key, 0, 0, true⟩]
    elOrder := turned s e.kind (lsCore e.key) (banksAt e.addr e.len) s.elOrder }

/-- A context of the die waits for the release of a resumption (14 R284). -/
def waitsResume (s : State) (g : Grid) (die : Nat) : Prop := ∃ k ∈ g.keys, (s.ctx k).die = die ∧ Hold.resume ∈ (s.ctx k).holds

/-- A die has heard of the resumption from every other die that is not over and from every other package (14 R284 R285). -/
def heardResume (s : State) (g : Grid) (hs : List (Nat × Nat)) (ps : List Nat) (die : Nat) : Prop :=
  (∀ m ∈ g.members, m.die = die ∨ (∀ cl ∈ domains g m.die, s.domainOver g cl = true) ∨ (die, m.die) ∈ hs)
  ∧ ∀ p, 0 < p → p < g.kcb.pkgs → p ∈ ps

/-- The contexts of a die go on after a resumption; with the last of them it is over. -/
def wentOn (s t : State) (gid : Nat) (g : Grid) (die : Nat) : Prop :=
  (∀ k, t.ctx k = if k ∈ g.keys ∧ (s.ctx k).die = die then
    { s.ctx k with holds := (s.ctx k).holds.filter fun h => decide (h ≠ .resume) } else s.ctx k)
  ∧ ((∃ d, d ≠ die ∧ waitsResume s g d) → t.grids.get? gid = some g)
  ∧ ((∀ d, d ≠ die → ¬ waitsResume s g d) → t.grids.get? gid = some { g with resume := none })

/-- A fault of the machine ends a grid: its record holds the code, the context id and the first detail word (25 R363). -/
def ends (s : State) (gid : Nat) (g : Grid) (c : Ctx) (code : Nat) (d0 : Word64) : State :=
  s.endGrid gid [BitVec.ofNat 64 (code + 2 ^ 48 * c.ctxId.toNat), BitVec.ofNat 64 (g.seq % 2 ^ 32 + 2 ^ 32 * g.queue), 0, 0, 0, 0, d0, 0]

end Sys2Proof.Claim

/-- 02 R19 R20 R23 R24 R25: a strand begins on a settled context of a running grid with its registers, predicates, specials and
coordinates at their entry values, at the kernel's entry address, once no exposed result is in flight; the LS, its tags, landing slots and
counts stay. At grid start the strands of one freeze domain begin together (14 R284). A context that is still running takes none. A CHNK
that arrives takes a chunk by the rules of the bazaar. That `$scnt` is 0 at a context's first strand only, and what becomes of values
that the last strand awaits, is the model's choice (assumption log 34), as are the order of a domain's start (log 56) and the victim of
a steal (log 43). -/
def Sys2Proof.Claim.strandsAndChunks : Prop :=
  ∀ (s : State) (gid : Nat) (g : Grid), s.cur.grid = some gid → s.grids.get? gid = some g →
    (∀ m n keep, g.state = .running → g.nc ≠ 0 → g.nd ≠ 0 → s.cur.run ≠ .running → s.cur.run ≠ .stopped → Claim.noResult s →
      g.joined.contains s.focus = false → Claim.follows g s.cur m n → (keep = true ↔ Claim.owesToken s s.focus) →
      exec (.strandStart s.focus) s
        = .next (Claim.cur { s with grids := s.grids.set gid g } fun c => Claim.entered c g m n keep))
    ∧ (∀ (m n : Nat → Nat) (keep : Nat → Bool), g.state = .running → g.nc ≠ 0 → g.nd ≠ 0 → g.keys.Nodup → Hold.start ∈ s.cur.holds → s.focus ∈ g.keys →
      (∀ k ∈ g.keys, (s.ctx k).cluster = s.cur.cluster → Hold.start ∈ (s.ctx k).holds →
        g.joined.contains k = false ∧ (s.ctx k).run = .idle ∧ Claim.follows g (s.ctx k) (m k) (n k)
        ∧ (keep k = true ↔ Claim.owesToken s k)) →
      ∃ t, exec (.strandStart s.focus) s = .next t ∧ t.grids.get? gid = some g ∧ (t.mem, t.reqq, t.focus) = (s.mem, s.reqq, s.focus)
        ∧ ∀ k, t.ctx k = if k ∈ g.keys ∧ (s.ctx k).cluster = s.cur.cluster ∧ Hold.start ∈ (s.ctx k).holds then
            Claim.entered (s.ctx k) g (m k) (n k) (keep k) else s.ctx k)
    ∧ (s.cur.run = .running ∨ s.cur.run = .stopped → Hold.start ∉ s.cur.holds → exec (.strandStart s.focus) s = .next s)
    ∧ ∀ (d : Fin 64) (a : Word64) (pos : Fin 8) (seq : Nat) (l : List Outst) (first n : Nat) (g' : Grid),
        s.cur.outst = ⟨.chnk d, a, pos, seq, none⟩ :: l → (∀ u ∈ s.requests s.cur.coreId, u.seq ≠ seq) → d ≠ 0 → d.val < 63 → 0 < g.kcb.chunk →
        Claim.takes g s.cur.mIdx s.cur.gid first n g' →
        exec (.interlockedValueArrive s.focus 0) s = .next (Claim.cur { s with grids := s.grids.set gid g' } fun c => { c with
          outst := l
          regs := { c.regs with s := (c.regs.s.set d (BitVec.ofNat 64 first)).set (Fin.ofNat 64 (d.val + 1)) (BitVec.ofNat 64 n) } })

/-- 02 R35 R37, 07 R164, 25 R363 R364: a barrier passes when every participant of its scope has arrived or has no strand left: its
arrivals are used up and its participants go on; until then nothing changes. Two barriers of one scope waited on at once end the grid
with code 16 and the lower number. That the watchdog's record holds coordinates of 0 is the model's choice (assumption log 23), as is that a
pre-empted participant that had arrived is waited for (log 50), and when the event may come (log 10). The early trigger fires when every strand has counted and the writes of those that ended without
ETRIG have performed. -/
def Sys2Proof.Claim.barriersAndTrigger : Prop :=
  ∀ (s : State) (gid : Nat) (g : Grid), s.grids.get? gid = some g →
    (∀ (die : Bool) (place n : Nat), ¬ Claim.passes s g die place n → exec (.barrierPass gid die place n) s = .next s)
    ∧ (∀ (die : Bool) (place n : Nat), Claim.passes s g die place n → ∃ t, exec (.barrierPass gid die place n) s = .next t
        ∧ t.grids = s.grids.set gid { g with arrived := g.arrived.filter fun a => !(a.1 == die && a.2.1 == place && a.2.2.1 == n) }
        ∧ ∀ k, t.ctx k = if Claim.arrivals g die place n k ∧ k ∈ g.keys then
            { s.ctx k with holds := (s.ctx k).holds.filter fun h => decide (∀ b : Fin 16, b.val = n → h ≠ .bar die b) } else s.ctx k)
    ∧ (∀ (die : Bool) (place a b k : Nat) (ks : List Nat), a < b → b < 16 → g.keys = k :: ks →
        (∃ x, Claim.arrivals g die place a x) → (∃ x, Claim.arrivals g die place b x) →
        (∀ n x, Claim.arrivals g die place n x → a ≤ n) →
        exec (.barrierWatchdog gid die place) s = .next (Claim.ends s gid g (s.ctx k) 16 (BitVec.ofNat 64 (a + if die then 32 else 16))))
    ∧ (g.state = .running → g.early = true → g.strandCount ≤ g.triggered → (∀ o ∈ g.owed, ¬ Claim.stillOut s o.1 o.2.1 o.2.2) →
        exec (.earlyTrigger gid) s = .next { s with grids := s.grids.set gid { g with trig := true } })
    ∧ (g.state ≠ .running ∨ g.early = false ∨ g.triggered < g.strandCount ∨ (∃ o ∈ g.owed, Claim.stillOut s o.1 o.2.1 o.2.2) →
        exec (.earlyTrigger gid) s = .next s)

/-- 14 R284 R285 R286: a die hears of another's point once for each, and a package of another package's; when every die and package has
reached the point, the die's domains are released: their windows open at their own schedule counts and their contexts go on. A grid that
resumes goes on by the same messages, the first of each source (the model's choice, assumption log 47). What comes from another package is
the model's choice too (log 17). -/
def Sys2Proof.Claim.alignmentPoints : Prop :=
  ∀ (s : State) (gid : Nat) (g : Grid), s.grids.get? gid = some g → g.state = .running →
    ((g.resume = none ∧ ∀ k ∈ g.keys, Hold.resume ∉ (s.ctx k).holds) → ∀ die from_ : Nat,
      let news := die ≠ from_ ∧ (∃ m ∈ g.members, m.die = from_)
        ∧ (Claim.messages g die from_ < (g.released.get? from_).getD 0
          ∨ (Claim.messages g die from_ = (g.released.get? from_).getD 0 ∧ Claim.atPoint s g from_))
      ∀ g1, (news → g1 = { g with heard := g.heard ++ [(die, from_, 1)] }) → (¬ news → g1 = g) →
      (¬ Claim.heardAll s g1 die → exec (.pointReached gid die from_) s = .next { s with grids := s.grids.set gid g1 })
      ∧ (Claim.heardAll s g1 die → ∃ t g2, exec (.pointReached gid die from_) s = .next t ∧ t.grids.get? gid = some g2
          ∧ Claim.opened s g1 g2 die ∧ (g2.members, g2.keys, g2.arrived, g2.heard) = (g1.members, g1.keys, g1.arrived, g1.heard)
          ∧ ∀ k, t.ctx k = if k ∈ g.keys ∧ (s.ctx k).cluster ∈ Claim.domains g die then
              { s.ctx k with holds := (s.ctx k).holds.filter fun h => match h with | .tkaln _ => false | _ => true } else s.ctx k))
    ∧ (∀ (hs : List (Nat × Nat)) (ps : List Nat), g.resume = some (hs, ps) →
        (∀ (die from_ : Nat) (hs1 : List (Nat × Nat)),
          let other := die ≠ from_ ∧ ∃ m ∈ g.members, m.die = from_
          Claim.waitsResume s g die ∨ (other ∧ (die, from_) ∉ hs) →
          (other → hs1 = hs ++ [(die, from_)]) → (¬ other → hs1 = hs) →
          let g1 : Grid := { g with resume := some (hs1, ps) }
          (¬ Claim.heardResume s g hs1 ps die → exec (.pointReached gid die from_) s = .next { s with grids := s.grids.set gid g1 })
          ∧ (Claim.heardResume s g hs1 ps die → ∃ t, exec (.pointReached gid die from_) s = .next t ∧ Claim.wentOn s t gid g1 die))
        ∧ ∀ p, 0 < p → p < g.kcb.pkgs → p ∉ ps →
          let g1 : Grid := { g with resume := some (hs, ps ++ [p]) }
          ((∀ m ∈ g.members, ¬ Claim.heardResume s g hs (ps ++ [p]) m.die) →
            exec (.packageReached gid p) s = .next { s with grids := s.grids.set gid g1 })
          ∧ ∀ m, g.members = [m] → Claim.heardResume s g hs (ps ++ [p]) m.die → ∃ t, exec (.packageReached gid p) s = .next t
              ∧ Claim.wentOn s t gid g1 m.die)
    ∧ ∀ p : Nat, (p = 0 ∨ g.kcb.pkgs ≤ p → exec (.packageReached gid p) s = .next s)
        ∧ ((g.resume = none ∧ ∀ k ∈ g.keys, Hold.resume ∉ (s.ctx k).holds) → 0 < p → p < g.kcb.pkgs →
          let g1 := { g with pkgHeard := g.pkgHeard.set p ((g.pkgHeard.get? p).getD 0 + 1) }
          ((∀ m ∈ g.members, ¬ Claim.heardAll s g1 m.die) →
            exec (.packageReached gid p) s = .next { s with grids := s.grids.set gid g1 })
          ∧ ∀ m, g.members = [m] → Claim.heardAll s g1 m.die → ∃ t g2, exec (.packageReached gid p) s = .next t ∧ t.grids.get? gid = some g2
              ∧ Claim.opened s g1 g2 m.die)

/-- 06 R131 R138, 01 R11, 02 R34 R39, 25 R364: a missing line of text arrives where it may be fetched, in place of another where the 64 KiB
are full, else the fetch faults; an elastic LS request that is the only one at its LS is granted: its bytes are written and its kind goes
to the end of the rotation of its banks, or its access performs and ends the freeze of its syllable; one whose bank a request of the tick
holds, or another goes before, waits; the starvation guard holds the primary for a tick after 4,096; a fault that reaches a context ends
its grid; an uncorrectable error that no grid reads is logged, and its line waits for the next reader (27 R379). Which lines leave a full
cache is the model's choice (assumption log 35), as are the rotation and the order of the elastic requests (log 29), what the starvation
guard counts (log 52) and what becomes of a line in error (log 55). -/
def Sys2Proof.Claim.contextEvents : Prop :=
  ∀ s : State,
    (∀ line, s.missing = some line →
      let va := BitVec.ofNat 64 (64 * line)
      (∀ p, s.cur.kind = .compute ∨ s.cur.kind = .kiosk → lttXlate s.cur.ltt va 64 8 3 4 = .ok p →
        s.physFault s.cur.master s.cur.ctxId va p.1 64 3 = none →
        Claim.filled s line (Vector.ofFn fun i => BitVec.ofNat 64 (leNat (s.pread (p.1 + 8 * i.val) 8))) (exec (.icacheFill s.focus) s))
      ∧ (s.cur.kind = .management ∨ s.cur.kind = .standby →
        Claim.filled s line (Vector.ofFn fun i => s.cur.ls.word (64 * line + 8 * i.val)) (exec (.icacheFill s.focus) s))
      ∧ ∀ f, (s.cur.kind = .compute ∨ s.cur.kind = .kiosk) ∧ (lttXlate s.cur.ltt va 64 8 3 4 = .error f
            ∨ ∃ p, lttXlate s.cur.ltt va 64 8 3 4 = .ok p ∧ s.physFault s.cur.master s.cur.ctxId va p.1 64 3 = some f) →
          exec (.icacheFill s.focus) s = .next (s.takeFault ⟨f.1, 0, 0, f.2.1, f.2.2⟩))
    ∧ (s.missing = none → exec (.icacheFill s.focus) s = .next s)
    ∧ (∀ (l r : List ElReq) (e : ElReq) (bs : List Byte), s.elReqs = l ++ e :: r → (∀ x ∈ l ++ r, lsCore x.key ≠ lsCore e.key) →
        (∀ x ∈ s.lsReqs, lsCore x.key ≠ lsCore e.key) → e.age < Claim.lsTick s e → e.job = .write bs → e.key = s.focus → s.cur.grid ≠ none →
        exec (.elasticLsGrant l.length) s = .next (Claim.cur (Claim.taken s e (l ++ r)) fun c => { c with ls := c.ls.writeN e.addr bs }))
    ∧ (∀ (e : ElReq) (p : LsPend), s.elReqs = [e] → (∀ x ∈ s.lsReqs, lsCore x.key ≠ lsCore e.key) → e.age < Claim.lsTick s e →
        e.job = .access p → e.owner = some s.focus →
        let t := Claim.cur (Claim.taken s e []) fun c => { c with holds := c.holds.filter fun h => decide (h ≠ .elastic p.born p.pos) }
        exec (.elasticLsGrant 0) s = .next (match t.runLs p with
          | .ok u => u
          | .error f => t.takeFault ⟨f.1, BitVec.ofNat 8 (2 ^ p.pos.val), p.addr, f.2.1, f.2.2⟩))
    ∧ (∀ (i : Nat) (e : ElReq), s.elReqs[i]? = some e → ¬ Claim.open_ s i e → exec (.elasticLsGrant i) s = .next s)
    ∧ (∀ (i j z : Nat) (e x y : ElReq), Claim.open_ s i e → Claim.open_ s j x → Claim.goesBefore s j x i e →
        Claim.open_ s z y → lsCore y.key = lsCore e.key → (∀ k w, k ≠ z → Claim.open_ s k w → ¬ Claim.goesBefore s k w z y) →
        exec (.elasticLsGrant i) s = .next s)
    ∧ (∀ i : Nat, s.elReqs.length ≤ i → exec (.elasticLsGrant i) s = .next s)
    ∧ (∀ core, s.focus = 2 * core → exec (.starvationGuardHold core) s = .next (if s.cur.guard = true ∧ 4096 ≤ s.cur.starve then
        Claim.cur s fun c => { c with starve := 0, holds := c.holds ++ [.tick 1] } else s))
    ∧ ∀ f : FaultWords,
        (f.code ≠ 14 → exec (.gridFault s.focus f) s = .next (if s.cur.grid = none then s else s.takeFault f))
        ∧ (f.code = 14 → let u := { s with uecnt := if s.uecnt = -1 then -1 else s.uecnt + 1, uekind := f.d1.setWidth 4, ueloc := f.d0.extractLsb' 12 52 }
          (s.cur.grid ≠ none → exec (.gridFault s.focus f) s = .next (u.takeFault f))
          ∧ (s.cur.grid = none → ∃ l, (∀ n, n ∈ l ↔ n = f.d0.toNat / 64 ∨ n ∈ s.bad) ∧ exec (.gridFault s.focus f) s = .next { u with bad := l }))


/-! ### Queues, launches, retirement and pre-emption (24, 02 R18 R21 R36 R42, 05 R110, 13 R281, 16 R317) -/

namespace Sys2Proof.Claim
open Machine

/-- A function exists: the PF, and a VF that the PF has created (23 R335; that CLUSTERS other than 0 creates it is the model's choice,
assumption log 59). -/
abbrev lives (s : State) (fn : Nat) : Prop := fn = 0 ∨ (s.func fn).alive = true

/-- A write of a function's window acts: bring-up is over, the function exists, and no write of it waits on its link (26 R368, 27 R386). -/
def windowOpen (s : State) (fn : Nat) : Prop := s.boot.step = 8 ∧ lives s fn ∧ (s.func fn).waits = []

/-- The dispatcher's registers admit the function's writes (23 R338 R339; that they stand at target 0x80 is the model's choice, log 57). -/
def atDispatcher (s : State) (fn : Nat) : Prop := s.admits 0x80 (0x900 + fn) 1 none = true

/-- A function with no ready launch has deficit 0 (24 R352). -/
def idled (s : State) : State :=
  { s with funcs := s.funcs.map fun e =>
      (e.1, if ∃ x ∈ s.queues, x.1 / 32 + 1 = e.1 ∧ (s.readyHead x.1).isSome = true then e.2 else { e.2 with deficit := 0 }) }

/-- A queue changes. -/
def onQueue (s : State) (q : Nat) (x : Queue) : State := { s with queues := s.queues.set q x }

/-- The words of a completion or status record (24 R351). -/
def rec128 (status reason q seq : Nat) (aovr trig : Bool) (f : List Word64) : List Word64 :=
  [BitVec.ofNat 64 (status + (if aovr then 2 ^ 8 else 0) + (if trig then 2 ^ 9 else 0) + q * 2 ^ 16 + reason * 2 ^ 28),
    BitVec.ofNat 64 (seq % 2 ^ 32), 0, 0, 0, 0, 0, 0] ++ (f ++ List.replicate 8 0).take 8

/-- A launch completes: its record is posted where CPLADDR is not 0, then IRQ raises the completion cause, then the signal counter
advances (13 R281, 24 R347 R349, 26 R370). -/
def completes (s : State) (q : Nat) (ctx : BitVec 8) (p r : List Word64) : State :=
  let fn := q / 32 + 1
  let s1 := if fld p 7 0 48 = 0 then s else s.vwrite ctx (fld p 7 0 48) (wordBytes r)
  let s2 := if fld p 0 14 1 = 1 then s1.cause fn 0 else s1
  if fld p 6 10 1 = 1 then
    let n := fld p 6 0 10
    let v := ((s2.func fn).ctrs.get? n).getD 0 + BitVec.ofNat 64 (fld p 6 32 32)
    { s2 with funcs := s2.funcs.set fn { s2.func fn with ctrs := (s2.func fn).ctrs.set n v } }
  else s2

/-- A queue halts: its status record goes to OVRADDR and the halt cause is raised (24 R345). -/
def halts (s : State) (q status seq : Nat) : State :=
  let x := s.queue q
  let s1 := onQueue s q { x with halted := true }
  (if x.ovr = 0 then s1 else s1.vwrite x.ctx x.ovr.toNat (wordBytes (rec128 status 0 q seq false false []))).cause (q / 32 + 1) 2

/-- A trip count of a launch: a packet argument or the block's own (02 R17, 16 R315). -/
def tripOf (p : List Word64) (v : Level) : Nat :=
  match v.kind, v.arg with
  | .unused, _ => 1
  | _, some a => fld p (2 + a.val / 2) (32 * (a.val % 2)) 32
  | _, none => v.count

/-- The code object that a launch names: loaded, in the queue's context (24 R348). -/
def objectOf (s : State) (q : Nat) (p : List Word64) (c : CodeObj) : Prop :=
  s.codes.get? (fld p 0 32 32) = some c ∧ c.ctx = (s.queue q).ctx ∧ c.ready = true

/-- The causes of rejection of a packet (24 R348). -/
def rejects (s : State) (q : Nat) (l : Launch) (n : Nat) : Prop :=
  let p := l.words
  let type := fld p 0 0 8
  let kidx := fld p 0 24 6
  let k := fld p 2 0 32
  (n = 1 ∧ (2 < type ∨ (type = 1 ∧ 5 ≤ fld p 0 16 3 ∧ ¬ ∃ c kcb, objectOf s q p c ∧ c.kcbs[kidx]? = some kcb ∧ kcb.elastic = false)))
  ∨ (n = 2 ∧ type ≠ 0 ∧ ¬ ∃ c, objectOf s q p c)
  ∨ (n = 3 ∧ ∃ c, objectOf s q p c ∧ (type = 1 ∧ c.kcbs[kidx]? = none ∨ type = 2 ∧ c.kiosks[kidx]? = none))
  ∨ (type = 1 ∧ ∃ c kcb, objectOf s q p c ∧ c.kcbs[kidx]? = some kcb ∧
      ((n = 4 ∧ ∃ v ∈ kcb.levels, v.kind = .temporal ∧ 65535 < tripOf p v)
      ∨ (n = 5 ∧ p.getD 1 0 ≠ 0 ∧ s.vread (s.queue q).ctx (p.getD 1 0).toNat 8 = none)
      ∨ (n = 6 ∧ s.place? (List.range 2048) q l kcb = none)))
  ∨ (n = 7 ∧ type = 2 ∧ (127 < k ∨ (s.ctx (2048 + k)).run = .running ∨ k / 16 ∈ s.boot.badBases
      ∨ s.admits (0x11 + k / 16) (0x900 + q / 32 + 1) 1 (some (s.queue q).ctx) = false))

/-- A context as a grid begins on it (02 R21, 25 R362). -/
def fresh (s : State) (g : Grid) (gid key : Nat) (c : Ctx) : Prop :=
  c.grid = some gid ∧ c.ctxId = g.ctx ∧ c.run = .idle ∧ c.ls = [] ∧ c.foot = g.kcb.foot ∧ c.profA = g.kcb.profA ∧ c.elastic = g.kcb.elastic
  ∧ c.holds = (if g.kcb.elastic = true ∨ g.nextStrand c key = none then [] else [.start]) ∧ c.guard = (g.sguard && key % 2 == 0)
  ∧ c.tags = [] ∧ c.slots = Vector.replicate 64 (.empty, Vec.zero) ∧ c.sp.scnt = 0 ∧ c.gid = key / 2 ∧ c.second = (key % 2 == 1)
  ∧ ∀ o t, s.codes.get? g.code = some o → o.ltts[g.kcb.lttx]? = some t → c.ltt = t

/-- Nothing of a grid's contexts is under way, but what a save keeps. -/
def atRest (s : State) (ks : List Nat) : Prop :=
  (∀ k ∈ ks, (s.ctx k).outst = [] ∧ (s.ctx k).queue = [] ∧ (s.ctx k).active = [] ∧ ∀ p ∈ (s.ctx k).lsPend, p.isSend = false)
  ∧ (∀ e ∈ s.elReqs, e.key ∉ ks ∧ ∀ o, e.owner = some o → o ∉ ks) ∧ (∀ e ∈ s.engines, e.2.quiet ks = true)
  ∧ ∀ u ∈ s.reqq, u.key ∉ ks

/-- A running grid is pre-empted whole: every context is saved as it stands at its bundle boundary, and its slots are free. -/
def isSaved (s t : State) (gid : Nat) (g : Grid) : Prop :=
  ∃ g', t.grids.get? gid = some g' ∧ g'.state = .preempted ∧ g'.keys = [] ∧ (g'.pkt, g'.members, g'.trips) = (g.pkt, g.members, g.trips)
    ∧ (∀ k ∈ g.keys, g'.saved.get? k = some { s.ctx k with holds := (s.ctx k).holds.filter fun h => match h with
        | .preempted | .resume | .atomic | .chnk | .elastic _ _ | .circuit _ => false
        | _ => true })
    ∧ (∀ k ∈ g.keys, t.ctx k = Ctx.ofKey k) ∧ ∀ k, k ∉ g.keys → t.ctx k = s.ctx k

end Sys2Proof.Claim

/-- 24 R344 R345 R346 R352: a doorbell that leaves the ring within its size sets the tail, another halts the queue with status 3; the next
packet is fetched from its slot, and one that cannot be read halts the queue with status 6; a disabled or halted queue ignores both; a
reset empties the queue; a window that is not up yet, one of a function that does not exist and one that the access table shuts ignore a write, and one behind a write that waits on the link waits in order; aging
raises a launch by one level, to at most 7, when it has been ready for AGE × 2^16 ticks of die 0. Which functions exist and which table covers a register are the model's
choices (assumption log 59 and 57). -/
def Obligations.QueueEvents : Prop :=
  ∀ (q : Nat) (s : State),
    let x := s.queue q
    (Claim.windowOpen s (q / 32 + 1) → Claim.atDispatcher s (q / 32 + 1) → ∀ t : Word32,
      (x.en = false ∨ x.halted = true → exec (.doorbell q t) s = .next s)
      ∧ (x.en = true → x.halted = false → (t - x.head).toNat ≤ 2 ^ x.log2 → exec (.doorbell q t) s = .next (Claim.onQueue s q { x with tail := t }))
      ∧ (x.en = true → x.halted = false → 2 ^ x.log2 < (t - x.head).toNat → exec (.doorbell q t) s = .next (Claim.halts s q 3 x.head.toNat)))
    ∧ (x.en = false ∨ x.halted = true ∨ x.head = x.tail → exec (.packetFetch q) s = .next s)
    ∧ (x.en = true → x.halted = false → x.head ≠ x.tail →
        let a := x.base.toNat + 64 * (x.head.toNat % 2 ^ x.log2)
        (∀ bs, s.vread x.ctx a 64 = some bs → exec (.packetFetch q) s = .next (Claim.onQueue s q
          { x with head := x.head + 1, waiting := x.waiting ++ [⟨x.head.toNat, wordsOfBytes 8 bs, 0, 0⟩] }))
        ∧ (s.vread x.ctx a 64 = none → exec (.packetFetch q) s = .next (Claim.halts s q 6 x.head.toNat)))
    ∧ (Claim.windowOpen s (q / 32 + 1) → Claim.atDispatcher s (q / 32 + 1) → let x' := { x with waiting := [], head := 0, tail := 0, halted := false, since := s.starts }
        ∃ t, exec (.queueReset q) s = .next t ∧ t.queue q = x' ∧ t.grids = s.grids ∧ t.cur = s.cur ∧ (x.waiting = [] → t = Claim.onQueue s q x'))
    ∧ (s.boot.step ≠ 8 ∨ ¬ Claim.lives s (q / 32 + 1) ∨ ¬ Claim.atDispatcher s (q / 32 + 1) →
        exec (.queueReset q) s = .next s ∧ ∀ t, exec (.doorbell q t) s = .next s)
    ∧ (s.boot.step = 8 → Claim.lives s (q / 32 + 1) → Claim.atDispatcher s (q / 32 + 1) → (s.func (q / 32 + 1)).waits ≠ [] →
        let waits (off : Nat) (w : Word64) : State := { s with
          funcs := s.funcs.set (q / 32 + 1) { s.func (q / 32 + 1) with
            waits := (s.func (q / 32 + 1)).waits ++ [.reg (0x10000 + 0x40 * (q % 32) + off) w] } }
        exec (.queueReset q) s = .next (waits 0x20 4) ∧ ∀ t : Word32, exec (.doorbell q t) s = .next (waits 0x10 (t.setWidth 64)))
    ∧ (s.readyHead q = none ∨ x.age = 0 → exec (.agingRaise q) s = .next s)
    ∧ ∀ l r, s.readyHead q = some l → x.age ≠ 0 → x.waiting = l :: r →
        let n := x.age.toNat * 2 ^ 16
        (l.ready < n → exec (.agingRaise q) s = .next (Claim.onQueue s q x))
        ∧ (n ≤ l.ready → exec (.agingRaise q) s = .next (Claim.onQueue s q { x with waiting :=
            { l with ready := l.ready - n, age := if Claim.fld l.words 0 11 3 + l.age < 7 then l.age + 1 else l.age } :: r }))

/-- 02 R18 R21, 05 R110, 13 R281, 16 R317, 24 R347 R348 R349 R354: the launch that arbitration picks leaves its queue. A no-op completes. A
launch with a cause of rejection completes with status 2 and the lowest. A kernel with a trip count of 0 completes; another takes its
place, and its contexts begin with a cleared LS and the template's LTT. A kiosk start loads the image and runs the core; one whose image
cannot be read takes the fault (the model's choice, assumption log 55). That a kiosk barred by its access-table entry is reason 7 is the
model's choice (log 30), as are a record and an interrupt with CPLADDR 0 (log 21) and which reserved fields reject (log 22). -/
def Obligations.LaunchEvents : Prop :=
  ∀ (q : Nat) (s s1 : State) (l : Launch) (r : List Launch), s.pick = some (s1, q) → (s.queue q).waiting = l :: r →
    let p := l.words
    let type := Claim.fld p 0 0 8
    let u := Claim.idled (Claim.onQueue s1 q { s1.queue q with waiting := r })
    let ctx := (u.queue q).ctx
    (type = 0 → exec (.noopLaunch q) s = .next (Claim.completes u q ctx p (Claim.rec128 0 0 q l.seq false false [])))
    ∧ (∀ n, Claim.rejects u q l n → (∀ m, m < n → ¬ Claim.rejects u q l m) →
        (type = 1 ∨ 2 < type → exec (.kernelLaunch q) s = .next (Claim.completes u q ctx p (Claim.rec128 2 n q l.seq false false [])))
        ∧ (type = 2 → exec (.kioskStart q) s = .next (Claim.completes u q ctx p (Claim.rec128 2 n q l.seq false false []))))
    ∧ ((∀ n, ¬ Claim.rejects u q l n) → ∀ c, Claim.objectOf u q p c →
        (∀ k, type = 1 → c.kcbs[Claim.fld p 0 24 6]? = some k →
          ((∃ v ∈ k.levels, Claim.tripOf p v = 0) →
            exec (.kernelLaunch q) s = .next (Claim.completes u q ctx p (Claim.rec128 0 0 q l.seq false false [])))
          ∧ ∀ pl, (∀ v ∈ k.levels, Claim.tripOf p v ≠ 0) → u.place? [] q l k = some pl →
            ∃ t g, exec (.kernelLaunch q) s = .next t ∧ t.grids.get? u.starts = some g
              ∧ g.state = .running ∧ g.queue = q ∧ g.seq = l.seq ∧ g.func = q / 32 + 1 ∧ g.ctx = ctx ∧ g.pkt = p ∧ g.kcb = k
              ∧ g.ptroot = (u.ctxRegs ctx.toNat).ptroot ∧ (t.ctxRegs ctx.toNat).root = g.ptroot ∧ g.resume = none
              ∧ g.entry = BitVec.ofNat 64 (c.text + k.entry) ∧ g.trips = k.levels.map (Claim.tripOf p)
              ∧ (match pl with | .members ms => g.members = ms | .slots ks => g.keys = ks)
              ∧ (t.queue q).live = (u.queue q).live ++ [u.starts] ∧ t.starts = u.starts + 1
              ∧ (∀ k ∈ g.keys, Claim.fresh u g u.starts k (t.ctx k)) ∧ ∀ k, k ∉ g.keys → t.ctx k = u.ctx k)
        ∧ ∀ n : KioskNote, type = 2 → c.kiosks[Claim.fld p 0 24 6]? = some n →
            ((∃ i, 64 * i < n.len ∧ u.vread ctx (n.img + 64 * i) 64 = none) →
              ∃ t, exec (.kioskStart q) s = .next (Claim.completes t q ctx p (Claim.rec128 0 0 q l.seq false false []))
                ∧ (t.ctx (2048 + Claim.fld p 2 0 32)).run = .stopped ∧ (t.ctx (2048 + Claim.fld p 2 0 32)).kiosk.fault ≠ none)
            ∧ ((∀ i, 64 * i < n.len → u.vread ctx (n.img + 64 * i) 64 ≠ none) →
            ∃ t v, exec (.kioskStart q) s = .next (Claim.completes t q ctx p (Claim.rec128 0 0 q l.seq false false []))
              ∧ t.ctx (2048 + Claim.fld p 2 0 32) = v ∧ v.run = .running ∧ v.ctxId = ctx
              ∧ v.pc = BitVec.ofNat 64 (c.text + n.entry) ∧ v.next = v.pc ∧ v.regs.s.get 1 = p.getD 1 0
              ∧ (∀ i : Fin 64, i ≠ 1 → v.regs.s.get i = 0) ∧ (∀ i, i < n.len → u.vread ctx (n.img + i) 1 = some [v.ls.read i])
              ∧ ∀ i, n.len ≤ i → v.ls.read i = 0))

/-- 02 R36 R39, 11 R228, 13 R281, 24 R351: a grid whose every strand has ended and whose commands are over retires: its stores perform,
its contexts are free, its payloads at ports are discarded, an early trigger that has not fired does (02 R37), its record is posted and
then its signal advances; until then nothing changes. A grid that a fault has ended retires when its commands are over or can no longer go
on (what that means is the model's choice, assumption log 27, as is a record with CPLADDR 0, log 21). -/
def Obligations.Retirement : Prop :=
  ∀ (s : State) (gid : Nat) (g : Grid), s.grids.get? gid = some g →
    let fires := g.state = .running ∧ g.early = true ∧ g.strandCount ≤ g.triggered ∧ ∀ o ∈ g.owed, ¬ Claim.stillOut s o.1 o.2.1 o.2.2
    let ends (status : Nat) (f : List Word64) : Prop :=
      ∃ t trig, exec (.gridRetire gid) s = .next (Claim.completes t g.queue g.ctx g.pkt (Claim.rec128 status 0 g.queue g.seq g.aovr trig f))
        ∧ (trig = true ↔ g.trig = true ∨ fires)
        ∧ t.fabric = s.fabric.filter (fun p => p.grid ≠ gid)
        ∧ (∀ e ∈ t.ports, ∀ x ∈ e.2.wait ++ e.2.again ++ e.2.last.toList, x.grid ≠ gid)
        ∧ t.grids = s.grids.del gid ∧ (t.queue g.queue).live = (s.queue g.queue).live.filter (· ≠ gid)
        ∧ (∀ k ∈ g.keys, t.ctx k = Ctx.ofKey k) ∧ (∀ k, k ∉ g.keys → t.ctx k = s.ctx k) ∧ t.mem = s.mem
    let plain := s.failures = [] ∧ s.corrected = [] ∧ (∀ e ∈ s.funcs, e.2.asked = none) ∧ (∀ u ∈ s.reqq, u.key ∉ g.keys) ∧ (g.kcb.elastic = true ∨ (s.ctxRegs g.ctx.toNat).ingress = [])
    let quiet (s : State) : Prop := s.keysQuiet g.keys = true
    let allOver := g.saved = [] ∧ (∀ k ∈ g.keys, s.ctxOver g k = true) ∧ quiet s
    (g.fault = none → g.state = .running → ¬ allOver → exec (.gridRetire gid) s = .next s)
    ∧ (g.fault = none → g.state = .running → allOver → plain → ends 0 [])
    ∧ (g.fault = none → g.state = .running → allOver → s.failures = [] → s.corrected = [] → (∀ e ∈ s.funcs, e.2.asked = none) →
        (g.kcb.elastic = true ∨ (s.ctxRegs g.ctx.toNat).ingress = []) → (∀ u ∈ s.reqq, u.op = none ∧ u.key ∈ g.keys) →
        (s.reqq.map Store.seq).Pairwise (· < ·) → (∀ e ∈ s.allCtxs, e.2.outst = []) →
        ∃ t trig, exec (.gridRetire gid) s = .next (Claim.completes t g.queue g.ctx g.pkt (Claim.rec128 0 0 g.queue g.seq g.aovr trig []))
          ∧ t.mem = (s.reqq.foldl (fun u x => u.pwrite x.pa x.bytes) s).mem ∧ t.reqq = [] ∧ t.grids = s.grids.del gid
          ∧ ∀ k ∈ g.keys, t.ctx k = Ctx.ofKey k)
    ∧ ∀ f, g.fault = some f → (¬ (quiet s ∨ s.gridStill g.keys = true) → exec (.gridRetire gid) s = .next s)
        ∧ (quiet s ∨ s.gridStill g.keys = true → plain → ends 1 f)

/-- 02 R42, 24 R355 R356: a grid that must yield to a more urgent launch, whose function writes the pre-empt register for its context, or
whose function's slice of die-0 ticks has passed while another waits, is saved when nothing of it is under way; otherwise nothing changes.
That one event stops and saves the whole grid is the model's choice (assumption log 47). -/
def Sys2Proof.Claim.preemption : Prop :=
  ∀ (s : State) (gid : Nat) (g : Grid), s.grids.get? gid = some g → g.state = .running → g.kcb.elastic = false → g.keys.Nodup →
    Claim.atRest s g.keys →
    (s.saving g = false → s.mustYield gid = false → exec (.preempt gid) s = .next s)
    ∧ (s.saving g = true ∨ s.mustYield gid = true → ∃ t, exec (.preempt gid) s = .next t ∧ Claim.isSaved s t gid g)
    ∧ (∀ func : Nat, Claim.windowOpen s func → Claim.atDispatcher s func → func ≠ 0 → (s.ctxRegs g.ctx.toNat).func.toNat ≠ func → exec (.preemptRegister func g.ctx) s = .next s)
    ∧ (∀ func : Nat, ¬ Claim.lives s func ∨ ¬ Claim.atDispatcher s func → exec (.preemptRegister func g.ctx) s = .next s)
    ∧ (∀ func : Nat, Claim.windowOpen s func → Claim.atDispatcher s func → func = 0 ∨ (s.ctxRegs g.ctx.toNat).func.toNat = func → s.grids.filter (fun e => e.2.ctx == g.ctx) = [(gid, g)] →
        ∃ t, exec (.preemptRegister func g.ctx) s = .next t ∧ Claim.isSaved s t gid g)
    ∧ (∀ func : Nat, (s.func func).shared = false ∨ s.waitsFor func = false ∨ (s.func func).used < (s.func func).slice.toNat → exec (.sliceExpiry func) s = .next s)
    ∧ ((s.func g.func).shared = true → s.waitsFor g.func = true → (s.func g.func).slice.toNat ≤ (s.func g.func).used →
        s.grids.filter (fun e => e.2.func == g.func) = [(gid, g)] →
        ∃ t, exec (.sliceExpiry g.func) s = .next t ∧ Claim.isSaved s t gid g ∧ (t.func g.func).used = 0)

/-- 02 R42, 14 R284, 24 R356: a pre-empted timetabled grid that is resumable, of a level that no ready launch or other resumable grid
exceeds, goes on from where it was saved: its contexts hold what was saved, with their LTT loaded again, and wait for the release of the
resumption, which is an alignment point (14 R284; its messages are the model's choice, assumption log 47); otherwise nothing changes. -/
def Sys2Proof.Claim.resumption : Prop :=
  ∀ (s : State) (gid : Nat) (g : Grid), s.grids.get? gid = some g →
    let first := s.resumable g = true ∧ (∀ x ∈ s.ready, x.2.level ≤ Claim.fld g.pkt 0 11 3)
      ∧ ∀ x ∈ s.grids, s.resumable x.2 = true → Claim.fld x.2.pkt 0 11 3 ≤ Claim.fld g.pkt 0 11 3
    (¬ first → exec (.gridResume gid) s = .next s)
    ∧ (first → g.kcb.elastic = false → g.savedEng = [] → s.fabric = [] → s.members? [] g.func g.kcb.dies g.kcb.clus g.kcb.foot = some g.members →
        (g.members.flatMap Member.keys).Nodup → (g.saved.map Prod.fst).Nodup → (∀ e ∈ g.saved, e.1 ∈ g.members.flatMap Member.keys) →
        (∀ e ∈ g.saved, (e.2.run = .running → e.2.regs.h = Vector.replicate 8 none) ∧ ∀ h ∈ e.2.holds, ∀ i va b a p n, h ≠ .walk i va b a p n) →
        ∃ t g', exec (.gridResume gid) s = .next t ∧ t.grids.get? gid = some g' ∧ g'.state = .running ∧ g'.saved = []
          ∧ g'.members = g.members ∧ g'.keys = g.members.flatMap Member.keys
          ∧ g'.resume = some ([], []) ∧ g'.ptroot = (s.ctxRegs g.ctx.toNat).ptroot
          ∧ (∀ e ∈ g.saved, e.2.run = .running → Hold.resume ∈ (t.ctx e.1).holds)
          ∧ ∀ e ∈ g.saved, let c := t.ctx e.1
              (c.regs, c.sp, c.pc, c.next, c.run, c.flight, c.ls, c.loop, c.rf, c.grid) = (e.2.regs, e.2.sp, e.2.pc, e.2.next, e.2.run, e.2.flight, e.2.ls, e.2.loop, e.2.rf, e.2.grid))


/-! ### The host, firmware and the board (23, 25 R359 R362 R365 R367, 26, 27) -/

namespace Sys2Proof.Claim
open Machine

/-- A function's registers change. -/
def func (s : State) (n : Nat) (f : Func) : State := { s with funcs := s.funcs.set n f }

/-- A context's registers change. -/
def context (s : State) (n : Nat) (r : CtxRegs) : State := { s with ctxs := s.ctxs.set n r }

/-- A function owns a context; the PF acts at level H over every one (23 R335). -/
abbrev owned (s : State) (fn : Nat) (ctx : BitVec 8) : Prop := fn = 0 ∨ (s.ctxRegs ctx.toNat).func.toNat = fn

/-- Byte ranges meet. -/
abbrev meets (a n b m : Nat) : Prop := a < b + m ∧ b < a + n

/-- A byte of an HBM stack in service (23 R340, 27 R386). -/
def inStack (s : State) (a : Nat) : Prop := s.target a < 8 ∧ s.target a ∉ s.boot.badBases ∧ s.target a / 2 ∉ s.boot.badDies

/-- Verdict of a seal or log request: its region in bytes, and STATUS (23 R340). -/
def verdict (s : State) (f : Func) (fn : Nat) (free : Bool) (st : Nat) : Prop :=
  let ctx : BitVec 8 := f.seal0.truncate 8
  let a := f.seal1.toNat / 2 ^ 16 % 2 ^ 36 * 2 ^ 16
  let len := f.seal2.toNat % 2 ^ 21
  let ours := (s.ctxRegs ctx.toNat).alive = true ∧ owned s fn ctx
  let fits := 1 ≤ len ∧ len ≤ 2 ^ 20 ∧ a + len * 2 ^ 16 ≤ 2 ^ 52
    ∧ (∀ r ∈ s.pmap, 8 ≤ r.target → ¬ meets a (len * 2 ^ 16) r.base r.size)
    ∧ (∀ i, i < len → inStack s (a + i * 2 ^ 16) ∧ inStack s (a + i * 2 ^ 16 + (2 ^ 16 - 1)))
    ∧ (∀ e ∈ s.seals, ¬ meets a (len * 2 ^ 16) (e.2.base.toNat * 2 ^ 16) (e.2.len * 2 ^ 16))
    ∧ ∀ e ∈ s.logs, ¬ meets a (len * 2 ^ 16) (e.2.base.toNat * 2 ^ 16) (e.2.len * 2 ^ 16)
  (st = 3 ∧ ¬ ours) ∨ (st = 2 ∧ ours ∧ ¬ fits) ∨ (st = 1 ∧ ours ∧ fits ∧ free = false) ∨ (st = 0 ∧ ours ∧ fits ∧ free = true)

/-- A core entry and a cluster entry of the slot-to-engine map (25 R365). -/
def coreE (s : State) (c : Nat) : CoreMap := (s.coreMap.get? c).getD ⟨false, true, false⟩
def clusE (s : State) (cl : Nat) : ClusterMap := (s.clusterMap.get? cl).getD ⟨0, false, false⟩

/-- A core goes out of service; a spare that is free and usable serves it (25 R365). -/
def coreOut (s : State) (c : Nat) : State :=
  let m := clusE s (c / 16)
  { s with
    coreMap := s.coreMap.set c { coreE s c with out := true }
    clusterMap := if m.inuse = false ∧ m.spbad = false then s.clusterMap.set (c / 16) ⟨Fin.ofNat 16 c, true, false⟩ else s.clusterMap }

/-- Bits of a report's map. -/
def mapOf (n : Nat) (f : Nat → Prop) (bs : List Byte) : Prop := bs.length = n / 8 ∧ ∀ i, i < n → ((leNat bs).testBit i = true ↔ f i)

/-- The signed bytes of a report (27 R385). -/
def isReport (s : State) (fn : Nat) (b : List Byte) : Prop :=
  let ss := s.seals.filter fun e => e.2.live && (s.ctxRegs e.2.ctx.toNat).func.toNat == fn
  let outs (cl : Nat) : Nat := (List.range 16).countP fun i => (coreE s (16 * cl + i)).out
  ∃ out spare split : List Byte,
    mapOf 64 (fun cl => 2 ≤ outs cl ∨ (outs cl = 1 ∧ (clusE s cl).spbad = true) ∨ cl ∈ s.boot.badClusters ∨ cl / 16 ∈ s.boot.badDies) out ∧ mapOf 64 (fun cl => (clusE s cl).inuse = true) spare
    ∧ mapOf 1024 (fun c => (coreE s c).out = false ∧ (coreE s c).v0u = (coreE s c).v1u) split
    ∧ b = bytesOfNat 2 1 ++ bytesOfNat 2 ss.length ++ bytesOfNat 4 (344 + 64 * ss.length) ++ s.boot.fwMeas
      ++ wordBytes (s.func fn).nonce ++ bytesOfNat 8 s.cohort.toNat ++ [0x03, BitVec.ofNat 8 fn] ++ List.replicate 6 0 ++ out ++ spare ++ split
      ++ ss.flatMap fun e => [BitVec.ofNat 8 e.1, e.2.ctx] ++ List.replicate 6 0 ++ bytesOfNat 8 (e.2.base.toNat + e.2.len * 2 ^ 36) ++ e.2.meas

/-- Bring-up after its first step: the step completed last, the one that failed, and the firmware that runs (27 R382 R386). -/
def boots (b : Boot) (step fail : Nat) (body : Option (List Byte)) : Prop :=
  let ok (i : FwImage) : Prop := sha384 i.key = b.vkh ∧ b.minVer.toNat ≤ i.version ∧ ecdsaVerifies i.key i.sig i.body = true
  let dead := 0 ∈ b.badDies ∧ 1 ∈ b.badDies
  (b.fusesOk = false ∧ step = 1 ∧ fail = 2 ∧ body = none)
  ∨ (b.fusesOk = true ∧ (∀ i ∈ b.images.take 2, ¬ ok i) ∧ step = 2 ∧ fail = 3 ∧ body = none)
  ∨ (b.fusesOk = true ∧ ∃ l i r, b.images.take 2 = l ++ i :: r ∧ (∀ x ∈ l, ¬ ok x) ∧ ok i ∧ body = some i.body
      ∧ ((dead ∧ step = 5 ∧ fail = 6) ∨ (¬ dead ∧ b.alignOk = false ∧ step = 6 ∧ fail = 7)
        ∨ (¬ dead ∧ b.alignOk = true ∧ step = 8 ∧ fail = 0)))

/-- Physical bytes that a template's valid entries reach. -/
def reaches (t : Vector (Word64 × Word64) 64) (pa n : Nat) : Prop :=
  ∃ e ∈ t.toList, e.1.toNat % 2 = 1 ∧ meets pa n (e.2.toNat / 2 ^ 21 % 2 ^ 31 * 2 ^ 21) (e.1.toNat / 2 ^ 48 * 2 ^ 21)

/-- A physical address of a die's LS network names a byte of the footprint of a context on a core: a primary's from 0 on, a secondary's
up to 0xF_FFFF (06 R128; the model's choice, assumption log 3). -/
def inFootprint (s : State) (c : Ctx) (core pa : Nat) : Prop :=
  ∃ r, s.pmap.find? (fun r => decide (r.base ≤ pa) && decide (pa < r.base + r.size)) = some r ∧ 8 ≤ r.target ∧ r.target ≤ 11
    ∧ core = 256 * (r.target - 8) + (pa - r.base) / 2 ^ 20
    ∧ let b := (pa - r.base) % 2 ^ 20
      let base := if c.second = true then 2 ^ 20 - c.foot else 0
      base ≤ b ∧ b < base + c.foot

/-- The context, resident or saved, whose LS footprint a host write of a context id names is a timetabled grid's: residents before saved,
primary before secondary. -/
def footprintWaits (s : State) (ctx : BitVec 8) (pa : Nat) : Prop :=
  ∃ core, ((∃ k, (k = 2 * core ∨ k = 2 * core + 1) ∧ inFootprint s (s.ctx k) core pa ∧ (s.ctx k).grid ≠ none ∧ (s.ctx k).ctxId = ctx
      ∧ (s.ctx k).elastic = false
      ∧ (k = 2 * core ∨ ¬ (inFootprint s (s.ctx (2 * core)) core pa ∧ (s.ctx (2 * core)).grid ≠ none ∧ (s.ctx (2 * core)).ctxId = ctx)))
    ∨ ((∀ k, k = 2 * core ∨ k = 2 * core + 1 → ¬ (inFootprint s (s.ctx k) core pa ∧ (s.ctx k).grid ≠ none ∧ (s.ctx k).ctxId = ctx))
      ∧ ∃ l e r k c, s.grids = l ++ e :: r ∧ e.2.ctx = ctx ∧ (k = 2 * core ∨ k = 2 * core + 1) ∧ e.2.saved.get? k = some c
        ∧ inFootprint s c core pa ∧ (s.lsCtx ⟨k, some e.1⟩).elastic = false
        ∧ (k = 2 * core ∨ ∀ d, e.2.saved.get? (2 * core) = some d → ¬ inFootprint s d core pa)
        ∧ ∀ x ∈ l, x.2.ctx = ctx → ∀ j d, j = 2 * core ∨ j = 2 * core + 1 → x.2.saved.get? j = some d → ¬ inFootprint s d core pa))

/-- A timetabled grid of the context that has not retired reaches the bytes of a host write, through its template or as the footprint of
its LS (13 R280). -/
def awaitsWindow (s : State) (ctx : BitVec 8) (pa n : Nat) : Prop :=
  footprintWaits s ctx pa
  ∨ ∃ e ∈ s.grids, e.2.ctx = ctx ∧ e.2.kcb.elastic = false
    ∧ ∃ o t, s.codes.get? e.2.code = some o ∧ o.ltts[e.2.kcb.lttx]? = some t ∧ reaches t pa n

/-- The port, and a port that changes. -/
def portOf (s : State) (p : Nat) : Port := (s.ports.get? p).getD ⟨[], 0, [], [], none, false, false⟩
def setPort (s : State) (p : Nat) (x : Port) : State := { s with ports := s.ports.set p x }

/-- The map as F rewrites it after a unit has failed (25 R365). -/
def remapped (s : State) (u : FailedUnit) : State :=
  match u with
  | .vUnit c unit =>
    let m := coreE s c
    if m.v0u = m.v1u then (if m.v0u = unit then coreOut s c else s)
    else { s with coreMap := s.coreMap.set c { m with v0u := !unit, v1u := !unit } }
  | .core c => coreOut s c
  | .spare cl => { s with clusterMap := s.clusterMap.set cl { clusE s cl with spbad := true } }

/-- The number of the master that firmware's accesses name: its standby's once that has taken over (23 R337, 01 R10). -/
def firmwareId (s : State) : Nat := if StandbyUnit.management ∈ s.standby then 0x8C1 else 0x8C0

/-- A cluster holds a context. -/
def held (s : State) (cl : Nat) : Prop := ∃ e ∈ s.allCtxs, e.2.kind = .compute ∧ e.2.cluster = cl ∧ e.2.grid ≠ none

/-- What a spare row would replace is in use: HBM by a running kiosk of its die, an LS, a circuit store or a word memory by a context of
its cluster, a kiosk store by a running kiosk of its die (27 R379; the numbering is the model's choice, assumption log 44). -/
def rowHeld (s : State) (a : Nat) : Prop :=
  let kiosk (b : Nat) : Prop := ∃ e ∈ s.allCtxs, e.2.kind = .kiosk ∧ e.2.run = .running ∧ e.2.gid / 16 = b
  if a < 2 ^ 52 then kiosk (s.target a)
  else if a < 2 ^ 53 then held s ((a - 2 ^ 52) / 2 ^ 24)
  else if a < 2 ^ 54 then held s ((a - 2 ^ 53) / 2 ^ 22)
  else if a < 2 ^ 55 then held s ((a - 2 ^ 54) / 2 ^ 19)
  else kiosk ((a - 2 ^ 55) / 2 ^ 21)

/-- An access of a context of the function over the host link. -/
def overLink (s : State) (fn : Nat) (ctx : BitVec 8) (pa : Nat) : Prop := (s.ctxRegs ctx.toNat).func.toNat = fn ∧ s.target pa = 0x0C

end Sys2Proof.Claim

/-- 23 R334 R338 R342 R343: a context is created for its function, which exists, while its id is free; it is destroyed when nothing of it is
left, no grid, kiosk program, launch or enabled queue: its seals and logs are released, its counters cleared and its code objects gone. A write of ATDATA sets the defined bits of
the entry that ATSEL selects. -/
def Sys2Proof.Claim.contexts : Prop :=
  ∀ (func : Nat) (ctx : BitVec 8) (w : Word64) (s : State),
    let r := s.ctxRegs ctx.toNat
    let inUse := (∃ e ∈ s.grids, e.2.ctx = ctx) ∨ (∃ e ∈ s.queues, e.2.ctx = ctx ∧ (e.2.en = true ∨ e.2.waiting ≠ []))
      ∨ ∃ e ∈ s.allCtxs, e.2.kind = .kiosk ∧ e.2.run = .running ∧ e.2.ctxId = ctx
    let zero : CtxRegs := ⟨none, 0, 0, 0, false, Vector.replicate 64 0, Vector.replicate 64 0, []⟩
    exec (.contextCreate func ctx) s
      = .next (if r.alive = true ∨ ¬ Claim.lives s func then s else Claim.context s ctx.toNat { zero with func := BitVec.ofNat 8 func, alive := true })
    ∧ ((r.alive = false ∨ ¬ Claim.owned s func ctx ∨ inUse) → exec (.contextDestroy func ctx) s = .next s)
    ∧ (r.alive = true → Claim.owned s func ctx → ¬ inUse → exec (.contextDestroy func ctx) s = .next { Claim.context s ctx.toNat zero with
        seals := s.seals.filter fun e => e.2.ctx != ctx
        logs := s.logs.filter fun e => e.2.ctx != ctx
        codes := s.codes.filter fun e => e.2.ctx != ctx })
    ∧ exec (.atdataWrite w) s = .next { s with
        access := s.access.set (s.atsel.toNat % 2 ^ 8 * 4096 + s.atsel.toNat / 2 ^ 8) (BitVec.ofNat 32 w.toNat &&& 0x0000FF1F) }

/-- 23 R340 R341 R343: a request under way is checked and answered with its STATUS and BUSY 0. A seal takes the lowest register that is
not taken: its range is installed at once, and once no host write into it waits and every write admitted before has performed, the region
is measured and LIVE set; one that cannot be read is a bad range. A log starts at zero. Without BUSY or with the other KIND nothing
changes. The order of the checks, what a wait leaves, and an unreadable region are the model's choice (assumption log 39). -/
def Sys2Proof.Claim.sealsAndLogs : Prop :=
  ∀ (func : Nat) (s : State),
    let f := s.func func
    let busy := f.seal3.toNat.testBit 16
    let kind := f.seal0.toNat.testBit 9
    let log := f.seal0.toNat / 2 ^ 16 % 2 ^ 6
    let ctx : BitVec 8 := f.seal0.truncate 8
    let base : BitVec 36 := BitVec.ofNat 36 (f.seal1.toNat / 2 ^ 16)
    let len := f.seal2.toNat % 2 ^ 21
    let done (s : State) (st i : Nat) : State := Claim.func s func { s.func func with seal3 := BitVec.ofNat 64 (st + i * 2 ^ 8) }
    let taken (i : Nat) : Prop := ∃ e ∈ s.seals, e.1 = i
    let new : Seal := ⟨false, ctx, base, len, List.replicate 48 0⟩
    let first (i : Nat) : Prop := (∀ e ∈ s.seals, e.2 ≠ new) ∧ i < 256 ∧ ¬ taken i ∧ (∀ j, j < i → taken j)
    let hits (a n : Nat) := Claim.meets a n (base.toNat * 2 ^ 16) (len * 2 ^ 16)
    let broken := ∃ l ∈ s.bad, base.toNat * 2 ^ 16 / 64 ≤ l ∧ 64 * l < base.toNat * 2 ^ 16 + len * 2 ^ 16
    let waits := ∃ e ∈ s.ctxs, ∃ w ∈ e.2.ingress, hits w.1 w.2.length
    let still := (∀ u ∈ s.reqq, ¬ hits u.pa u.bytes.length)
      ∧ ∀ e ∈ s.allCtxs, ∀ o ∈ e.2.outst, o.data = none → o.op.isAtomic = true → ∀ p ∈ o.op.parts, ¬ hits p.1 p.2.1
    ((busy = false ∨ kind = true) → exec (.sealRequest func) s = .next s)
    ∧ ((busy = false ∨ kind = false) → exec (.auditLogRequest func) s = .next s)
    ∧ (busy = true → ∀ st, st ≠ 0 →
        (kind = false → (∀ e ∈ s.seals, e.2 ≠ new) → ∀ free : Bool, (free = true ↔ ∃ i, i < 256 ∧ ¬ taken i) → Claim.verdict s f func free st →
          exec (.sealRequest func) s = .next (done s st 0))
        ∧ (kind = true → Claim.verdict s f func (s.logs.get? log).isNone st → exec (.auditLogRequest func) s = .next (done s st 0)))
    ∧ (busy = true → kind = false → ∀ i, first i → Claim.verdict s f func true 0 →
        (waits → exec (.sealRequest func) s = .next { s with seals := s.seals.set i new })
        ∧ (¬ waits → broken → exec (.sealRequest func) s = .next (done s 2 0)))
    ∧ (busy = true → kind = false → ∀ l i r, s.seals = l ++ (i, new) :: r → (∀ e ∈ l ++ r, e.2 ≠ new ∧ e.1 ≠ i) →
        (waits → exec (.sealRequest func) s = .next s)
        ∧ (¬ waits → broken → exec (.sealRequest func) s = .next (done { s with seals := l ++ r } 2 0))
        ∧ (¬ waits → ¬ broken → still → exec (.sealRequest func) s = .next (done { s with
            seals := s.seals.set i { new with live := true, meas := sha384 (s.pread (base.toNat * 2 ^ 16) (len * 2 ^ 16)) } } 0 i)))
    ∧ (busy = true → ¬ waits → ¬ broken → kind = false → ∀ i, first i → Claim.verdict s f func true 0 →
        let entry (s : State) : Seal := ⟨true, ctx, base, len, sha384 (s.pread (base.toNat * 2 ^ 16) (len * 2 ^ 16))⟩
        (still → exec (.sealRequest func) s = .next (done { s with seals := s.seals.set i (entry s) } 0 i))
        ∧ ((s.reqq.map Store.seq ++ s.allCtxs.flatMap fun e => e.2.outst.map Outst.seq).Nodup → (s.allCtxs.map Prod.fst).Nodup →
          ∃ t, exec (.sealRequest func) s = .next t
          ∧ (∀ u ∈ t.reqq, u ∈ s.reqq ∧ ¬ hits u.pa u.bytes.length)
          ∧ (∀ k, ∀ o ∈ (t.ctx k).outst, o.data = none → o.op.isAtomic = true → ∀ p ∈ o.op.parts, ¬ hits p.1 p.2.1)
          ∧ t.seals = s.seals.set i (entry t)
          ∧ (t.func func).seal3 = BitVec.ofNat 64 (i * 2 ^ 8)))
    ∧ (busy = true → kind = true → Claim.verdict s f func (s.logs.get? log).isNone 0 →
        exec (.auditLogRequest func) s = .next (done { s with logs := s.logs.set log ⟨ctx, base, len, 0, 0, List.replicate 48 0⟩ } 0 0))

/-- 25 R359 R362: a read of TWPOP takes the oldest entry that was not popped and returns it; TWDONE of a tag that no entry has is
ignored, and another frees the entry and restarts the walk that waits on it, or ends its grid with reason 9. LTTPATCH replaces PABASE of
one entry of a template whose object no grid runs. -/
def Sys2Proof.Claim.translationWaits : Prop :=
  ∀ (fn : Nat) (w w1 : Word64) (s : State),
    let f := s.func fn
    let tag := w.toNat % 2 ^ 6
    ((∀ t ∈ f.twaits, t.popped = true) → exec (.twpop fn) s = .next (Claim.func s fn { f with readOut := 0 }))
    ∧ (∀ l r t, f.twaits = l ++ t :: r → (∀ x ∈ l, x.popped = true) → t.popped = false → (f.twaits.map TWait.tag).Nodup →
        exec (.twpop fn) s = .next (Claim.func s fn { f with
          twaits := l ++ { t with popped := true } :: r
          readOut := BitVec.ofNat 64 (1 + t.ctx.toNat * 2 ^ 8 + t.buf.val * 2 ^ 16 + t.tag * 2 ^ 32)
          twVa := BitVec.ofNat 64 (t.va * 2 ^ 12) }))
    ∧ (Claim.windowOpen s fn → (∀ t ∈ f.twaits, t.tag ≠ tag) → exec (.twdone fn w) s = .next s)
    ∧ (∀ t gid g h va buf addr pos seq holds, Claim.windowOpen s fn → f.twaits.find? (fun x => x.tag == tag) = some t → t.keys = [(gid, s.focus)] → s.grids.get? gid = some g →
        g.state = .running → g.saved = [] → s.cur.grid = some gid → s.cur.kind = .compute → s.cur.holds = .walk h va buf addr pos seq :: holds →
        va.toNat / 2 ^ 12 % 2 ^ 36 = t.va → (∀ h va b a p n, .walk h va b a p n ∉ holds) →
        (∀ e ∈ s.others, ∀ h va b a p n, .walk h va b a p n ∉ e.2.holds) →
        let u := Claim.func s fn { f with twaits := f.twaits.filter fun x => x.tag != tag }
        (w.toNat.testBit 8 = false → ∀ x, u.walk (some s.cur.master) s.cur.ctxId g.ptroot va buf = .handle x →
          exec (.twdone fn w) s = .next (Claim.cur u fun c => { c with holds := holds, regs := { c.regs with h := c.regs.h.set h (some x) } }))
        ∧ (w.toNat.testBit 8 = true → ∃ t, exec (.twdone fn w) s = .next t ∧ t.grids = s.grids.set gid { g with
            state := .faulted, fault := some (faultRecord s.cur g ⟨5, (match pos with | some p => BitVec.twoPow 8 p.val | none => 0), addr, va, 9⟩) }))
    ∧ (Claim.windowOpen s fn → let u := Claim.func s fn { f with ltt0 := w &&& 0xFFFFFFFF000FFFFF, ltt1 := w1 &&& 0x000FFFFFFFE00000 }
      let st (s : State) (n : Nat) : State := Claim.func s fn { s.func fn with lttSt := n }
      let ctx : BitVec 8 := w.truncate 8
      let i := w.toNat / 2 ^ 14 % 2 ^ 6
      let code := w.toNat / 2 ^ 32
      let x := w.toNat / 2 ^ 8 % 2 ^ 6
      let names (c : CodeObj) (t : Vector (Word64 × Word64) 64) : Prop :=
        s.codes.get? code = some c ∧ c.ltts[x]? = some t ∧ i ≠ 0 ∧ c.ctx = ctx ∧ Claim.owned s fn ctx
      let runs := ∃ e ∈ s.grids, e.2.code = code ∧ e.2.state ≠ .preempted
      (w.toNat.testBit 20 = false → exec (.lttpatch fn w w1) s = .next u)
      ∧ (w.toNat.testBit 20 = true → (∀ c t, ¬ names c t) → exec (.lttpatch fn w w1) s = .next (st u 2))
      ∧ (w.toNat.testBit 20 = true → ∀ c t, names c t →
          (runs → exec (.lttpatch fn w w1) s = .next (st u 1))
          ∧ (¬ runs → exec (.lttpatch fn w w1) s = .next (st { u with codes := s.codes.set code { c with
              ltts := c.ltts.set x (t.set (Fin.ofNat 64 i) ((t.get (Fin.ofNat 64 i)).1, w1 &&& 0x000FFFFFFFE00000)) } } 0))))

/-- 26 R369 R370, 27 R379 R380 R383 R384 R385: a report that is asked for is written with its signature, ECDSA on the identity key, and the
certificate behind it where ADDR says, and BUSY falls; over a dead link STATUS is 1. The nonce is free and the certificate's place the
model's choice (assumption log 6), as are the event that toggles the link, the record with code 14 and detail 0, and the numbers of rows
(log 44). A bit of IMASK that rises over its cause writes the interrupt at once. A read of the error counts returns and
clears them; a correction counts, and the sixteenth of a word of HBM, an LS or a circuit store replaces its row once nothing holds it.
When the link begins to retrain, what the function has asked over it completes with error; when it has retrained, it serves again. -/
def Sys2Proof.Claim.hostServices : Prop :=
  ∀ (fn addr : Nat) (w : Word64) (s : State),
    let f := s.func fn
    (f.att0.toNat.testBit 1 = false → exec (.attestationRequest fn) s = .next s)
    ∧ (f.att0.toNat.testBit 1 = true → f.linkErr = true ∨ s.admits 0x0C (Claim.firmwareId s) 1 none = false → exec (.attestationRequest fn) s = .next (Claim.func s fn { f with att0 := 1 * 2 ^ 2 }))
    ∧ (f.att0.toNat.testBit 1 = true → f.linkErr = false → s.admits 0x0C (Claim.firmwareId s) 1 none = true → s.boot.fwMeas.length = 48 →
        f.nonce.length = 4 → ∃ b sig, Claim.isReport s fn b ∧ sig.length = 96 ∧ sig = ecdsaSign s.boot.secret s.freeCount b ∧
        exec (.attestationRequest fn) s = .next (Claim.func { s with
          hostMem := s.hostMem.writeN (f.att1.toNat / 2 ^ 6 % 2 ^ 42 * 2 ^ 6) (b ++ sig ++ Config.certificate s.boot.secret)
          freeCount := s.freeCount + 1 } fn { f with att0 := 0 }))
    ∧ (Claim.windowOpen s fn → let m : BitVec 3 := w.truncate 3
      let u := Claim.func s fn { f with imask := m }
      exec (.interruptMaskWrite fn w) s = .next (if ∃ i : Fin 3, m.getLsbD i.val = true ∧ f.imask.getLsbD i.val = false ∧ f.cause.getLsbD i.val = true then
        { u with hostMem := s.hostMem.writeN f.iaddr.toNat (bytesOfNat 4 f.idata.toNat) } else u))
    ∧ exec .errorCountRead s = .next { Claim.func s 0 { s.func 0 with readOut := BitVec.ofNat 64 (s.cecnt.toNat + s.uecnt.toNat * 2 ^ 32) } with
        cecnt := 0, uecnt := 0 }
    ∧ (f.linkErr = true → exec (.hostLinkRetrain fn) s = .next (Claim.func s fn { f with linkErr := false }))
    ∧ (let u := Claim.func s fn { f with linkErr := true, att0 := if f.att0.toNat.testBit 1 then 1 * 2 ^ 2 else f.att0 }
      f.linkErr = false → (∀ x ∈ s.reqq, ¬ Claim.overLink s fn x.ctx x.pa) →
      ((∀ e ∈ s.allCtxs, ∀ o ∈ e.2.outst, o.data = none → ∀ p ∈ o.op.parts, ¬ Claim.overLink s fn e.2.ctxId p.1) →
        exec (.hostLinkRetrain fn) s = .next u)
      ∧ (∀ o p l, (∀ e ∈ s.others, e.2.outst = []) → s.cur.outst = [o] → o.data = none → o.op.parts = p :: l →
          Claim.overLink s fn s.cur.ctxId p.1 → exec (.hostLinkRetrain fn) s = .next
            (State.takeFault (Claim.cur u fun c => { c with outst := [] })
              ⟨14, BitVec.twoPow 8 o.pos.val, o.addr, BitVec.ofNat 64 p.1, 0⟩)))
    ∧ (let a := addr / 8 * 8
      let n := min 16 ((s.corrected.get? a).getD 0 + 1)
      let u := { s with cecnt := if s.cecnt = 0xFFFFFFFF then s.cecnt else s.cecnt + 1 }
      (∀ e ∈ s.corrected, e.1 = a ∨ e.2 < 16 ∨ Claim.rowHeld s e.1) →
      (n < 16 → exec (.spareRowReplace addr) s = .next { u with corrected := s.corrected.set a n })
      ∧ (16 ≤ n → ¬ Claim.rowHeld s a → exec (.spareRowReplace addr) s
          = .next { u with corrected := (s.corrected.set a 16).filter (fun e => decide (e.1 ≠ a)), bad := s.bad.filter fun l => decide (l ≠ a / 64) })
      ∧ (16 ≤ n → Claim.rowHeld s a → exec (.spareRowReplace addr) s = .next { u with corrected := s.corrected.set a 16 }))

/-- 25 R365 R367, 26 R373 R374, 27 R387, 01 R10: a flit that failed is sent again, and one that fails eight retransmissions makes its port
train; a port that cannot sends no more: which is so is a free value (the model's choice, assumption log 44). A standby takes over: that of
the management core starts the firmware anew, and nothing else changes (log 58). A failed unit that is in service ends the grids that use
it, with a record whose core's mask and address are 0 and whose register is free (log 6 and 44); the failure is recorded, and once its
cluster holds no context its map entries change. Throttle steps and stops change only the die's clock. -/
def Sys2Proof.Claim.unitsAndClocks : Prop :=
  ∀ s : State,
    (∀ p : Nat,
      let x := Claim.portOf s p
      (x.last = none → exec (.flitRetransmit p) s = .next (Claim.setPort s p x))
      ∧ (∀ f, x.last = some f → exec (.flitRetransmit p) s = .next (Claim.setPort s p { x with
          last := none, again := x.again ++ [{ f with fails := f.fails + 1 }], training := x.training || decide (8 ≤ f.fails) }))
      ∧ (x.training = false → exec (.portRetrain p) s = .next s)
      ∧ (x.training = true → let d := { s with freeCount := s.freeCount + 1 }
        (Config.retrains s.freeCount = false → exec (.portRetrain p) s = .next (Claim.setPort d p { x with training := false, failed := true }))
        ∧ (Config.retrains s.freeCount = true → exec (.portRetrain p) s = .next (Claim.setPort d p { x with
          training := false, again := x.again.map fun f => { f with fails := 0 } }))))
    ∧ (∀ u : StandbyUnit,
      let d := { s with standby := s.standby ++ [u] }
      let ok (i : FwImage) : Prop := sha384 i.key = s.boot.vkh ∧ s.boot.minVer.toNat ≤ i.version ∧ ecdsaVerifies i.key i.sig i.body = true
      (u ∈ s.standby → exec (.standbyTakeover u) s = .next s)
      ∧ (u ∉ s.standby → u ≠ .management ∨ s.boot.fusesOk = false ∨ (∀ i ∈ s.boot.images.take 2, ¬ ok i) → exec (.standbyTakeover u) s = .next d)
      ∧ (u ∉ s.standby → u = .management → s.boot.fusesOk = true → ∀ l i r, s.boot.images.take 2 = l ++ i :: r → (∀ x ∈ l, ¬ ok x) → ok i →
        ∃ t, exec (.standbyTakeover u) s = .next t ∧ t.standby = d.standby ∧ t.grids = s.grids ∧ t.mem = s.mem
          ∧ ∀ k, t.ctx k = if k = 2177 then { Ctx.ofKey 2177 with run := .running, ls := Memory.writeN [] 0 i.body }
            else if k = 2176 then Ctx.ofKey 2176 else s.ctx k))
    ∧ (s.failures = [] → ∀ u : FailedUnit,
      let cl := match u with | .vUnit c _ => c / 16 | .core c => c / 16 | .spare cl => cl
      let d := { s with freeCount := s.freeCount + 1 }
      (¬ Claim.held s cl → (∀ c, (u = .core c ∨ ∃ b, u = .vUnit c b) → (s.ctx (2 * c)).grid = none ∧ (s.ctx (2 * c + 1)).grid = none) →
        u ≠ .spare cl → exec (.unitFailure u) s = .next (Claim.remapped d u))
      ∧ (¬ Claim.held s cl → u = .spare cl → ((Claim.clusE s cl).inuse = true → ∀ i, i < 2 →
          (s.ctx (2 * (16 * cl + (Claim.clusE s cl).repl.val) + i)).grid = none) → exec (.unitFailure u) s = .next (Claim.remapped d u))
      ∧ (Claim.held s cl → ∀ c, (u = .core c ∨ ∃ b, u = .vUnit c b) →
          ((s.ctx (2 * c)).grid = none → (s.ctx (2 * c + 1)).grid = none → exec (.unitFailure u) s = .next { d with failures := [u] })
          ∧ ((Claim.coreE s c).out = true ∨ (∃ b, u = .vUnit c b ∧ (Claim.coreE s c).v0u ≠ b ∧ (Claim.coreE s c).v1u ≠ b) →
            exec (.unitFailure u) s = .next { d with failures := [u] })
          ∧ ((Claim.coreE s c).out = false → (∀ b, u = .vUnit c b → (Claim.coreE s c).v0u = b ∨ (Claim.coreE s c).v1u = b) →
            s.focus = 2 * c → s.cur.kind = .compute → s.cur.cluster = cl → s.cur.grid ≠ none → (s.ctx (2 * c + 1)).grid = none → ∃ reg : Word64,
            exec (.unitFailure u) s = .next { d.takeFault ⟨15, 0, 0, reg, 0⟩ with failures := [u] })))
    ∧ ∀ (d : Fin 4) (n : Fin 16),
        let set (f : Die → Die) : State := { s with dies := s.dies.set d (f (s.dies.get d)) }
        exec (.throttleSet d.val n) s = .next (set fun x => { x with throttle := n })
        ∧ exec (.thermalStop d.val) s = .next (set fun x => { x with stopped := true })
        ∧ exec (.dieCooled d.val) s = .next (set fun x => { x with stopped := false })

/-- 27 R381 R382 R386: device reset gives every register its reset value and runs bring-up, whose step and failure follow from the fuses,
the first acceptable image, and the training of links and dies; the firmware runs on the management core, or on its standby where die 0 or
the boot ROM fails, a port that cannot train or whose die is out is out, step 4 maps the recorded failures, and step 7 gives the cohort
id. What survives is memory with its errors, the physical map, the slot-to-engine map, the standby units that serve, fuses and flash:
that is the model's reading (assumption log 4), as are the firmware at byte 0 of contexts 2176 and 2177 and the outcomes of steps 5 and 6
(log 58). -/
def Sys2Proof.Claim.deviceReset : Prop :=
  ∀ (s : State) (step fail : Nat) (body : Option (List Byte)), Claim.boots s.boot step fail body →
    let lost := (if 0 ∈ s.boot.badDies then [StandbyUnit.arbiter, .dispatcher, .management] else if s.boot.romOk = true then [] else [.management]).filter
      fun u => decide (u ∉ s.standby)
    let standby := s.standby ++ lost
    let key := if StandbyUnit.management ∈ standby then 2177 else 2176
    let out := s.boot.badPorts ++ s.boot.badDies.flatMap fun d => (List.range 12).map fun i => i + 12 * d
    let base : State := { State.reset with
      turns := s.turns, mem := s.mem, hostMem := s.hostMem, bad := s.bad, pmap := s.pmap, coreMap := s.coreMap, clusterMap := s.clusterMap
      failures := s.failures, standby := standby, freeCount := s.freeCount
      cohort := if 7 ≤ step then s.boot.cohortId else s.cohort
      ports := if 6 ≤ step then out.foldl (fun t p => t.set p ⟨[], 0, [], [], none, true, false⟩) State.reset.ports else State.reset.ports
      others := match body with
        | some b => (State.reset.others.set (4353 - key) (Ctx.ofKey (4353 - key))).set key { Ctx.ofKey key with run := .running, ls := Memory.writeN [] 0 b }
        | none => State.reset.others
      boot := { s.boot with step := step, fail := fail, fwMeas := match body with | some b => sha384 b | none => [] } }
    exec .deviceReset s = .next (if 4 ≤ step then { s.failures.foldl Claim.remapped base with failures := [] } else base)

/-- 13 R280, 23 R333 R339, 26 R368: a host write in a context of another function does nothing. It acts line by line: a line that its target
does not admit does not perform; one that a timetabled grid of its context can reach waits in the context's ingress buffer of 64 lines;
another performs. With the buffer full the rest waits on the link, and a later write of the function waits behind it. -/
def Obligations.HostWrites : Prop :=
  ∀ (fn : Nat) (ctx : BitVec 8) (pa : Nat) (bs : List Byte) (s : State),
    let r := s.ctxRegs ctx.toNat
    let f := s.func fn
    let no := s.physFault (0x900 + fn) ctx 0 pa bs.length 1 ≠ none
    let later (ws : List HostWait) (t : State) : Out := .next (Claim.func t fn { t.func fn with waits := (t.func fn).waits ++ ws })
    (¬ Claim.owned s fn ctx → exec (.hostWrite fn ctx pa bs) s = .next s)
    ∧ (Claim.owned s fn ctx → f.waits ≠ [] → exec (.hostWrite fn ctx pa bs) s = later [.mem ctx pa bs] s)
    ∧ (Claim.owned s fn ctx → f.waits = [] →
      (bs ≠ [] → pa % 64 + bs.length ≤ 64 →
        (no → exec (.hostWrite fn ctx pa bs) s = .next s)
        ∧ (¬ no → Claim.awaitsWindow s ctx pa bs.length →
          (r.ingress.length < 64 → exec (.hostWrite fn ctx pa bs) s = .next (Claim.context s ctx.toNat { r with ingress := r.ingress ++ [(pa, bs)] }))
          ∧ (64 ≤ r.ingress.length → exec (.hostWrite fn ctx pa bs) s = later [.mem ctx pa bs] s))
        ∧ (¬ no → ¬ Claim.awaitsWindow s ctx pa bs.length → exec (.hostWrite fn ctx pa bs) s = .next (s.hostPerform ctx (pa, bs))))
      ∧ (64 < pa % 64 + bs.length → let k := 64 - pa % 64
        ∀ t, exec (.hostWrite fn ctx pa (bs.take k)) s = .next t →
          ((t.func fn).waits = [] → exec (.hostWrite fn ctx pa bs) s = exec (.hostWrite fn ctx (pa + k) (bs.drop k)) t)
          ∧ ((t.func fn).waits ≠ [] → exec (.hostWrite fn ctx pa bs) s = later [.mem ctx pa bs] s)))

/-- 23 R335, 24 R353: the PF sets a VF's weight and sharing, its clusters and its slice. Spatial partitions never share a cluster; a cluster
with a running grid of the VF is taken away only when the grid has been saved, and one whose grid has ended and not retired when it has
retired. A VF exists while its CLUSTERS is not 0 (the model's choice, assumption log 59). -/
def Sys2Proof.Claim.partitions : Prop :=
  ∀ (vf : Nat) (w : Word64) (s : State),
    let fn := vf + 1
    let f := s.func fn
    let meet (shared : Bool) (cls : Word64) : Prop := shared = false ∧ ∃ e ∈ s.funcs, e.1 ≠ fn ∧ e.2.shared = false ∧ (e.2.clusters ||| e.2.asked.getD 0) &&& cls ≠ 0
    let shared := w.toNat.testBit 16
    let n := w.toNat % 2 ^ 9
    vf < 128 →
    ((s.boot.step ≠ 8 ∨ ¬ Claim.atDispatcher s 0) → ∀ n, n < 3 → exec (.partitionChange vf n w) s = .next s)
    ∧ (Claim.windowOpen s 0 → Claim.atDispatcher s 0 →
    (meet shared (f.clusters ||| f.asked.getD 0) → exec (.partitionChange vf 0 w) s = .next s)
    ∧ (¬ meet shared (f.clusters ||| f.asked.getD 0) → exec (.partitionChange vf 0 w) s
        = .next (Claim.func s fn { f with weight := if 1 ≤ n ∧ n ≤ 256 then n else f.weight, shared := shared }))
    ∧ (meet f.shared w → exec (.partitionChange vf 1 w) s = .next s)
    ∧ (¬ meet f.shared w → (∀ e ∈ s.funcs, e.2.asked = none) →
        ((∀ e ∈ s.grids, e.2.func = fn → ∀ k ∈ e.2.keys, w.toNat.testBit (k / 32) = true) →
          exec (.partitionChange vf 1 w) s = .next (Claim.func s fn { f with clusters := w, asked := none, alive := w != 0 }))
        ∧ ((∃ e ∈ s.grids, e.2.func = fn ∧ ∃ k ∈ e.2.keys, w.toNat.testBit (k / 32) = false) →
          (∀ e ∈ s.grids, e.2.func = fn → (∃ k ∈ e.2.keys, w.toNat.testBit (k / 32) = false) → e.2.state ≠ .running) →
          exec (.partitionChange vf 1 w) s = .next (Claim.func s fn { f with asked := some w, alive := w != 0 })))
    ∧ (¬ meet f.shared w → ∀ gid g, s.grids = [(gid, g)] → g.func = fn → g.state = .running → g.kcb.elastic = false → g.keys.Nodup → Claim.atRest s g.keys →
        (∃ k ∈ g.keys, w.toNat.testBit (k / 32) = false) →
        ∃ t, exec (.partitionChange vf 1 w) s = .next t ∧ Claim.isSaved s t gid g ∧ (t.func fn).clusters = w)
    ∧ exec (.partitionChange vf 2 w) s = .next (Claim.func s fn { f with slice := BitVec.ofNat 32 w.toNat }))

/-- 00 R6, 23 R336 R338, 24 R344 R349, 25 R361 R365, 26 R370, 27 R386: a write of a function's window is ignored before bring-up has ended; after
it, each field takes the written bits under its access code, and a register with an instruction of its own has that effect. Firmware's
block selects and writes access entries; the slot-to-engine map changes while its cluster holds no context. A write that the table of
its target does not admit does not perform (23 R339), and one behind a write that waits on the link waits in order (26 R368). Which
registers an access table covers is the model's choice (assumption log 57), as are functions 129 and 130 (log 15) and which VFs exist (log 59). -/
def Sys2Proof.Claim.registerWrites : Prop :=
  ∀ (fn : Nat) (w : Word64) (s : State),
    let f := s.func fn
    let put (f : Func) : Out := .next (Claim.func s fn f)
    (∀ off, fn ≤ 128 → s.boot.step ≠ 8 ∨ ¬ Claim.lives s fn → exec (.registerWrite fn off w) s = .next s)
    ∧ (∀ off, fn ≤ 128 → s.boot.step = 8 → Claim.lives s fn → f.waits ≠ [] → (off < 0x200 ∨ 0x300 ≤ off ∧ off < 0x2000) →
        exec (.registerWrite fn off w) s = put { f with waits := f.waits ++ [.reg off w] })
    ∧ (fn ≤ 128 → s.admits 0x80 (0x900 + fn) 1 none = false → exec (.registerWrite fn 0x200 w) s = .next s
        ∧ ∀ off, 0x10000 ≤ off ∧ off < 0x10800 ∨ 0x2000 ≤ off ∧ off < 0x3000 → exec (.registerWrite fn off w) s = .next s)
    ∧ (fn ≤ 128 → s.admits 0x81 (0x900 + fn) 1 none = false → ∀ off, 0x20000 ≤ off → off < 0x40000 → exec (.registerWrite fn off w) s = .next s)
    ∧ (fn ≤ 128 → Claim.windowOpen s fn → s.admits 0x80 (0x900 + fn) 1 none = true →
        (∀ off, off < 0x100 → exec (.registerWrite fn off w) s = .next s)
        ∧ exec (.registerWrite fn 0x500 w) s = put { f with iaddr := BitVec.ofNat 48 w.toNat &&& 0xFFFFFFFFFFFC }
        ∧ exec (.registerWrite fn 0x508 w) s = put { f with idata := BitVec.ofNat 32 w.toNat }
        ∧ exec (.registerWrite fn 0x510 w) s = put { f with cause := f.cause &&& ~~~BitVec.ofNat 3 w.toNat }
        ∧ exec (.registerWrite fn 0x518 w) s = exec (.interruptMaskWrite fn w) s
        ∧ exec (.registerWrite fn 0x200 w) s = exec (.preemptRegister fn (BitVec.ofNat 8 w.toNat)) s
        ∧ exec (.registerWrite fn 0x310 w) s = exec (.twdone fn w) s
        ∧ (f.ltt1 &&& 0x000FFFFFFFE00000 = f.ltt1 → exec (.registerWrite fn 0x400 w) s = exec (.lttpatch fn w f.ltt1) s)
        ∧ (f.seal3.toNat.testBit 16 = false → w.toNat.testBit 8 = true →
            exec (.registerWrite fn 0x100 w) s = put { f with seal0 := w &&& 0x3F02FF, seal3 := 2 ^ 16 })
        ∧ (f.seal3.toNat.testBit 16 = true → exec (.registerWrite fn 0x100 w) s = put f)
        ∧ (f.att0.toNat.testBit 1 = false → w.toNat.testBit 0 = true → exec (.registerWrite fn 0x700 w) s = put { f with att0 := 2 })
        ∧ (∀ n, n < 1024 → exec (.registerWrite fn (0x40000 + 8 * n) w) s = put { f with ctrs := f.ctrs.set n w })
        ∧ (∀ c : Nat, c < 256 →
            let r := s.ctxRegs c
            (s.admits 0x81 (0x900 + fn) 1 none = true → exec (.registerWrite fn (0x20000 + 0x200 * c) w) s = .next (if Claim.owned s fn (BitVec.ofNat 8 c) then Claim.context s c { r with sguard := some (w.toNat.testBit 0) } else s)
            ∧ exec (.registerWrite fn (0x20000 + 0x200 * c + 8) w) s
              = .next (if Claim.owned s fn (BitVec.ofNat 8 c) then Claim.context s c { r with ptroot := BitVec.ofNat 40 (w.toNat / 2 ^ 12) } else s))
            ∧ ∀ n : Fin 64, exec (.registerWrite fn (0x100000 + 0x400 * c + 8 * n.val) w) s
                = .next (if Claim.owned s fn (BitVec.ofNat 8 c) then Claim.context s c { r with bytes := r.bytes.set n w } else s)
              ∧ exec (.registerWrite fn (0x100000 + 0x400 * c + 0x200 + 8 * n.val) w) s
                = .next (if Claim.owned s fn (BitVec.ofNat 8 c) then Claim.context s c { r with stalls := r.stalls.set n w } else s))
        ∧ ∀ l : Nat, fn ≠ 0 → l < 32 →
            let q := 32 * (fn - 1) + l
            exec (.registerWrite fn (0x10000 + 0x40 * l + 0x10) w) s = exec (.doorbell q (BitVec.ofNat 32 w.toNat)) s
            ∧ (w.toNat.testBit 2 = true → exec (.registerWrite fn (0x10000 + 0x40 * l + 0x20) w) s = exec (.queueReset q) s)
            ∧ ((s.queue q).en = false → exec (.registerWrite fn (0x10000 + 0x40 * l) w) s
                = .next (Claim.onQueue s q { s.queue q with base := BitVec.ofNat 48 w.toNat &&& 0xFFFFFFFFFFC0 })))
    ∧ exec (.registerWrite 129 0x1000 w) s = .next { s with atsel := BitVec.ofNat 20 w.toNat }
    ∧ exec (.registerWrite 129 0x1008 w) s = exec (.atdataWrite w) s
    ∧ ∀ c : Nat, c < 1024 →
        let holds := ∃ e ∈ s.allCtxs, e.2.kind = .compute ∧ e.2.cluster = c / 16 ∧ e.2.grid ≠ none
        (holds ∨ s.admits 0x83 (Claim.firmwareId s) 1 none = false → exec (.registerWrite 130 (8 * c) w) s = .next s)
        ∧ (¬ holds → s.admits 0x83 (Claim.firmwareId s) 1 none = true → exec (.registerWrite 130 (8 * c) w) s
          = .next { s with coreMap := s.coreMap.set c ⟨w.toNat.testBit 0, w.toNat.testBit 1, w.toNat.testBit 2⟩ })

/-- 16 R312 R313 R315 R318 R319 R323: an object whose header is wrong is load error 1, and one whose block breaks a limit load error 2; none
is loaded into a context that is not alive or not the function's. One with a text, one LTT template and one KCB takes a handle above every other; its text stands in memory where entry 0 maps
it, its KCB as its note gives it, and its text leaves the caches. An object that no grid uses leaves its context. The handles, the addresses of
the templates, the kept load error and the loader's accesses as the host's are the model's choice (assumption log 42). -/
def Obligations.CodeObjects : Prop :=
  ∀ (fn : Nat) (ctx : BitVec 8) (img : ElfImage) (s : State),
    let r := s.ctxRegs ctx.toNat
    let head := img.class64 = true ∧ img.lsb = true ∧ img.type_ = 3 ∧ img.machine = 0x5E86 ∧ img.flags = 0
    let result (t : State) (e : Nat) : State := Claim.func t fn { t.func fn with loadErr := e }
    ((r.alive = false ∨ ¬ Claim.owned s fn ctx ∨ ¬ Claim.lives s fn) → exec (.codeObjectLoad fn ctx img) s = .next s)
    ∧ (r.alive = true → Claim.owned s fn ctx → Claim.lives s fn → ¬ head → exec (.codeObjectLoad fn ctx img) s = .next (result s 1))
    ∧ (r.alive = true → Claim.owned s fn ctx → Claim.lives s fn → head → ∀ (va : Nat) (bs ltt : List Byte) (ws : List Word64) (pa : Word64),
        img.sections = [⟨.text, va, bs⟩, ⟨.ltt, 0, ltt⟩] → img.notes = [⟨"Ronxel", 1, ws⟩] → img.symbols = [] → img.relocs = [] → img.port = none →
        ltt = List.replicate 1024 0 → img.lttBase = pa :: List.replicate 63 0 → pa.toNat % 2 ^ 21 = 0 → pa.toNat < 2 ^ 52 →
        va % 2 ^ 21 = 0 → 0 < bs.length → va + bs.length ≤ 2 ^ 48 → bs.length < 2 ^ 36 → (∀ e ∈ s.codes, e.2.ctx ≠ ctx) →
        (∀ i, i < bs.length → s.target (pa.toNat + i) < 8 ∧ s.admits (s.target (pa.toNat + i)) (0x900 + r.func.toNat) 1 (some ctx) = true ∧ s.sealed (pa.toNat + i) 1 = none ∧ s.ctrFunc (pa.toNat + i) = none) →
        let f := Claim.fld ws
        let arg (j : Nat) : Prop := f (3 + j) 0 2 ≠ 0 ∧ f (3 + j) 2 1 = 1
        let good := ws.length = 9 ∧ f 0 0 8 = 1 ∧ f 0 16 6 = 0 ∧ f 0 32 10 ≤ 512 ∧ 1 ≤ f 1 0 21 ∧ f 1 0 21 ≤ 2 ^ 20 ∧ (f 0 8 1 = 0 → f 1 24 2 ≠ 3)
          ∧ (f 0 8 1 = 1 → 1 ≤ f 1 36 17 ∧ f 1 36 17 ≤ 65536) ∧ f 2 0 64 % 8 = 0 ∧ f 2 0 64 < bs.length
          ∧ (∀ j, j < 6 → (arg j → f (3 + j) 3 3 ≤ 5) ∧ (f (3 + j) 0 2 = 1 → ¬ arg j → f (3 + j) 32 32 ≤ 65535))
          ∧ ∀ i j, i < j → j < 6 → ¬ (f (3 + i) 0 2 = 2 ∧ f (3 + j) 0 2 = 1) ∧ ¬ (f (3 + i) 0 2 = 3 ∧ f (3 + j) 0 2 = 2)
        (¬ good → exec (.codeObjectLoad fn ctx img) s = .next (result s 2))
        ∧ (good → ∃ t h c k, exec (.codeObjectLoad fn ctx img) s = .next t ∧ t.codes = s.codes.set h c ∧ (t.func fn).loadErr = 0 ∧ (∀ e ∈ s.codes, e.1 < h) ∧ 0 < h
          ∧ c.ctx = ctx ∧ c.text = va ∧ c.textLen = bs.length ∧ c.ready = true ∧ c.kcbs = [k]
          ∧ (k.elastic, k.profA, k.lttx, k.foot, k.drain, k.dies, k.pkgs, k.clus, k.chunk, k.entry)
            = (f 0 8 1 == 1, f 0 9 1 == 0, 0, f 0 32 10 * 2048, f 1 0 21, 2 ^ f 1 24 2, f 1 26 6 + 1, f 1 32 4 + 1, f 1 36 17, f 2 0 64)
          ∧ (∀ j, j < 6 → k.levels[j]? = some (if f (3 + j) 0 2 = 0 then ⟨.unused, none, 1⟩
            else ⟨if f (3 + j) 0 2 = 1 then .temporal else if f (3 + j) 0 2 = 2 then .core else .die,
              if f (3 + j) 2 1 = 1 then some (Fin.ofNat 8 (f (3 + j) 3 3)) else none, if f (3 + j) 2 1 = 1 then 0 else f (3 + j) 32 32⟩))
          ∧ c.ltts = [(Vector.replicate 64 (0, 0)).set (0 : Fin 64)
            (BitVec.ofNat 64 (0b10011 + va + (bs.length + 2 ^ 21 - 1) / 2 ^ 21 * 2 ^ 48), pa)]
          ∧ t.pread pa.toNat bs.length = bs ∧ (∀ a, a < pa.toNat ∨ pa.toNat + bs.length ≤ a → t.mem.read a = s.mem.read a)
          ∧ ∀ key line x, ((t.icache.get? key).getD []).get? line = some x → line < va / 64 ∨ (va + bs.length - 1) / 64 < line))
    ∧ ∀ code : Nat,
        (s.codes.get? code = none → exec (.codeObjectUnload fn ctx code) s = .next s)
        ∧ ∀ c, s.codes.get? code = some c →
          let used := (∃ e ∈ s.grids, e.2.code = code) ∨ ∃ e ∈ s.queues, e.2.ctx = c.ctx ∧ ∃ l ∈ e.2.waiting, Claim.fld l.words 0 32 32 = code
          ((c.ctx ≠ ctx ∨ ¬ Claim.owned s fn ctx ∨ ¬ Claim.lives s fn ∨ used) → exec (.codeObjectUnload fn ctx code) s = .next s)
          ∧ (c.ctx = ctx → Claim.owned s fn ctx → Claim.lives s fn → ¬ used → (∀ e ∈ s.codes, e.2.ctx = ctx → e.1 = code) →
            exec (.codeObjectUnload fn ctx code) s = .next { s with codes := s.codes.del code })


/-! ### Steps, landing, faults, reset and invariants (00 R1, 02 R39 R40, 03 R57 to R63, 04, 05 R101, 25 R363) -/

namespace Sys2Proof.Claim
open Machine

/-- Magnitude that the bits of a non-negative value of a format stand for, as m × 2^e; the bits of infinity stand for the first power of
two that the format lacks (05 R99 R101). -/
def magOf (f : FFmt) (w : Nat) : Nat × Int :=
  let frac := w % 2 ^ (f.p - 1)
  let ex := w / 2 ^ (f.p - 1)
  let bias : Int := 2 ^ (f.eb - 1) - 1
  if ex = 0 then (frac, 2 - bias - f.p) else (frac + 2 ^ (f.p - 1), 1 - bias - f.p + ex)

/-- Twice one magnitude against the sum of two others. -/
def twice (x a b : Nat × Int) : Ordering :=
  let k := min x.2 (min a.2 b.2)
  compare (2 * (x.1 * 2 ^ (x.2 - k).toNat)) (a.1 * 2 ^ (a.2 - k).toNat + b.1 * 2 ^ (b.2 - k).toNat)

/-- A value between two neighbours of its format, rounded by a mode (05 R101). -/
def nearest (rm : Rm) (neg : Bool) (x : Nat × Int) (f : FFmt) (w : Nat) : Nat :=
  match rm with
  | .rtz => w
  | .rup => if neg then w else w + 1
  | .rdn => if neg then w + 1 else w
  | _ => match twice x (magOf f w) (magOf f (w + 1)) with
    | .lt => w
    | .gt => w + 1
    | .eq => if w % 2 = 0 then w else w + 1

/-- Nothing of the package goes on but the context in focus. -/
def alone (s : State) : Prop :=
  ∀ e ∈ s.others, e.2.run ≠ .running ∧ e.2.grid = none ∧ e.2.flight = [] ∧ e.2.outst = [] ∧ e.2.lsPend = []

/-- The context in focus, with nothing beside it, may issue the bundle of one syllable that stands at its pc: nothing holds it (02 R28,
03 R56 R61). -/
def issues (s : State) (w : Word64) : Prop :=
  s.turns = [] ∧ s.halted = false ∧ alone s ∧ s.cur.grid = none ∧ s.cur.run = .running ∧ s.cur.holds = [] ∧ s.cur.idle = 0
  ∧ s.cur.guard = false ∧ s.cur.heatDue = false ∧ s.cur.lsPend = [] ∧ s.cur.outst = [] ∧ s.cur.loop.nest = none
  ∧ s.clockStopped s.cur.die = false
  ∧ (s.cur.lBusy = 0 ∨ cls w.toNat ≠ 3) ∧ (∀ r ∈ s.cur.flight, r.compat = false)
  ∧ s.nextBundle = (⟨s.cur.pc, [w]⟩, none) ∧ bundleFault s.isKiosk s.cur.pc [w.toNat] = none

/-- That state as its die's tick begins. -/
def atTick (s : State) : State :=
  { s with
    trap := none
    lsReqs := s.lsReqs.filter fun r => decide (lsCore r.key / 256 ≠ s.cur.die)
    used := s.used.filter fun e => decide (e.1 / 256 ≠ s.cur.die) }

/-- The end of that tick, after the context's domain has had its own: the die's clock counts, and its elastic requests are granted. -/
def ticked (s t : State) : State :=
  let u := t.endTick s.cur.die
  (((u.grantDie s.cur.die u.elReqs.length).elWaits s.cur.die).focusOn s.focus).nextDie

/-- That state as the syllable executes in it. -/
def atIssue (s : State) : State :=
  { atTick s with
    issue := ⟨s.cur.pc, s.cur.pc + 8, 0, false⟩
    cur := { s.cur with next := s.cur.pc + 8 } }

/-- Code, mask, place and cause of a fault, as the record's words (25 R363). -/
def recordOf (c : Ctx) (g : Grid) (f : FaultWords) : List Word64 :=
  let crd (i : Fin 6) : Nat := (c.sp.crd.get i).toNat % 2 ^ 32
  let core := if f.code = 12 ∨ f.code = 16 then 0 else c.gid
  [BitVec.ofNat 64 (f.code + f.mask.toNat * 2 ^ 8 + (if c.second then 2 ^ 16 else 0) + core * 2 ^ 32 + c.ctxId.toNat * 2 ^ 48),
    BitVec.ofNat 64 (g.seq % 2 ^ 32 + g.queue * 2 ^ 32), f.addr &&& 0x0000FFFFFFFFFFF8,
    BitVec.ofNat 64 (crd 0 + crd 1 * 2 ^ 32), BitVec.ofNat 64 (crd 2 + crd 3 * 2 ^ 32), BitVec.ofNat 64 (crd 4 + crd 5 * 2 ^ 32), f.d0, f.d1]

/-- What is no syllable of a bundle: the events of the machine, and the back-edge of a loop (07 R159, 95). -/
def noSyllable (i : Instr) : Prop :=
  match i with
  | .loopBackEdge | .drainComplete .. | .waitaWake .. | .engineCommandStart .. | .copyComplete .. | .kreqMessageArrive ..
  | .collectiveComplete .. | .collectiveAbort .. | .csigComplete .. | .payloadLand .. | .cloadComplete ..
  | .circuitCommandRun .. | .cevalPassComplete .. | .circuitPageArrive .. | .treeNodeArrive .. | .heatTrapEntry ..
  | .kioskFault .. | .resultLand .. | .interlockedValueArrive .. | .icacheFill .. | .elasticLsGrant ..
  | .starvationGuardHold .. | .barrierPass .. | .barrierWatchdog .. | .pointReached .. | .packageReached ..
  | .strandStart .. | .earlyTrigger .. | .gridRetire .. | .gridFault .. | .doorbell .. | .queueReset .. | .packetFetch ..
  | .noopLaunch .. | .kernelLaunch .. | .kioskStart .. | .agingRaise .. | .preempt .. | .preemptRegister ..
  | .sliceExpiry .. | .gridResume .. | .twpop .. | .twdone .. | .lttpatch .. | .atdataWrite .. | .sealRequest ..
  | .auditLogRequest .. | .contextCreate .. | .contextDestroy .. | .attestationRequest .. | .errorCountRead
  | .interruptMaskWrite .. | .registerWrite .. | .hostWrite .. | .codeObjectLoad .. | .codeObjectUnload ..
  | .flitRetransmit .. | .portRetrain .. | .unitFailure .. | .spareRowReplace .. | .standbyTakeover .. | .deviceReset
  | .throttleSet .. | .thermalStop .. | .dieCooled .. | .hostLinkRetrain .. | .partitionChange .. => True
  | _ => False

end Sys2Proof.Claim

/-- A step at which an event comes next runs it on the state without that turn; one at which only the context in focus goes on and it may
issue the bundle of one syllable at its pc runs the decoded syllable: a fault is taken and nothing else, and otherwise the tick ends with
the schedule count and the die's clock one higher, the results landed, and issue going on after the syllable (02 R28 R40, 03 R56 R58,
04 R85, 14 R282). A device whose bring-up has failed does nothing but reset (27 R386). The list of turns and the order it gives are the
model's own (assumption log 5 and 16), and so is the halt after FAIL 2 or 3 (log 58). -/
def Obligations.StepRunsTheInstruction : Prop :=
  (∀ (i : Instr) (l : List Turn) (s : State), s.turns = .event i :: l →
    (s.halted = false → step s = exec i { s with turns := l })
    ∧ (s.halted = true → step s = if i = .deviceReset then exec i { s with turns := l } else .next { s with turns := l }))
  ∧ (∀ s : State, s.turns = [] → s.halted = true → step s = .next s)
  ∧ (∀ s : State, s.halted = true ↔ s.boot.fail = 2 ∨ s.boot.fail = 3)
  ∧ ∀ (s : State) (w : Word64) (i : Instr), Claim.issues s w → decodeSyl w.toNat none = .ok i →
      ∀ t, exec i (Claim.atIssue s) = .next t →
        (∀ f, t.trap = some f → step s = .next (Claim.ticked s ((State.takeFault (Claim.atTick s) f).endDomain [s.focus] true)))
        ∧ (t.trap = none → t.focus = s.focus → t.cur.holds = [] → t.inFlight ≤ 48 →
          (∀ r ∈ t.lsReqs.drop (Claim.atTick s).lsReqs.length, r.elastic = false) →
          (cls w.toNat = 0 ∨ t.cur.loop = s.cur.loop) →
          let u : State := { t with cur := t.cur.advance s.cur.loop }
          let x := State.starved (u.useSlots s.focus (Bundle.classes ⟨s.cur.pc, [w]⟩)) false s.focus
          step s = .next (Claim.ticked s (State.goTick (Claim.atTick s) x [s.focus]))
          ∧ (t.cur.lsPend = [] → t.cur.outst = [] → t.cur.grid = none → t.lsReqs.length ≤ 1 → t.engines = [] → t.elReqs = [] → Claim.alone t →
              (s.focus % 2 = 0 ∨ 2048 ≤ s.focus) → (∀ e ∈ t.funcs, e.2.waits = []) →
            ∃ v, step s = .next v ∧ v.focus = s.focus ∧ v.cur = (t.cur.advance s.cur.loop).count
              ∧ (v.dies.get (Fin.ofNat 4 s.cur.die)).tick = (t.dies.get (Fin.ofNat 4 s.cur.die)).tick + 1 ∧ v.mem = t.mem ∧ v.others = t.others))

/-- 03 R57: a syllable whose predicate bit 0 does not hold under its sense, where it does not act lane by lane, does nothing. MOVX and MOVS
of a reserved special, or by firmware of a privileged one that is not there, and BAR.d on a kiosk core, are illegal whatever their predicate holds (03 R53, 04 R71, 15 R298). -/
def Obligations.GuardedOff : Prop :=
  ∀ (i : Instr) (w : Nat) (x : Option Nat) (s : State), i.wf = true → encode i = some (w, x) → laneWise w = false →
    ¬ (cls w = 1 ∧ opc w = 0x49) →
    ¬ (cls w = 0 ∧ (opc w = 0x50 ∨ opc w = 0x51) ∧ (specialReserved s.isKiosk (w / 2 ^ 13 % 2 ^ 9) = true
      ∨ ((s.cur.kind = .management ∨ s.cur.kind = .standby) ∧ 0x104 < w / 2 ^ 13 % 2 ^ 9))) →
    ¬ (s.isKiosk = true ∧ ∃ g n, i = .bar g true n) → (Claim.acts s (guardOf w)).getLsbD 0 = false → exec i s = .next s

/-- 03 R54 R55 R58 R59 R60 R63: with each non-frozen tick a result comes one tick nearer; in the tick it lands its registers take their
values, its bypass shows it and its events are recorded, and the next tick clears the bypass. Of two that land together on one register
the later issued stands, and the earlier issued enters the log first. -/
def Obligations.Landing : Prop :=
  ∀ (c : Ctx) (r : Result),
    (c.flight = [] → c.count = { c with bp := Bypass.none, sp := { c.sp with scnt := c.sp.scnt + 1 }, lBusy := c.lBusy - 1 })
    ∧ (c.flight = [r] → 1 < r.rem → c.count
      = { c with flight := [{ r with rem := r.rem - 1 }], bp := Bypass.none, sp := { c.sp with scnt := c.sp.scnt + 1 }, lBusy := c.lBusy - 1 })
    ∧ (∀ (n : Fin 64) (v : Word64), c.flight = [r] → r.rem = 1 → r.writes = [.sreg n v] → n ≠ 0 → r.bp = some (.s v) → r.events = 0 → c.count
      = { c with flight := [], bp := { Bypass.none with s := some v }, regs := { c.regs with s := c.regs.s.set n v }, sp := { c.sp with scnt := c.sp.scnt + 1 }, lBusy := c.lBusy - 1 })
    ∧ (c.flight = [r] → r.rem = 1 → r.writes = [] → r.bp = none → r.events ≠ 0 →
        (c.count).sp = { c.sp with
          scnt := c.sp.scnt + 1
          fflags := c.sp.fflags ||| r.events
          fel := if c.sp.fel.toNat.testBit 63 then c.sp.fel else
            (r.addr &&& 0x0000FFFFFFFFFFF8) + BitVec.ofNat 64 (r.pos.val * 2 ^ 48 + ((List.range 9).findIdx (fun k => r.events.getLsbD k) + 1) * 2 ^ 52 + 2 ^ 63) })
    ∧ (∀ (a b : Result) (n : Fin 640) (m k : Mask) (v w : Vec) (i : Fin 64), c.flight = [a, b] ∨ c.flight = [b, a] → a.rem = 1 → b.rem = 1 →
        (a.born < b.born ∨ (a.born = b.born ∧ a.pos < b.pos)) → a.writes = [.vec n m v] → b.writes = [.vec n k w] →
        ((c.count).regs.v.get n).get i = if k.toNat.testBit i.val then w.get i else if m.toNat.testBit i.val then v.get i else (c.regs.v.get n).get i)
    ∧ (∀ (n : Fin 640) (m : Mask) (v : Vec) (i : Fin 64), c.flight = [r] → r.rem = 1 → r.writes = [.vec n m v] →
        ((c.count).regs.v.get n).get i = if m.toNat.testBit i.val then v.get i else (c.regs.v.get n).get i)
    ∧ ∀ (a b : Result) (n : Fin 64) (v w : Word64), c.flight = [a, b] ∨ c.flight = [b, a] → a.rem = 1 → b.rem = 1 →
        (a.born < b.born ∨ (a.born = b.born ∧ a.pos < b.pos)) → a.writes = [.sreg n v] → b.writes = [.sreg n w] → n ≠ 0 →
        (c.count).regs.s.get n = w ∧ (a.events ≠ 0 → c.sp.fel.toNat.testBit 63 = false → (c.count).sp.fel = felWord a.addr a.pos a.events)

/-- 02 R39 R40, 25 R363: a fault of a strand ends its grid: the record names the code, the syllables, the core, the context, the launch, the
bundle and the coordinates; every context of the grid stops, with what it has issued still under way, and every other stands; memory is as
it was, and a later fault leaves the record. That every context stops at once in the same step is the model's choice (assumption log 27). -/
def Obligations.TakingAFault : Prop :=
  ∀ (s : State) (gid : Nat) (g : Grid) (f f' : FaultWords), s.cur.kind = .compute → s.cur.grid = some gid → s.grids.get? gid = some g →
    g.state = .running → f.code < 2 ^ 8 → s.focus ∈ g.keys →
    let t := s.takeFault f
    t.grids = s.grids.set gid { g with state := .faulted, fault := some (Claim.recordOf s.cur g f) }
    ∧ t.trap = some f ∧ t.mem = s.mem ∧ t.hostMem = s.hostMem ∧ t.codes = s.codes ∧ t.queues = s.queues ∧ t.dies = s.dies
    ∧ (∀ k ∈ g.keys, t.ctx k = { s.ctx k with run := .stopped, holds := [], idle := 0, rf := none, loop := ⟨Vector.replicate 6 none, none, none⟩ })
    ∧ (∀ k, k ∉ g.keys → t.ctx k = s.ctx k)
    ∧ (t.takeFault f').grids.get? gid = t.grids.get? gid

/-- Which context is in focus does not matter: an event of another context is that event with the context brought into focus and back
(the model's own bookkeeping, assumption log 5). -/
def Obligations.KeyedEvents : Prop :=
  ∀ (key i code reason : Nat) (f : FaultWords) (s : State), key ≠ s.focus →
    ∀ e ∈ ([.engineCommandStart key, .copyComplete key i, .interlockedValueArrive key i, .icacheFill key, .gridFault key f, .treeNodeArrive key i,
        .heatTrapEntry key, .kioskFault key code reason] : List Instr),
      ∀ t, exec e (s.focusOn key) = .next t → exec e s = .next (t.focusOn s.focus)

/-- 05 R99 R101: a non-zero value that lies from one value of a format up to the next is the first where it equals it, and otherwise one of
the two as the mode says: the nearer or of two as near the even one, the one toward 0, the greater, or the lesser; infinity stands where
the first power of two beyond the format would. -/
def Obligations.Rounding : Prop :=
  ∀ f ∈ [FFmt.f32, FFmt.f64, FFmt.bf16], ∀ (rm : Rm) (neg : Bool) (m : Nat) (e : Int) (w : Nat), 0 < m → rm ≠ .rsto → rm ≠ .dyn →
    w < f.infBits false → Claim.atMost (Claim.magOf f w).1 (Claim.magOf f w).2 m e →
    ¬ Claim.atMost (Claim.magOf f (w + 1)).1 (Claim.magOf f (w + 1)).2 m e →
    (f.roundFin ⟨rm, 0⟩ neg m e).1 % 2 ^ (f.p - 1 + f.eb)
      = if Claim.atMost m e (Claim.magOf f w).1 (Claim.magOf f w).2 then w else Claim.nearest rm neg (m, e) f w

/-- 00 R6, 02 R20, 14 R282, 23 R336 R338 R342, 24 R344, 25 R365, 26 R370, 27 R380 R386: what the machine holds right after reset. The
throttle step 0, the empty instruction caches and the signal counters of 0 are the model's choice (assumption log 1); the rest the spec
gives. -/
def Obligations.ResetValues : Prop :=
  let s := State.reset
  (∀ d, s.dies.get d = ⟨0, 0, false⟩) ∧ s.grids = [] ∧ s.engines = [] ∧ s.fabric = [] ∧ s.icache = [] ∧ s.atsel = 0
  ∧ (∀ k, s.access.get? k = none) ∧ (∀ k x, s.seals.get? k = some x → x.live = false) ∧ s.logs = []
  ∧ (∀ k, (s.ctx k).run = .idle ∧ (s.ctx k).grid = none ∧ (s.ctx k).holds = [] ∧ (s.ctx k).flight = [])
  ∧ (∀ q, (s.queue q).en = false ∧ (s.queue q).halted = false ∧ (s.queue q).head = 0 ∧ (s.queue q).tail = 0 ∧ (s.queue q).waiting = [])
  ∧ (∀ c, (s.ctxRegs c).alive = false ∧ (s.ctxRegs c).ptroot = 0 ∧ ∀ b, (s.ctxRegs c).bytes.get b = 0 ∧ (s.ctxRegs c).stalls.get b = 0)
  ∧ (∀ n, let f := s.func n
      f.seal0 = 0 ∧ f.seal3 = 0 ∧ f.att0 = 0 ∧ f.att1 = 0 ∧ f.iaddr = 0 ∧ f.idata = 0 ∧ f.imask = 0 ∧ f.cause = 0 ∧ f.twaits = [] ∧ f.lttSt = 0 ∧ ∀ k, f.ctr k = 0)
  ∧ (∀ c, Claim.coreE s c = ⟨false, true, false⟩ ∧ Claim.clusE s c = ⟨0, false, false⟩)
  ∧ s.cecnt = 0 ∧ s.uecnt = 0 ∧ s.uekind = 0 ∧ s.ueloc = 0

/-- 00 R1, 03 R47 R53: every step keeps the state sound. Both memories and every LS list their bytes by strictly rising address and no byte
that an unlisted address would read as; s0 reads 0; `$rmode` holds a mode. The form of the lists is the model's own (assumption log 2). -/
def Obligations.StepsKeepSoundness : Prop := ∀ s t : State, s.sound → step s = .next t → t.sound

/-- The state right after reset is sound. -/
def Obligations.ResetIsSound : Prop := State.reset.sound

/-- 04 R69 to R80: decoding what a well-formed instruction is encoded as gives the instruction, with every operand; whatever decodes is well
formed and has an encoding; the events and the back-edge of a loop, and nothing else, have no encoding. -/
def Obligations.DecodeOfEncode : Prop :=
  (∀ (i : Instr) (w : Nat) (x : Option Nat), i.wf = true → encode i = some (w, x) → decodeSyl w x = .ok i ∧ w < 2 ^ 63)
  ∧ (∀ (w : Nat) (x : Option Nat) (i : Instr), decodeSyl w x = .ok i → i.wf = true ∧ ∃ w' x', encode i = some (w', x'))
  ∧ ∀ i : Instr, encode i = none ↔ Claim.noSyllable i

/-- 07, 08, 09, 10, 12: words written out from the spec's encodings decode to the instructions they stand for. -/
def Obligations.DecodedWords : Prop :=
  let g : Guard := ⟨0, false⟩
  decodeSyl 0x818000D081480000 none = .ok (.cmp g 13 .lt (.s 4) (.reg (.s 5)))
  ∧ decodeSyl 0x8320030003000000 none = .ok (.loop ⟨g, 1, .sreg 3, 0, false, 0⟩)
  ∧ decodeSyl 0x83C0000280000000 none = .ok (.rfrun g (.s 20))
  ∧ decodeSyl 0x83D00003C0000000 none = .ok (.rfnorm g (.s 30))
  ∧ decodeSyl 0xB08000A021000803 none = .ok (.lds ⟨g, .s 5, .lsA 2 16, .d⟩)
  ∧ decodeSyl 0x9141A0140601D401 none = .ok (.viadd true ⟨⟨13, false⟩, .v 5, .v 6, .v 7, .i16⟩)
  ∧ decodeSyl 0xA098000060000000 none = .ok (.mrd g (.v 3) 0 (.imm 0))


/-! ### What requests do to memory, and walks (06 R136 to R140, 08 R173 R176 R180 R181, 13 R271 R272 R274, 23 R339 R341, 24 R349, 25 R357 to R359,
27 R377 R379) -/

namespace Sys2Proof.Claim
open Machine

/-- The range of the physical map that holds an address. -/
def rangeOf (s : State) (pa : Nat) : Option PRange := s.pmap.find? fun r => decide (r.base ≤ pa ∧ pa < r.base + r.size)

/-- A physical byte: host memory behind target 0x0C, a signal counter of a function, else device memory (24 R349). -/
def byteAt (s : State) (pa : Nat) : Byte :=
  match rangeOf s pa with
  | some r =>
    if 0x1000 ≤ r.target then BitVec.ofNat 8 ((((s.func (r.target - 0x1000)).ctrs.get? ((pa - r.base) / 8)).getD 0).toNat / 256 ^ (pa % 8))
    else if r.target = 0x0C then s.hostMem.read pa else s.mem.read pa
  | none => s.mem.read pa

def bytesAt (s : State) (pa n : Nat) : List Byte := (List.range n).map fun i => byteAt s (pa + i)

/-- Bytes stand in physical memory; a signal counter takes the word. -/
def store (s : State) (pa : Nat) (bs : List Byte) : State :=
  match rangeOf s pa with
  | some r =>
    if 0x1000 ≤ r.target then
      let n := r.target - 0x1000
      { s with funcs := s.funcs.set n { s.func n with ctrs := (s.func n).ctrs.set ((pa - r.base) / 8) (BitVec.ofNat 64 (leNat bs)) } }
    else if r.target = 0x0C then { s with hostMem := s.hostMem.writeN pa bs } else { s with mem := s.mem.writeN pa bs }
  | none => { s with mem := s.mem.writeN pa bs }

/-- Payload bytes counted under a buffer of a context (06 R145). -/
def counted (s : State) (ctx : BitVec 8) (buf : Fin 64) (n : Nat) : State :=
  let r := s.ctxRegs ctx.toNat
  { s with ctxs := s.ctxs.set ctx.toNat { r with bytes := r.bytes.set buf (r.bytes.get buf + BitVec.ofNat 64 n) } }

/-- A store or a lane of a VAMO performs: its bytes, or the new word made of the old, stand at its address (08 R173 R181). -/
def performed (s : State) (u : Store) : State :=
  let bs := match u.op with
    | none => u.bytes
    | some op => bytesOfNat 4 (amoNew op 32 (BitVec.ofNat 32 (leNat (bytesAt s u.pa 4))) (BitVec.ofNat 32 (leNat u.bytes))).toNat
  counted (store s u.pa bs) u.ctx u.buf bs.length

/-- Two byte ranges meet one 64-byte line. -/
abbrev oneLine (a n b m : Nat) : Prop := a / 64 ≤ (b + m - 1) / 64 ∧ b / 64 ≤ (a + n - 1) / 64

/-- A store that stays behind another of its core (13 R271, 08 R176). -/
abbrev behind (u v : Store) : Prop := v.group = u.group ∨ oneLine v.pa v.bytes.length u.pa u.bytes.length

/-- No operation of a core awaits its value. -/
def noneAwaited (s : State) (core : Nat) : Prop := ∀ e ∈ s.allCtxs, e.2.coreId = core → e.2.outst = []

/-- A byte that a load of a core returns: that of its core's latest earlier plain store to it, else the one that stands (13 R271 R272). -/
def loadByte (s : State) (core seq pa : Nat) : Byte :=
  match (s.reqq.filter fun u => decide (u.core = core ∧ u.seq < seq ∧ u.pa ≤ pa ∧ pa < u.pa + u.bytes.length)).getLast? with
  | some u => u.bytes.getD (pa - u.pa) 0
  | none => byteAt s pa

def loadBytes (s : State) (core seq pa n : Nat) : List Byte := (List.range n).map fun i => loadByte s core seq (pa + i)

/-- The new word of AMO or CAS (08 R180). -/
def atomicNew (o : AtomicOp) (old : Word64) : Word64 :=
  match o with
  | .amo op v => amoNew op 64 old v
  | .cas c n => if old.toNat = c.toNat then n else old

/-- The lanes of a VAMOR perform one after another: the state after them, and the old words in lane order (08 R181). -/
def lanesDone (s : State) (ctx : BitVec 8) (op : AmoOp) (v : Vec) : List (Pa × Nat) → State × List Byte
  | [] => (s, [])
  | (p, k) :: l =>
    let old := bytesAt s p.1 4
    let new := amoNew op 32 (BitVec.ofNat 32 (leNat old)) (v.get (Fin.ofNat 64 k))
    let r := lanesDone (counted (store s p.1 (bytesOfNat 4 new.toNat)) ctx p.2 4) ctx op v l
    (r.1, old ++ r.2)

/-- A reserved or must-be-zero bit of a page-table entry (25 R358). -/
abbrev entryBad (lvl e : Nat) : Prop :=
  e / 2 ^ 6 % 2 ^ 6 ≠ 0 ∨ e / 2 ^ 52 ≠ 0
  ∨ (e.testBit 5 = true ∧ (lvl = 3 ∨ (lvl = 2 ∧ e / 2 ^ 12 % 2 ^ 18 ≠ 0) ∨ (lvl = 1 ∧ e / 2 ^ 12 % 2 ^ 9 ≠ 0)))

/-- A 64-byte line in a range of bytes. -/
abbrev inLines (pa len l : Nat) : Prop := pa / 64 ≤ l ∧ l ≤ (pa + len - 1) / 64

/-- The page that a leaf gives (25 R357 R358). -/
def leafOf (lvl e va : Nat) (buf : Fin 64) : Handle :=
  let size := 4096 * 512 ^ lvl
  ⟨va / size * size, e / 2 ^ 12 % 2 ^ 40 * 4096, size, e.testBit 1, e.testBit 2, e.testBit 3, e.testBit 4, buf⟩

end Sys2Proof.Claim

/-- 08 R173 R176 R180 R181, 13 R271 R272 R274, 06 R145: what a request does as it performs. A store's bytes stand at its address and count
under its buffer; before it perform the earlier requests of its core to its lines, and the earlier lanes of its syllable. A load returns
memory with its core's earlier plain stores to each byte; an atomic writes the new word and returns the old. DRAIN performs what its core
has stored, in issue order. What a load sees of its own queue is the model's choice (assumption log 41), as is the one moment in which a
request performs for every observer (log 8). -/
def Sys2Proof.Claim.requestsPerform : Prop :=
  ∀ s : State, s.halted = false → (s.reqq.map Store.seq).Nodup →
    (∀ (n : Nat) (l : List Turn) (u : Store), s.turns = .perform n :: l → s.reqq[n]? = some u → Claim.noneAwaited s u.core →
        let s1 := { s with turns := l }
        ((∀ v ∈ s.reqq, v.core = u.core → v.seq < u.seq → ¬ Claim.behind u v) →
          step s = .next (Claim.performed { s1 with reqq := s.reqq.filter fun v => decide (v.seq ≠ u.seq) } u))
        ∧ (∀ v, s.reqq = [v, u] → v.core = u.core → v.seq < u.seq → Claim.behind u v →
          step s = .next (Claim.performed (Claim.performed { s1 with reqq := [] } v) u)))
    ∧ (∀ core : Nat, Claim.noneAwaited s core → (s.reqq.filter fun u => decide (u.core = core)).Pairwise (fun a b => a.seq < b.seq) →
        exec (.drainComplete core) s = .next ((s.reqq.filter fun u => decide (u.core = core)).foldl Claim.performed
          { s with reqq := s.reqq.filter fun u => decide (u.core ≠ core) }))
    ∧ ∀ (o : OutOp) (addr : Word64) (pos : Fin 8) (seq : Nat), s.cur.outst = [⟨o, addr, pos, seq, none⟩] →
        (∀ e ∈ s.others, e.2.coreId = s.cur.coreId → e.2.outst = []) →
        let c := s.cur.coreId
        let ctx := s.cur.ctxId
        let done (t : State) (f : Regs → Regs) : Out := .next (Claim.cur t fun c => { c with outst := [], regs := f c.regs })
        ((∀ u ∈ s.reqq, u.core = c → u.op = none ∧ u.strong = false ∧ u.seq ≠ seq ∧ u.group ≠ seq) →
          (∀ (d : Fin 64) (pa : Nat) (z : Size) (buf : Fin 64), o = .ldg (.s d) pa z buf → d ≠ 0 →
            exec (.interlockedValueArrive s.focus 0) s = done (Claim.counted s ctx buf z.bytes) fun r => { r with
              s := r.s.set d (Claim.extended z (leNat (Claim.loadBytes s c seq pa z.bytes))) })
          ∧ (∀ (d : Fin 640) (pa : Nat) (buf : Fin 64), o = .ldgv (some d) pa buf →
            exec (.interlockedValueArrive s.focus 0) s = done (Claim.counted s ctx buf 256) fun r => { r with
              v := r.v.set d (Claim.rowOf (Claim.loadBytes s c seq pa 256)) }))
        ∧ ((∀ u ∈ s.reqq, u.core ≠ c) →
          (∀ (d : Fin 64) (op : AtomicOp) (pa : Nat) (buf : Fin 64), o = .atomic (.s d) op pa buf → d ≠ 0 →
            let old := BitVec.ofNat 64 (leNat (Claim.bytesAt s pa 8))
            exec (.interlockedValueArrive s.focus 0) s
              = done (Claim.counted (Claim.store s pa (bytesOfNat 8 (Claim.atomicNew op old).toNat)) ctx buf 8) fun r => { r with s := r.s.set d old })
          ∧ (∀ (d : Fin 640) (op : AmoOp) (pas : List Pa) (v : Vec), o = .vamor (some d) op pas v → pas ≠ [] →
            let t := Claim.lanesDone s ctx op v pas.zipIdx
            exec (.interlockedValueArrive s.focus 0) s = done t.1 fun r => { r with v := r.v.set d (Claim.rowOf t.2) }))

/-- 06 R136 R138 R139 R140, 23 R339 R341, 24 R349, 25 R357 R358 R359, 27 R377 R379: the walk from PTROOT takes nine bits of the address at each
of four levels; an absent entry waits, a reserved bit is fault 5 with reason 5 (against 00 R7, assumption log 46), a leaf
gives the page, and every read is checked at its target; one of the dispatcher, which has no master id, fails where nothing serves the
address or the memory does not give it. An access over a link that is down is code 14 with its physical address and detail 0 (the model's
choice, assumption log 44). The checks there come in order: the access table, the seals, the signal
counters, the host link, errors of memory. A global access translates through the table or handle that its operand names and is then
checked at its target. An XLT's walk ends in a handle, a wait that is posted, or a fault. -/
def Sys2Proof.Claim.walks : Prop :=
  ∀ (s : State) (va : Word64) (buf : Fin 64),
    (∀ (mid : Option Nat) (ctx : BitVec 8),
      (∀ root : BitVec 40, s.walk mid ctx root va buf = s.walkFrom mid ctx va buf 4 (root.toNat * 4096))
      ∧ ∀ lvl t : Nat, lvl < 4 →
        let a := t + 8 * (va.toNat / (4096 * 512 ^ lvl) % 512)
        let e := leNat (Claim.bytesAt s a 8)
        let leaf := lvl = 0 ∨ e.testBit 5 = true
        let down := s.target a = 0x0C ∧ (s.func (s.ctxRegs ctx.toNat).func.toNat).linkErr = true
        let fails (f : Nat × Word64 × Word64) : Prop :=
          (∃ m, mid = some m ∧ s.physFault m ctx va a 8 0 = some f)
          ∨ (mid = none ∧ ((s.serves (s.target a) = false ∧ f = (5, va, 4))
            ∨ (s.serves (s.target a) = true ∧ down ∧ f = (14, BitVec.ofNat 64 a, 0))
            ∨ (s.serves (s.target a) = true ∧ ¬ down ∧ ∃ x l r, s.bad = x ++ l :: r ∧ Claim.inLines a 8 l ∧ (∀ k ∈ x, ¬ Claim.inLines a 8 k)
              ∧ f = (14, BitVec.ofNat 64 (64 * l), 2))))
        let clear := ∀ f, ¬ fails f
        (∀ f, fails f → s.walkFrom mid ctx va buf (lvl + 1) t = .fault f)
        ∧ (clear → e.testBit 0 = false → s.walkFrom mid ctx va buf (lvl + 1) t = .wait)
        ∧ (clear → e.testBit 0 = true → Claim.entryBad lvl e → s.walkFrom mid ctx va buf (lvl + 1) t = .fault (5, va, 5))
        ∧ (clear → e.testBit 0 = true → ¬ Claim.entryBad lvl e → leaf →
            s.walkFrom mid ctx va buf (lvl + 1) t = .handle (Claim.leafOf lvl e va.toNat buf))
        ∧ (clear → e.testBit 0 = true → ¬ Claim.entryBad lvl e → ¬ leaf →
            s.walkFrom mid ctx va buf (lvl + 1) t = s.walkFrom mid ctx va buf lvl (e / 2 ^ 12 % 2 ^ 40 * 4096)))
    ∧ (∀ (mid : Nat) (ctx : BitVec 8) (pa len acc : Nat) (add : Bool), 0 < len → acc < 4 →
        let t := s.target pa
        let r := s.physFault mid ctx va pa len acc add
        let writes := acc = 1 ∨ acc = 2
        let open_ := s.admits t mid acc (some ctx) = true
        let counter := ∃ x, Claim.rangeOf s pa = some x ∧ 0x1000 ≤ x.target
        let unsealed := writes → s.sealed pa len = none
        let down := (s.func (s.ctxRegs ctx.toNat).func.toNat).linkErr = true
        (¬ open_ → r = some (5, va, BitVec.ofNat 64 (4 + t * 2 ^ 8)))
        ∧ (open_ → writes → ∀ n, s.sealed pa len = some n → r = some (6, BitVec.ofNat 64 pa, BitVec.ofNat 64 n))
        ∧ (open_ → unsealed → counter → acc ≠ 0 → (acc = 2 → add = false) → r = some (5, va, 12))
        ∧ (open_ → unsealed → (counter → acc = 0 ∨ (acc = 2 ∧ add = true)) →
          (t = 0x0C ∧ down → r = some (14, BitVec.ofNat 64 pa, 0))
          ∧ (¬ (t = 0x0C ∧ down) →
            (acc = 1 ∨ (∀ l ∈ s.bad, ¬ Claim.inLines pa len l) → r = none)
            ∧ ∀ x l y, acc ≠ 1 → s.bad = x ++ l :: y → Claim.inLines pa len l → (∀ k ∈ x, ¬ Claim.inLines pa len k) →
              r = some (14, BitVec.ofNat 64 (64 * l), 2))))
    ∧ (∀ (a : Addr) (len al acc : Nat) (add : Bool),
        let x := match a with
          | .handle h _ => handleXlate (s.cur.regs.h.get h) va len al acc (acc + 1)
          | _ => lttXlate s.cur.ltt va len al acc (acc + 1)
        (∀ f, x = .error f → s.gxlate a va len al acc add = .error f)
        ∧ (∀ p f, x = .ok p → s.physFault s.cur.master s.cur.ctxId va p.1 len acc add = some f → s.gxlate a va len al acc add = .error f)
        ∧ ∀ p, x = .ok p → s.physFault s.cur.master s.cur.ctxId va p.1 len acc add = none → s.gxlate a va len al acc add = .ok p)
    ∧ ∀ (h : Fin 8) (addr : Word64) (pos : Fin 8) (seq : Nat) (l : List Outst) (root : BitVec 40),
        s.cur.outst = ⟨.xlt h va buf, addr, pos, seq, none⟩ :: l → s.cur.run ≠ .stopped → (∀ u ∈ s.requests s.cur.coreId, u.seq ≠ seq) →
        (∀ gid, s.cur.grid = some gid → ∃ g, s.grids.get? gid = some g ∧ root = g.ptroot) →
        (s.cur.grid = none →
          ((∃ e ∈ s.grids, e.2.ctx = s.cur.ctxId ∧ e.2.state = .running) → root = (s.ctxRegs s.cur.ctxId.toNat).root)
          ∧ ((∀ e ∈ s.grids, e.2.ctx = s.cur.ctxId → e.2.state ≠ .running) → root = (s.ctxRegs s.cur.ctxId.toNat).ptroot)) →
        let u := Claim.cur s fun c => { c with outst := l }
        let w := s.walk (some s.cur.master) s.cur.ctxId root va buf
        let fn := (s.ctxRegs s.cur.ctxId.toNat).func.toNat
        let f := s.func fn
        let page := va.toNat / 4096 % 2 ^ 36
        (∀ x, w = .handle x → exec (.interlockedValueArrive s.focus 0) s
          = .next (Claim.cur u fun c => { c with regs := { c.regs with h := c.regs.h.set h (some x) } }))
        ∧ (∀ x, w = .fault x →
          let goesOn := (s.cur.kind = .management ∨ s.cur.kind = .standby) ∧ ((x.1 = 5 ∧ x.2.2.toNat % 2 ^ 8 = 4) ∨ x.1 = 6)
          (goesOn → exec (.interlockedValueArrive s.focus 0) s = .next u)
          ∧ (¬ goesOn → exec (.interlockedValueArrive s.focus 0) s
            = .next (u.takeFault ⟨x.1, BitVec.twoPow 8 pos.val, addr, x.2.1, x.2.2⟩)))
        ∧ (w = .wait → ∃ t, exec (.interlockedValueArrive s.focus 0) s = .next t
          ∧ t.cur = { s.cur with outst := l, holds := s.cur.holds ++ [.walk h va buf addr (some pos) seq] }
          ∧ ∀ tag, tag < 64 → (∀ x ∈ f.twaits, x.tag ≠ tag ∧ ¬ (x.ctx = s.cur.ctxId ∧ x.va = page)) → (∀ k, k < tag → ∃ x ∈ f.twaits, x.tag = k) →
            (t.func fn).twaits = f.twaits ++ [⟨s.cur.ctxId, buf, page, tag, false, [(s.cur.grid.getD 0, s.focus)]⟩]
            ∧ ((∀ x ∈ f.twaits, x.popped = true) → (t.func fn).cause.getLsbD 1 = true))


/-! ### What the registers read as (00 R6, 06 R145, 23 R336 R338 R342, 24 R344 R349, 25 R365, 26 R370) -/

/-- 00 R6, 06 R145, 23 R336 R338 R340 R342, 24 R344 R349 R353, 25 R359 R361 R362 R365, 26 R370 R372 R375, 27 R380 R382 R384: what reads of the
register windows return: each register what it holds, reserved bits and fields that are only written 0. A live seal stands at its offset in
firmware's block, and in the window of the function that owns its context. A read that its target does not admit returns 0 (which
registers a table covers is the model's choice, assumption log 57), and after FAIL 2 or 3 only BOOTSTAT answers (log 58). Functions 129 and
130 as firmware's block and the map are the model's choice too (log 15). -/
def Sys2Proof.Claim.registerReads : Prop :=
  ∀ (s : State) (fn : Nat),
    let f := s.func fn
    let up := s.boot.fail ≠ 2 ∧ s.boot.fail ≠ 3
    let read (off : Nat) (v : Word64) : Prop := s.windowRead fn off = v
    let dispatch := s.admits 0x80 (0x900 + fn) 0 none = true
    let manage := s.admits 0x81 (0x900 + fn) 0 none = true
    -- who answers
    (¬ up → ∀ off, ¬ (fn = 0 ∧ off = 0x800) → read off 0)
    ∧ (fn = 0 → read 0x800 (BitVec.ofNat 64 (s.boot.step + s.boot.fail * 2 ^ 4)))
    ∧ (¬ dispatch → ∀ off, off = 0x200 ∨ 0x2000 ≤ off ∧ off < 0x3000 ∨ 0x10000 ≤ off ∧ off < 0x10800 → read off 0)
    ∧ (¬ manage → ∀ off, 0x8000 ≤ off ∧ off < 0x10000 ∨ 0x20000 ≤ off ∧ off < 0x40000 → read off 0)
    -- the blocks of one function
    ∧ (up →
        read 0x100 f.seal0 ∧ read 0x108 f.seal1 ∧ read 0x110 f.seal2 ∧ read 0x118 f.seal3
        ∧ read 0x308 f.twVa ∧ read 0x310 0 ∧ read 0x400 f.ltt0 ∧ read 0x408 f.ltt1 ∧ read 0x410 (BitVec.ofNat 64 f.lttSt)
        ∧ ((∀ t ∈ f.twaits, t.popped = true) → read 0x300 0)
        ∧ (∀ l t r, f.twaits = l ++ t :: r → (∀ x ∈ l, x.popped = true) → t.popped = false →
            read 0x300 (BitVec.ofNat 64 (1 + t.ctx.toNat * 2 ^ 8 + t.buf.val * 2 ^ 16 + t.tag * 2 ^ 32)))
        ∧ read 0x500 (f.iaddr.setWidth 64) ∧ read 0x508 (f.idata.setWidth 64) ∧ read 0x510 (f.cause.setWidth 64) ∧ read 0x518 (f.imask.setWidth 64)
        ∧ read 0x600 (if fn = 0 then BitVec.ofNat 64 (s.cecnt.toNat + s.uecnt.toNat * 2 ^ 32) else 0)
        ∧ read 0x608 (if fn = 0 then BitVec.ofNat 64 (s.uekind.toNat + s.ueloc.toNat * 2 ^ 12) else 0)
        ∧ read 0x700 f.att0 ∧ read 0x708 f.att1 ∧ (∀ (i : Nat) (w : Word64), i < 4 → f.nonce[i]? = some w → read (0x710 + 8 * i) w)
        ∧ (fn ≠ 0 → read 0x800 0)
        ∧ (∀ n : Nat, n < 1024 → read (0x40000 + 8 * n) ((f.ctrs.get? n).getD 0))
        ∧ (∀ p n : Nat, p < 48 → n < 4096 →
            read (0x300000 + 0x4000 * p + 4 * n) ((((Claim.portOf s p).slots.get? n).getD (if n % 16 = 15 then 2 else 0)).setWidth 64))
        ∧ ∀ c : Nat, c < 256 →
          let r := s.ctxRegs c
          let own := Claim.owned s fn (BitVec.ofNat 8 c)
          (∀ n : Fin 64, read (0x100000 + 0x400 * c + 8 * n.val) (if own then r.bytes.get n else 0)
            ∧ read (0x100000 + 0x400 * c + 0x200 + 8 * n.val) (if own then r.stalls.get n else 0))
          ∧ ∀ n : Nat, n < 4096 → let e := (s.groups.get? (c * 4096 + n)).getD (0, 0)
            read (0x1000000 + 0x10000 * c + 16 * n) (if own then e.1 else 0) ∧ read (0x1000000 + 0x10000 * c + 16 * n + 8) (if own then e.2 else 0))
    -- the dispatcher's registers
    ∧ (up → dispatch →
        read 0x200 0
        ∧ (∀ vf : Nat, vf < 128 → let x := s.func (vf + 1)
          read (0x2000 + 0x20 * vf) (if fn = 0 then BitVec.ofNat 64 (x.weight + if x.shared then 2 ^ 16 else 0) else 0)
          ∧ read (0x2000 + 0x20 * vf + 8) (if fn = 0 then x.asked.getD x.clusters else 0)
          ∧ read (0x2000 + 0x20 * vf + 16) (if fn = 0 then x.slice.setWidth 64 else 0))
        ∧ ∀ l : Nat, fn ≠ 0 → l < 32 →
          let q := s.queue (32 * (fn - 1) + l)
          let word (o : Nat) (v : Word64) : Prop := read (0x10000 + 0x40 * l + o) v
          word 0 (q.base.setWidth 64)
          ∧ word 8 (BitVec.ofNat 64 (q.log2 + q.ctx.toNat * 2 ^ 8 + (if q.en then 2 ^ 16 else 0) + q.age.toNat * 2 ^ 24))
          ∧ word 0x10 0 ∧ word 0x18 (BitVec.ofNat 64 (q.head.toNat + 2 ^ 32 * q.tail.toNat))
          ∧ word 0x20 (if q.en = false then 0 else if q.halted then 2 else 1) ∧ word 0x28 (q.ovr.setWidth 64))
    -- seals and privileged specials
    ∧ (∀ n : Nat, n < 256 → ∀ x : Seal, s.seals.get? n = some x →
      let at_ (w : Nat) : Nat := 0x8000 + 128 * n + 8 * w
      let own := Claim.owned s fn x.ctx
      let both (w : Nat) (v : Word64) : Prop := s.firmwareRead (at_ w) = v
        ∧ (up → manage → (own → read (at_ w) v) ∧ (¬ own → read (at_ w) 0))
      (x.live = true →
        both 0 (BitVec.ofNat 64 (1 + 2 ^ 8 * x.ctx.toNat)) ∧ both 1 (BitVec.ofNat 64 (2 ^ 16 * x.base.toNat)) ∧ both 2 (BitVec.ofNat 64 x.len)
        ∧ (∀ k, k < 6 → x.meas.length = 48 → both (3 + k) (BitVec.ofNat 64 (leNat ((x.meas.drop (8 * k)).take 8))))
        ∧ ∀ w, 9 ≤ w → w < 16 → both w 0)
      ∧ (x.live = false → ∀ w, w < 16 → both w 0))
    ∧ (∀ n : Nat, n < 256 → s.seals.get? n = none → ∀ w, w < 16 → s.firmwareRead (0x8000 + 128 * n + 8 * w) = 0)
    ∧ (∀ c : Nat, c < 256 →
      let r := s.ctxRegs c
      let own := Claim.owned s fn (BitVec.ofNat 8 c)
      let special (k : Nat) (v : Word64) : Prop :=
        s.firmwareRead (0x20000 + 0x200 * c + 8 * k) = v ∧ (up → manage → read (0x20000 + 0x200 * c + 8 * k) (if own then v else 0))
      (∀ b, r.sguard = some b → special 0 (if b then 1 else 0)) ∧ special 1 (r.ptroot.setWidth 64 <<< 12)
      ∧ special 2 (r.func.setWidth 64) ∧ special 3 (BitVec.ofNat 64 c) ∧ special 4 (if r.alive then 1 else 0))
    -- firmware's own block, and the slot-to-engine map
    ∧ s.firmwareRead 0x1000 = s.atsel.setWidth 64
    ∧ s.firmwareRead 0x1008 = ((s.access.get? (s.atsel.toNat % 2 ^ 8 * 4096 + s.atsel.toNat / 2 ^ 8 % 2 ^ 12)).getD 0#32).setWidth 64
    ∧ (s.admits 0x83 (Claim.firmwareId s) 0 none = false → ∀ off, s.mapRead off = 0)
    ∧ (s.admits 0x83 (Claim.firmwareId s) 0 none = true →
      (∀ c : Nat, c < 1024 → let m := Claim.coreE s c
        s.mapRead (8 * c) = BitVec.ofNat 64 ((if m.v0u then 1 else 0) + (if m.v1u then 2 else 0) + (if m.out then 4 else 0)))
      ∧ ∀ cl : Nat, cl < 64 → let m := Claim.clusE s cl
        s.mapRead (0x2000 + 8 * cl) = BitVec.ofNat 64 (m.repl.val + (if m.inuse then 16 else 0) + (if m.spbad then 32 else 0)))


/-! ### Statements of several parts, each part as its own description says -/

/-- The integer and predicate instructions leave the one result that their row gives and change nothing else (07 R148 R149 R150 R152). -/
def Obligations.IntegersAndPredicates : Prop := Claim.integerResults ∧ Claim.predicateResults

/-- MOVX and MOVS read and write the special registers of strands, kiosk cores and firmware, and stop on privileged and reserved numbers (03 R53 R54, 07 R154, 15 R297, 23 R336). Choices of the model that it states: assumption log 64. -/
def Obligations.SpecialRegisters : Prop := Claim.specialReads ∧ Claim.specialWrites ∧ Claim.specialFaults ∧ Claim.kioskSpecials ∧ Claim.firmwareSpecials

/-- Stream registers and rotation: what STRB, STRS, STRZ, ROTX and RFNORM leave in flight, and what a stream write or a rotation step does where it lands (03 R48 R65, 07 R155 R161, 12 R265). Choices of the model that it states: assumption log 54. -/
def Obligations.StreamsAndRotation : Prop := Claim.streamResults ∧ Claim.streamAndRotation

/-- Loop nests: how LOOP arms, starts and skips a nest, how the back-edge goes on or ends it, what LEXIT does after its bundle, NOP and H syllables (07 R148 R158 R159 R160 R161, 04 R79). -/
def Obligations.Loops : Prop := Claim.loopResults ∧ Claim.backEdge ∧ Claim.nopAndLexit ∧ Claim.afterBundle

/-- END, BAR, ETRIG, TRAP, CHNK and TKALN: what they do to the strand, its grid and its alignment domain, and where they are illegal (02 R25 R36 R37, 07 R163 R164 R165 R167, 14 R285 R287). -/
def Obligations.StrandControl : Prop := Claim.gridResults ∧ Claim.chnkResults ∧ Claim.tkalnResults

/-- The refinement sequencer: RFRUN captures its block and calls REFAC; RFRET goes on after each routine, and after RESID by the residual, bound and pass count (12 R264 R265 R266 R267 R268 R269). -/
def Obligations.Refinement : Prop := Claim.rfrunResults ∧ Claim.rfretResults

/-- Loads from the LS, and the reads of the LTT, the tokens and the tag table (08 R171 R172 R174 R178 R179 R184 R187, 06 R134). -/
def Obligations.LocalReads : Prop := Claim.localLoads ∧ Claim.tableReads

/-- Tile transfers over four ticks, remote loads and stores with their faults, and the late accesses of every kind by which they reach the LS (08 R169 R172 R175, 06 R131 R135, 12 R262 R266). Choices of the model that it states: assumption log 23, 29, 66. -/
def Obligations.TilesAndRemoteAccess : Prop := Claim.tileTransfers ∧ Claim.lateAccesses ∧ Claim.remoteAccess

/-- Stores to the LS and the atomics of the LS, with the bytes they write and nothing else (08 R171 R172 R174 R179 R180, 05 R98 R106 R107). -/
def Obligations.StoresAndAtomics : Prop := Claim.localStores ∧ Claim.localAtomics

/-- Global accesses: the requests that each leaves, what each request does as it performs, and the first fault of one that fails (08 R172 R173 R176 R180 R181, 06 R141 R145 R390, 13 R271 R272 R274). Choices of the model that it states: assumption log 8, 24, 41. -/
def Obligations.GlobalMemory : Prop := Claim.globalRequests ∧ Claim.globalFaults ∧ Claim.requestsPerform

/-- DRAIN, WAITA, TWAIT, XLT, TINS and TINV, and the events by which outstanding work completes (08 R177 R182 R183 R184 R187, 06 R143, 03 R58 R59 R61). Choices of the model that it states: assumption log 34. -/
def Obligations.WaitsAndArrivals : Prop := Claim.waitResults ∧ Claim.arrivalEvents

/-- Translation of a global address through the LTT and through a handle, the page-table walk with each of its results, and the checks at the target (06 R136 R137 R138 R139 R141 R390, 23 R339 R341, 24 R349, 25 R357 R358 R359). Choices of the model that it states: assumption log 44, 46. -/
def Obligations.Translation : Prop := Claim.lttTranslation ∧ Claim.handleTranslation ∧ Claim.walks

/-- Engine commands: their checks and their place in the queue, and how a command starts, posts its message or writes its signal (08 R188 R189 R192 R193 R194, 06 R143, 15 R300). Choices of the model that it states: assumption log 24, 29. -/
def Obligations.EngineLife : Prop := Claim.engineCommands ∧ Claim.engineEvents

/-- Copies within an LS, to global memory and to several cores move their elements and nothing else; collectives of any ranks write what their operator gives (08 R190 R191 R193, 06 R144, 26 R375 R376). Choices of the model that it states: assumption log 31. -/
def Obligations.CopiesAndCollectives : Prop := Claim.copyResults ∧ Claim.wideCopies ∧ Claim.collectives ∧ Claim.rankedCollectives

/-- XSEND, XRECV, the passage of payloads through the slots of a port, and their landing (14 R289 R290 R291 R292, 06 R142, 26 R372 R373 R374). Choices of the model that it states: assumption log 17, 31, 44. -/
def Obligations.Payloads : Prop := Claim.payloadInstructions ∧ Claim.portSlots ∧ Claim.payloadLanding

/-- Circuit syllables enter the queue of the engine that their grid holds; CLOAD binds the engine (11 R228 R229 R242 R243 R244 R245). -/
def Obligations.CircuitIssue : Prop := Claim.circuitCommands ∧ Claim.circuitLoad

/-- Circuit commands as the engine runs them: the checks of a load, the words of a pass, and how a load, a pass and a page complete (11 R229 R235 R236 R237 R239 R240 R241 R242 R243 R244 R245). Choices of the model that it states: assumption log 32. -/
def Obligations.CircuitRuns : Prop := Claim.circuitCommandRuns ∧ Claim.circuitEvents ∧ Claim.circuitChecks ∧ Claim.circuitWords

/-- Movement along the row, the SEF instructions, and the vector compares (09 R201 R204 R208 R209 R210 R212, 05 R116 R117 R118 R119 R120). -/
def Obligations.VectorMovesAndCompares : Prop := Claim.vectorMoves ∧ Claim.vectorCompares

/-- Witness producers, the reading and clearing of witnesses, and their spills (12 R248 to R257 R261 R262). Choices of the model that it states: assumption log 25. -/
def Obligations.Witnesses : Prop := Claim.witnessProducers ∧ Claim.witnessMoves ∧ Claim.witnessSpills

/-- Quantisation to the block formats and back, and the choice of a block scale (09 R206, 05 R112 to R115). -/
def Obligations.BlockFormats : Prop := Claim.quantisation ∧ Claim.blockScales

/-- Mailboxes, deposits and audit logs of a kiosk core (15 R300 R301 R308, 27 R377 R383). Choices of the model that it states: assumption log 6, 55. -/
def Obligations.MailAndLogs : Prop := Claim.mailAndDeposits ∧ Claim.auditLogs

/-- Embedding tables and traversal trees of a kiosk core (15 R302 R303 R304 R305 R306 R307). Choices of the model that it states: assumption log 24, 33. -/
def Obligations.TablesAndTrees : Prop := Claim.embeddings ∧ Claim.trees

/-- Expert routing, heat counters, and the events of a kiosk core (15 R305 R306 R309 R310 R311). Choices of the model that it states: assumption log 33. -/
def Obligations.KioskControl : Prop := Claim.routingAndHeat ∧ Claim.kioskEvents

/-- How a strand begins, how CHNK takes a chunk, and the events of a context (02 R19 R20 R23 R24 R25 R34 R39, 06 R131 R138, 25 R364). Choices of the model that it states: assumption log 29, 34, 35, 43, 52, 55, 56. -/
def Obligations.StrandsAndEvents : Prop := Claim.strandsAndChunks ∧ Claim.contextEvents

/-- Barriers, their watchdog, the early trigger, alignment points, and the release of a resumption (02 R35 R37, 07 R164, 14 R284 R285 R286, 25 R363 R364). Choices of the model that it states: assumption log 10, 17, 23, 47, 50. -/
def Obligations.BarriersAndPoints : Prop := Claim.barriersAndTrigger ∧ Claim.alignmentPoints

/-- Pre-emption saves a grid whole, and a resumption brings it back as it was, to go on once every die and package has heard (02 R42, 14 R284, 24 R355 R356). Choices of the model that it states: assumption log 47. -/
def Obligations.SavingAndResuming : Prop := Claim.preemption ∧ Claim.resumption

/-- Contexts, access entries, seals and audit-log requests (23 R334 R338 R340 R341 R342 R343). Choices of the model that it states: assumption log 39. -/
def Obligations.ContextsAndSeals : Prop := Claim.contexts ∧ Claim.sealsAndLogs

/-- Translation waits, LTT patches, attestation reports, interrupts, the host link, and error counts with their rows (25 R359 R362, 26 R369 R370, 27 R377 R379 R380 R383 R384 R385). Choices of the model that it states: assumption log 6, 44. -/
def Obligations.HostServicesAndWaits : Prop := Claim.translationWaits ∧ Claim.hostServices

/-- Links, standbys, failed units, clocks, and device reset (01 R10, 25 R365 R367, 26 R373 R374, 27 R381 R382 R386 R387). Choices of the model that it states: assumption log 4, 6, 44, 58. -/
def Obligations.UnitsAndReset : Prop := Claim.unitsAndClocks ∧ Claim.deviceReset

/-- Partitions of virtual functions, and writes and reads of the register windows (00 R6, 06 R145, 23 R335 R336 R338 R339, 24 R344 R349 R353, 25 R361 R365, 26 R370). Choices of the model that it states: assumption log 15, 57, 58, 59. -/
def Obligations.RegistersAndPartitions : Prop := Claim.partitions ∧ Claim.registerWrites ∧ Claim.registerReads
end

