-- ==== Sys2Proof/Laws/Bits.lean ====
section
/-! SUPPORT. Laws of bit fields: a field of a number built as the sum of its fields. -/
namespace Sys2Proof.Laws

theorem bits_lt (w lo n : Nat) : bits w lo n < 2 ^ n := Nat.mod_lt _ (Nat.two_pow_pos n)

/-- A field below bit k does not see what stands from bit k on. -/
theorem bits_add_high {a b k lo n : Nat} (h : lo + n ≤ k) : bits (a + b * 2 ^ k) lo n = bits a lo n := by
  obtain ⟨d, rfl⟩ : ∃ d, k = lo + n + d := ⟨k - (lo + n), by omega⟩
  unfold bits
  rw [show b * 2 ^ (lo + n + d) = 2 ^ lo * (2 ^ n * (2 ^ d * b)) by rw [Nat.pow_add, Nat.pow_add]; ac_rfl,
    Nat.add_mul_div_left _ _ (Nat.two_pow_pos lo), Nat.add_mul_mod_self_left]

/-- A field from bit k on does not see what stands below bit k. -/
theorem bits_add_low {a b k lo n : Nat} (h : a < 2 ^ k) (le : k ≤ lo) : bits (a + b * 2 ^ k) lo n = bits b (lo - k) n := by
  obtain ⟨d, rfl⟩ : ∃ d, lo = k + d := ⟨lo - k, by omega⟩
  unfold bits
  rw [Nat.pow_add, ← Nat.div_div_eq_div_mul, Nat.add_mul_div_right _ _ (Nat.two_pow_pos k), Nat.div_eq_of_lt h, Nat.zero_add, Nat.add_sub_cancel_left]

/-- A number of n bits is its own field. -/
theorem bits_self {a n : Nat} (h : a < 2 ^ n) : bits a 0 n = a := by
  unfold bits
  rw [Nat.pow_zero, Nat.div_one, Nat.mod_eq_of_lt h]

/-! ### Fields set side by side -/

theorem bits_pack_head {n v : Nat} (r : List (Nat × Nat)) (h : v < 2 ^ n) : bits (pack ((n, v) :: r)) 0 n = v := by
  show bits (v + 2 ^ n * pack r) 0 n = v
  rw [Nat.mul_comm, bits_add_high (by omega), bits_self h]

theorem bits_pack_inside {n v lo k : Nat} (r : List (Nat × Nat)) (h : lo + k ≤ n) : bits (pack ((n, v) :: r)) lo k = bits v lo k := by
  show bits (v + 2 ^ n * pack r) lo k = _
  rw [Nat.mul_comm, bits_add_high h]

theorem bits_pack_tail {n v lo k : Nat} (r : List (Nat × Nat)) (h : v < 2 ^ n) (le : n ≤ lo) : bits (pack ((n, v) :: r)) lo k = bits (pack r) (lo - n) k := by
  show bits (v + 2 ^ n * pack r) lo k = _
  rw [Nat.mul_comm, bits_add_low h le]

/-- Fields in their ranges make a number below two to the sum of their widths. -/
theorem pack_lt : ∀ (l : List (Nat × Nat)), (∀ e ∈ l, e.2 < 2 ^ e.1) → pack l < 2 ^ (l.map Prod.fst).sum
  | [], _ => Nat.one_pos
  | (n, v) :: r, h => by
    have hv : v < 2 ^ n := h (n, v) List.mem_cons_self
    have hr := pack_lt r fun e he => h e (List.mem_cons_of_mem _ he)
    show v + 2 ^ n * pack r < 2 ^ (n + (r.map Prod.fst).sum)
    rw [Nat.pow_add]
    calc v + 2 ^ n * pack r < 2 ^ n + 2 ^ n * pack r := by omega
      _ = 2 ^ n * (pack r + 1) := by rw [Nat.mul_add, Nat.mul_one, Nat.add_comm]
      _ ≤ 2 ^ n * 2 ^ (r.map Prod.fst).sum := Nat.mul_le_mul_left _ hr

theorem bits_zero (lo n : Nat) : bits 0 lo n = 0 := by simp [bits]

end Sys2Proof.Laws
end

