-- ==== Sys2Proof/Laws/Memory.lean ====
section
/-! SUPPORT. Laws of memory: a write keeps the canonical form, a read after a write, and what wider writes leave alone. -/
namespace Sys2Proof.Laws
open Machine

theorem wfFrom_mono {m : Memory} {lo hi : Nat} (h : Memory.wfFrom hi m = true) (le : lo ≤ hi) : Memory.wfFrom lo m = true := by
  cases m with
  | nil => rfl
  | cons c r =>
    obtain ⟨a, b⟩ := c
    simp only [Memory.wfFrom, Bool.and_eq_true, decide_eq_true_eq] at h ⊢
    exact ⟨⟨by omega, h.1.2⟩, h.2⟩

/-- A write keeps the form from any bound at or below its address. -/
theorem write_wfFrom (m : Memory) : ∀ {lo a : Nat} (b : Byte), Memory.wfFrom lo m = true → lo ≤ a → Memory.wfFrom lo (m.write a b) = true := by
  induction m with
  | nil =>
    intro lo a b _ le
    simp only [Memory.write]
    split
    · rfl
    · simp [Memory.wfFrom, *]
  | cons c r ih =>
    obtain ⟨x, d⟩ := c
    intro lo a b h le
    simp only [Memory.wfFrom, Bool.and_eq_true, decide_eq_true_eq, bne_iff_ne] at h
    obtain ⟨⟨h1, h2⟩, h3⟩ := h
    simp only [Memory.write]
    split
    · split
      · simp [Memory.wfFrom, h1, h2, h3]
      · simp [Memory.wfFrom, *] <;> omega
    · split
      · split
        · exact wfFrom_mono h3 (by omega)
        · subst x
          simp [Memory.wfFrom, *]
      · simp [Memory.wfFrom, h1, h2, ih (lo := x + 1) (a := a) b h3 (by omega)]

theorem write_wf {m : Memory} (a : Nat) (b : Byte) (h : m.wf = true) : (m.write a b).wf = true := write_wfFrom m b h (Nat.zero_le a)

theorem writeN_wf {m : Memory} (bs : List Byte) : ∀ (a : Nat), m.wf = true → (m.writeN a bs).wf = true := by
  induction bs generalizing m with
  | nil => exact fun _ h => h
  | cons b l ih => exact fun a h => ih (a + 1) (write_wf a b h)

/-- Below the bound of the form nothing is listed. -/
theorem read_below (m : Memory) : ∀ {lo a : Nat}, Memory.wfFrom lo m = true → a < lo → m.read a = Memory.blank := by
  induction m with
  | nil => intros; rfl
  | cons c r ih =>
    obtain ⟨x, d⟩ := c
    intro lo a h lt
    simp only [Memory.wfFrom, Bool.and_eq_true, decide_eq_true_eq] at h
    have ne : (x == a) = false := by simp; omega
    have := ih h.2 (a := a) (by omega)
    simpa [Memory.read, List.find?, ne] using this

theorem read_cons (x a : Nat) (d : Byte) (r : Memory) : Memory.read ((x, d) :: r) a = if x = a then d else Memory.read r a := by
  by_cases h : x = a
  · simp [Memory.read, List.find?, h]
  · have : (x == a) = false := by simpa using h
    simp [Memory.read, List.find?, this, h]

/-- A read after a write gives the value written at its address, and elsewhere what it gave before. -/
theorem read_write (m : Memory) : ∀ {lo : Nat} (a x : Nat) (b : Byte), Memory.wfFrom lo m = true →
    (m.write a b).read x = if x = a then b else m.read x := by
  induction m with
  | nil =>
    intro lo a x b _
    simp only [Memory.write]
    split
    · next h => subst h; simp [Memory.read]
    · rw [read_cons]; simp only [eq_comm (a := a)]
  | cons c r ih =>
    obtain ⟨y, d⟩ := c
    intro lo a x b h
    simp only [Memory.wfFrom, Bool.and_eq_true, decide_eq_true_eq] at h
    have rd : Memory.read ((y, d) :: r) x = if y = x then d else Memory.read r x := read_cons y x d r
    simp only [Memory.write]
    split
    · next lt =>
      have low : x = a → Memory.read ((y, d) :: r) x = Memory.blank := by
        intro e
        rw [rd, if_neg (by omega)]
        exact read_below r (lo := y + 1) h.2 (by omega)
      split
      · next e => by_cases ex : x = a <;> simp [ex, e] ; rw [← ex]; exact low ex
      · rw [read_cons]; simp only [eq_comm (a := a)]
    · split
      · next eq =>
        subst eq
        split
        · next e =>
          by_cases ex : x = a
          · subst ex
            rw [if_pos rfl, e]
            exact read_below r (lo := x + 1) h.2 (by omega)
          · rw [if_neg ex, rd, if_neg (Ne.symm ex)]
        · rw [read_cons, rd]
          by_cases ex : x = a
          · rw [if_pos ex.symm, if_pos ex]
          · rw [if_neg (Ne.symm ex), if_neg ex, if_neg (Ne.symm ex)]
      · next ne =>
        rw [read_cons, rd, ih a x b h.2]
        by_cases ex : x = a
        · subst ex
          rw [if_neg (Ne.symm ne), if_pos rfl, if_pos rfl]
        · rw [if_neg ex, if_neg ex]

@[simp] theorem read_write_same {m : Memory} (a : Nat) (b : Byte) (h : m.wf = true) : (m.write a b).read a = b := by
  rw [read_write m a a b h, if_pos rfl]

theorem read_write_other {m : Memory} {a x : Nat} (b : Byte) (h : m.wf = true) (ne : x ≠ a) : (m.write a b).read x = m.read x := by
  rw [read_write m a x b h, if_neg ne]

/-- Byte i of a wider write stands at its address. -/
theorem read_writeN {m : Memory} (bs : List Byte) : ∀ (a x : Nat), m.wf = true →
    (m.writeN a bs).read x = if a ≤ x ∧ x < a + bs.length then bs.getD (x - a) 0 else m.read x := by
  induction bs generalizing m with
  | nil => intro a x _; simp [Memory.writeN] <;> omega
  | cons b l ih =>
    intro a x h
    show ((m.write a b).writeN (a + 1) l).read x = _
    rw [ih (a + 1) x (write_wf a b h), read_write m a x b h]
    simp only [List.length_cons]
    by_cases e : x = a
    · subst e
      rw [if_neg (by omega), if_pos rfl, if_pos (by omega)]
      simp
    · by_cases i : a + 1 ≤ x ∧ x < a + 1 + l.length
      · rw [if_pos i, if_pos (by omega)]
        obtain ⟨k, rfl⟩ : ∃ k, x = a + 1 + k := ⟨x - (a + 1), by omega⟩
        have : a + 1 + k - a = k + 1 := by omega
        simp [this]
      · rw [if_neg i, if_neg e, if_neg (by omega)]

theorem read_writeN_outside {m : Memory} {a x : Nat} (bs : List Byte) (h : m.wf = true) (out : x < a ∨ a + bs.length ≤ x) : (m.writeN a bs).read x = m.read x := by
  rw [read_writeN bs a x h, if_neg (by omega)]

/-- The read of a range depends on the bytes of the range alone. -/
theorem readN_congr {m k : Memory} : ∀ (n a : Nat), (∀ i, i < n → m.read (a + i) = k.read (a + i)) → m.readN a n = k.readN a n
  | 0, _, _ => rfl
  | n + 1, a, h => by
    have h0 := h 0 (by omega)
    have ht := readN_congr (m := m) (k := k) n (a + 1) fun i lt => by
      have := h (i + 1) (by omega)
      rwa [show a + (i + 1) = a + 1 + i by omega] at this
    simp only [Nat.add_zero] at h0
    simp [Memory.readN, h0, ht]

@[simp] theorem readN_length (m : Memory) : ∀ (n a : Nat), (m.readN a n).length = n
  | 0, _ => rfl
  | n + 1, a => by simp [Memory.readN, readN_length m n (a + 1)]

theorem reset_memory_wf : State.reset.mem.wf = true ∧ State.reset.hostMem.wf = true ∧ State.reset.cur.ls.wf = true := ⟨rfl, rfl, rfl⟩

end Sys2Proof.Laws
end

