-- ==== Sys2Proof/Laws/State.lean ====
section
/-! SUPPORT. One lemma for each field of the state and each of its plain updates, so that no proof unfolds a record update. -/
namespace Sys2Proof.Laws
open Machine

variable (s : State)

/-! ### mapCur -/

@[simp] theorem mapCur_turns (f : Ctx → Ctx) : (s.mapCur f).turns = s.turns := rfl
@[simp] theorem mapCur_focus (f : Ctx → Ctx) : (s.mapCur f).focus = s.focus := rfl
@[simp] theorem mapCur_cur (f : Ctx → Ctx) : (s.mapCur f).cur = f s.cur := rfl
@[simp] theorem mapCur_others (f : Ctx → Ctx) : (s.mapCur f).others = s.others := rfl
@[simp] theorem mapCur_issue (f : Ctx → Ctx) : (s.mapCur f).issue = s.issue := rfl
@[simp] theorem mapCur_trap (f : Ctx → Ctx) : (s.mapCur f).trap = s.trap := rfl
@[simp] theorem mapCur_lsReqs (f : Ctx → Ctx) : (s.mapCur f).lsReqs = s.lsReqs := rfl
@[simp] theorem mapCur_used (f : Ctx → Ctx) : (s.mapCur f).used = s.used := rfl
@[simp] theorem mapCur_bad (f : Ctx → Ctx) : (s.mapCur f).bad = s.bad := rfl
@[simp] theorem mapCur_failures (f : Ctx → Ctx) : (s.mapCur f).failures = s.failures := rfl
@[simp] theorem mapCur_elReqs (f : Ctx → Ctx) : (s.mapCur f).elReqs = s.elReqs := rfl
@[simp] theorem mapCur_elOrder (f : Ctx → Ctx) : (s.mapCur f).elOrder = s.elOrder := rfl
@[simp] theorem mapCur_dies (f : Ctx → Ctx) : (s.mapCur f).dies = s.dies := rfl
@[simp] theorem mapCur_mem (f : Ctx → Ctx) : (s.mapCur f).mem = s.mem := rfl
@[simp] theorem mapCur_hostMem (f : Ctx → Ctx) : (s.mapCur f).hostMem = s.hostMem := rfl
@[simp] theorem mapCur_pmap (f : Ctx → Ctx) : (s.mapCur f).pmap = s.pmap := rfl
@[simp] theorem mapCur_reqq (f : Ctx → Ctx) : (s.mapCur f).reqq = s.reqq := rfl
@[simp] theorem mapCur_reqs (f : Ctx → Ctx) : (s.mapCur f).reqs = s.reqs := rfl
@[simp] theorem mapCur_icache (f : Ctx → Ctx) : (s.mapCur f).icache = s.icache := rfl
@[simp] theorem mapCur_fabric (f : Ctx → Ctx) : (s.mapCur f).fabric = s.fabric := rfl
@[simp] theorem mapCur_engines (f : Ctx → Ctx) : (s.mapCur f).engines = s.engines := rfl
@[simp] theorem mapCur_grids (f : Ctx → Ctx) : (s.mapCur f).grids = s.grids := rfl
@[simp] theorem mapCur_starts (f : Ctx → Ctx) : (s.mapCur f).starts = s.starts := rfl
@[simp] theorem mapCur_queues (f : Ctx → Ctx) : (s.mapCur f).queues = s.queues := rfl
@[simp] theorem mapCur_funcs (f : Ctx → Ctx) : (s.mapCur f).funcs = s.funcs := rfl
@[simp] theorem mapCur_ctxs (f : Ctx → Ctx) : (s.mapCur f).ctxs = s.ctxs := rfl
@[simp] theorem mapCur_codes (f : Ctx → Ctx) : (s.mapCur f).codes = s.codes := rfl
@[simp] theorem mapCur_atsel (f : Ctx → Ctx) : (s.mapCur f).atsel = s.atsel := rfl
@[simp] theorem mapCur_access (f : Ctx → Ctx) : (s.mapCur f).access = s.access := rfl
@[simp] theorem mapCur_seals (f : Ctx → Ctx) : (s.mapCur f).seals = s.seals := rfl
@[simp] theorem mapCur_logs (f : Ctx → Ctx) : (s.mapCur f).logs = s.logs := rfl
@[simp] theorem mapCur_groups (f : Ctx → Ctx) : (s.mapCur f).groups = s.groups := rfl
@[simp] theorem mapCur_ports (f : Ctx → Ctx) : (s.mapCur f).ports = s.ports := rfl
@[simp] theorem mapCur_coreMap (f : Ctx → Ctx) : (s.mapCur f).coreMap = s.coreMap := rfl
@[simp] theorem mapCur_clusterMap (f : Ctx → Ctx) : (s.mapCur f).clusterMap = s.clusterMap := rfl
@[simp] theorem mapCur_standby (f : Ctx → Ctx) : (s.mapCur f).standby = s.standby := rfl
@[simp] theorem mapCur_boot (f : Ctx → Ctx) : (s.mapCur f).boot = s.boot := rfl
@[simp] theorem mapCur_cohort (f : Ctx → Ctx) : (s.mapCur f).cohort = s.cohort := rfl
@[simp] theorem mapCur_cecnt (f : Ctx → Ctx) : (s.mapCur f).cecnt = s.cecnt := rfl
@[simp] theorem mapCur_uecnt (f : Ctx → Ctx) : (s.mapCur f).uecnt = s.uecnt := rfl
@[simp] theorem mapCur_uekind (f : Ctx → Ctx) : (s.mapCur f).uekind = s.uekind := rfl
@[simp] theorem mapCur_ueloc (f : Ctx → Ctx) : (s.mapCur f).ueloc = s.ueloc := rfl
@[simp] theorem mapCur_corrected (f : Ctx → Ctx) : (s.mapCur f).corrected = s.corrected := rfl
@[simp] theorem mapCur_freeCount (f : Ctx → Ctx) : (s.mapCur f).freeCount = s.freeCount := rfl

/-! ### put -/

@[simp] theorem put_turns (lat : Nat) (ws : List RegWrite) (bp : Option BpVal) (ev : Ev) : (s.put lat ws bp ev).turns = s.turns := rfl
@[simp] theorem put_focus (lat : Nat) (ws : List RegWrite) (bp : Option BpVal) (ev : Ev) : (s.put lat ws bp ev).focus = s.focus := rfl
@[simp] theorem put_cur (lat : Nat) (ws : List RegWrite) (bp : Option BpVal) (ev : Ev) : (s.put lat ws bp ev).cur = s.cur.put s.issue s.cur.sp.scnt.toNat lat ws bp ev := rfl
@[simp] theorem put_others (lat : Nat) (ws : List RegWrite) (bp : Option BpVal) (ev : Ev) : (s.put lat ws bp ev).others = s.others := rfl
@[simp] theorem put_issue (lat : Nat) (ws : List RegWrite) (bp : Option BpVal) (ev : Ev) : (s.put lat ws bp ev).issue = s.issue := rfl
@[simp] theorem put_trap (lat : Nat) (ws : List RegWrite) (bp : Option BpVal) (ev : Ev) : (s.put lat ws bp ev).trap = s.trap := rfl
@[simp] theorem put_lsReqs (lat : Nat) (ws : List RegWrite) (bp : Option BpVal) (ev : Ev) : (s.put lat ws bp ev).lsReqs = s.lsReqs := rfl
@[simp] theorem put_used (lat : Nat) (ws : List RegWrite) (bp : Option BpVal) (ev : Ev) : (s.put lat ws bp ev).used = s.used := rfl
@[simp] theorem put_bad (lat : Nat) (ws : List RegWrite) (bp : Option BpVal) (ev : Ev) : (s.put lat ws bp ev).bad = s.bad := rfl
@[simp] theorem put_failures (lat : Nat) (ws : List RegWrite) (bp : Option BpVal) (ev : Ev) : (s.put lat ws bp ev).failures = s.failures := rfl
@[simp] theorem put_elReqs (lat : Nat) (ws : List RegWrite) (bp : Option BpVal) (ev : Ev) : (s.put lat ws bp ev).elReqs = s.elReqs := rfl
@[simp] theorem put_elOrder (lat : Nat) (ws : List RegWrite) (bp : Option BpVal) (ev : Ev) : (s.put lat ws bp ev).elOrder = s.elOrder := rfl
@[simp] theorem put_dies (lat : Nat) (ws : List RegWrite) (bp : Option BpVal) (ev : Ev) : (s.put lat ws bp ev).dies = s.dies := rfl
@[simp] theorem put_mem (lat : Nat) (ws : List RegWrite) (bp : Option BpVal) (ev : Ev) : (s.put lat ws bp ev).mem = s.mem := rfl
@[simp] theorem put_hostMem (lat : Nat) (ws : List RegWrite) (bp : Option BpVal) (ev : Ev) : (s.put lat ws bp ev).hostMem = s.hostMem := rfl
@[simp] theorem put_pmap (lat : Nat) (ws : List RegWrite) (bp : Option BpVal) (ev : Ev) : (s.put lat ws bp ev).pmap = s.pmap := rfl
@[simp] theorem put_reqq (lat : Nat) (ws : List RegWrite) (bp : Option BpVal) (ev : Ev) : (s.put lat ws bp ev).reqq = s.reqq := rfl
@[simp] theorem put_reqs (lat : Nat) (ws : List RegWrite) (bp : Option BpVal) (ev : Ev) : (s.put lat ws bp ev).reqs = s.reqs := rfl
@[simp] theorem put_icache (lat : Nat) (ws : List RegWrite) (bp : Option BpVal) (ev : Ev) : (s.put lat ws bp ev).icache = s.icache := rfl
@[simp] theorem put_fabric (lat : Nat) (ws : List RegWrite) (bp : Option BpVal) (ev : Ev) : (s.put lat ws bp ev).fabric = s.fabric := rfl
@[simp] theorem put_engines (lat : Nat) (ws : List RegWrite) (bp : Option BpVal) (ev : Ev) : (s.put lat ws bp ev).engines = s.engines := rfl
@[simp] theorem put_grids (lat : Nat) (ws : List RegWrite) (bp : Option BpVal) (ev : Ev) : (s.put lat ws bp ev).grids = s.grids := rfl
@[simp] theorem put_starts (lat : Nat) (ws : List RegWrite) (bp : Option BpVal) (ev : Ev) : (s.put lat ws bp ev).starts = s.starts := rfl
@[simp] theorem put_queues (lat : Nat) (ws : List RegWrite) (bp : Option BpVal) (ev : Ev) : (s.put lat ws bp ev).queues = s.queues := rfl
@[simp] theorem put_funcs (lat : Nat) (ws : List RegWrite) (bp : Option BpVal) (ev : Ev) : (s.put lat ws bp ev).funcs = s.funcs := rfl
@[simp] theorem put_ctxs (lat : Nat) (ws : List RegWrite) (bp : Option BpVal) (ev : Ev) : (s.put lat ws bp ev).ctxs = s.ctxs := rfl
@[simp] theorem put_codes (lat : Nat) (ws : List RegWrite) (bp : Option BpVal) (ev : Ev) : (s.put lat ws bp ev).codes = s.codes := rfl
@[simp] theorem put_atsel (lat : Nat) (ws : List RegWrite) (bp : Option BpVal) (ev : Ev) : (s.put lat ws bp ev).atsel = s.atsel := rfl
@[simp] theorem put_access (lat : Nat) (ws : List RegWrite) (bp : Option BpVal) (ev : Ev) : (s.put lat ws bp ev).access = s.access := rfl
@[simp] theorem put_seals (lat : Nat) (ws : List RegWrite) (bp : Option BpVal) (ev : Ev) : (s.put lat ws bp ev).seals = s.seals := rfl
@[simp] theorem put_logs (lat : Nat) (ws : List RegWrite) (bp : Option BpVal) (ev : Ev) : (s.put lat ws bp ev).logs = s.logs := rfl
@[simp] theorem put_groups (lat : Nat) (ws : List RegWrite) (bp : Option BpVal) (ev : Ev) : (s.put lat ws bp ev).groups = s.groups := rfl
@[simp] theorem put_ports (lat : Nat) (ws : List RegWrite) (bp : Option BpVal) (ev : Ev) : (s.put lat ws bp ev).ports = s.ports := rfl
@[simp] theorem put_coreMap (lat : Nat) (ws : List RegWrite) (bp : Option BpVal) (ev : Ev) : (s.put lat ws bp ev).coreMap = s.coreMap := rfl
@[simp] theorem put_clusterMap (lat : Nat) (ws : List RegWrite) (bp : Option BpVal) (ev : Ev) : (s.put lat ws bp ev).clusterMap = s.clusterMap := rfl
@[simp] theorem put_standby (lat : Nat) (ws : List RegWrite) (bp : Option BpVal) (ev : Ev) : (s.put lat ws bp ev).standby = s.standby := rfl
@[simp] theorem put_boot (lat : Nat) (ws : List RegWrite) (bp : Option BpVal) (ev : Ev) : (s.put lat ws bp ev).boot = s.boot := rfl
@[simp] theorem put_cohort (lat : Nat) (ws : List RegWrite) (bp : Option BpVal) (ev : Ev) : (s.put lat ws bp ev).cohort = s.cohort := rfl
@[simp] theorem put_cecnt (lat : Nat) (ws : List RegWrite) (bp : Option BpVal) (ev : Ev) : (s.put lat ws bp ev).cecnt = s.cecnt := rfl
@[simp] theorem put_uecnt (lat : Nat) (ws : List RegWrite) (bp : Option BpVal) (ev : Ev) : (s.put lat ws bp ev).uecnt = s.uecnt := rfl
@[simp] theorem put_uekind (lat : Nat) (ws : List RegWrite) (bp : Option BpVal) (ev : Ev) : (s.put lat ws bp ev).uekind = s.uekind := rfl
@[simp] theorem put_ueloc (lat : Nat) (ws : List RegWrite) (bp : Option BpVal) (ev : Ev) : (s.put lat ws bp ev).ueloc = s.ueloc := rfl
@[simp] theorem put_corrected (lat : Nat) (ws : List RegWrite) (bp : Option BpVal) (ev : Ev) : (s.put lat ws bp ev).corrected = s.corrected := rfl
@[simp] theorem put_freeCount (lat : Nat) (ws : List RegWrite) (bp : Option BpVal) (ev : Ev) : (s.put lat ws bp ev).freeCount = s.freeCount := rfl

/-! ### hold -/

@[simp] theorem hold_turns (h : Hold) : (s.hold h).turns = s.turns := rfl
@[simp] theorem hold_focus (h : Hold) : (s.hold h).focus = s.focus := rfl
@[simp] theorem hold_cur (h : Hold) : (s.hold h).cur = { s.cur with holds := s.cur.holds ++ [h] } := rfl
@[simp] theorem hold_others (h : Hold) : (s.hold h).others = s.others := rfl
@[simp] theorem hold_issue (h : Hold) : (s.hold h).issue = s.issue := rfl
@[simp] theorem hold_trap (h : Hold) : (s.hold h).trap = s.trap := rfl
@[simp] theorem hold_lsReqs (h : Hold) : (s.hold h).lsReqs = s.lsReqs := rfl
@[simp] theorem hold_used (h : Hold) : (s.hold h).used = s.used := rfl
@[simp] theorem hold_bad (h : Hold) : (s.hold h).bad = s.bad := rfl
@[simp] theorem hold_failures (h : Hold) : (s.hold h).failures = s.failures := rfl
@[simp] theorem hold_elReqs (h : Hold) : (s.hold h).elReqs = s.elReqs := rfl
@[simp] theorem hold_elOrder (h : Hold) : (s.hold h).elOrder = s.elOrder := rfl
@[simp] theorem hold_dies (h : Hold) : (s.hold h).dies = s.dies := rfl
@[simp] theorem hold_mem (h : Hold) : (s.hold h).mem = s.mem := rfl
@[simp] theorem hold_hostMem (h : Hold) : (s.hold h).hostMem = s.hostMem := rfl
@[simp] theorem hold_pmap (h : Hold) : (s.hold h).pmap = s.pmap := rfl
@[simp] theorem hold_reqq (h : Hold) : (s.hold h).reqq = s.reqq := rfl
@[simp] theorem hold_reqs (h : Hold) : (s.hold h).reqs = s.reqs := rfl
@[simp] theorem hold_icache (h : Hold) : (s.hold h).icache = s.icache := rfl
@[simp] theorem hold_fabric (h : Hold) : (s.hold h).fabric = s.fabric := rfl
@[simp] theorem hold_engines (h : Hold) : (s.hold h).engines = s.engines := rfl
@[simp] theorem hold_grids (h : Hold) : (s.hold h).grids = s.grids := rfl
@[simp] theorem hold_starts (h : Hold) : (s.hold h).starts = s.starts := rfl
@[simp] theorem hold_queues (h : Hold) : (s.hold h).queues = s.queues := rfl
@[simp] theorem hold_funcs (h : Hold) : (s.hold h).funcs = s.funcs := rfl
@[simp] theorem hold_ctxs (h : Hold) : (s.hold h).ctxs = s.ctxs := rfl
@[simp] theorem hold_codes (h : Hold) : (s.hold h).codes = s.codes := rfl
@[simp] theorem hold_atsel (h : Hold) : (s.hold h).atsel = s.atsel := rfl
@[simp] theorem hold_access (h : Hold) : (s.hold h).access = s.access := rfl
@[simp] theorem hold_seals (h : Hold) : (s.hold h).seals = s.seals := rfl
@[simp] theorem hold_logs (h : Hold) : (s.hold h).logs = s.logs := rfl
@[simp] theorem hold_groups (h : Hold) : (s.hold h).groups = s.groups := rfl
@[simp] theorem hold_ports (h : Hold) : (s.hold h).ports = s.ports := rfl
@[simp] theorem hold_coreMap (h : Hold) : (s.hold h).coreMap = s.coreMap := rfl
@[simp] theorem hold_clusterMap (h : Hold) : (s.hold h).clusterMap = s.clusterMap := rfl
@[simp] theorem hold_standby (h : Hold) : (s.hold h).standby = s.standby := rfl
@[simp] theorem hold_boot (h : Hold) : (s.hold h).boot = s.boot := rfl
@[simp] theorem hold_cohort (h : Hold) : (s.hold h).cohort = s.cohort := rfl
@[simp] theorem hold_cecnt (h : Hold) : (s.hold h).cecnt = s.cecnt := rfl
@[simp] theorem hold_uecnt (h : Hold) : (s.hold h).uecnt = s.uecnt := rfl
@[simp] theorem hold_uekind (h : Hold) : (s.hold h).uekind = s.uekind := rfl
@[simp] theorem hold_ueloc (h : Hold) : (s.hold h).ueloc = s.ueloc := rfl
@[simp] theorem hold_corrected (h : Hold) : (s.hold h).corrected = s.corrected := rfl
@[simp] theorem hold_freeCount (h : Hold) : (s.hold h).freeCount = s.freeCount := rfl

/-! ### lsWrite -/

@[simp] theorem lsWrite_turns (a : Nat) (bs : List Byte) : (s.lsWrite a bs).turns = s.turns := rfl
@[simp] theorem lsWrite_focus (a : Nat) (bs : List Byte) : (s.lsWrite a bs).focus = s.focus := rfl
@[simp] theorem lsWrite_cur (a : Nat) (bs : List Byte) : (s.lsWrite a bs).cur = { s.cur with ls := s.cur.ls.writeN a bs } := rfl
@[simp] theorem lsWrite_others (a : Nat) (bs : List Byte) : (s.lsWrite a bs).others = s.others := rfl
@[simp] theorem lsWrite_issue (a : Nat) (bs : List Byte) : (s.lsWrite a bs).issue = s.issue := rfl
@[simp] theorem lsWrite_trap (a : Nat) (bs : List Byte) : (s.lsWrite a bs).trap = s.trap := rfl
@[simp] theorem lsWrite_lsReqs (a : Nat) (bs : List Byte) : (s.lsWrite a bs).lsReqs = s.lsReqs := rfl
@[simp] theorem lsWrite_used (a : Nat) (bs : List Byte) : (s.lsWrite a bs).used = s.used := rfl
@[simp] theorem lsWrite_bad (a : Nat) (bs : List Byte) : (s.lsWrite a bs).bad = s.bad := rfl
@[simp] theorem lsWrite_failures (a : Nat) (bs : List Byte) : (s.lsWrite a bs).failures = s.failures := rfl
@[simp] theorem lsWrite_elReqs (a : Nat) (bs : List Byte) : (s.lsWrite a bs).elReqs = s.elReqs := rfl
@[simp] theorem lsWrite_elOrder (a : Nat) (bs : List Byte) : (s.lsWrite a bs).elOrder = s.elOrder := rfl
@[simp] theorem lsWrite_dies (a : Nat) (bs : List Byte) : (s.lsWrite a bs).dies = s.dies := rfl
@[simp] theorem lsWrite_mem (a : Nat) (bs : List Byte) : (s.lsWrite a bs).mem = s.mem := rfl
@[simp] theorem lsWrite_hostMem (a : Nat) (bs : List Byte) : (s.lsWrite a bs).hostMem = s.hostMem := rfl
@[simp] theorem lsWrite_pmap (a : Nat) (bs : List Byte) : (s.lsWrite a bs).pmap = s.pmap := rfl
@[simp] theorem lsWrite_reqq (a : Nat) (bs : List Byte) : (s.lsWrite a bs).reqq = s.reqq := rfl
@[simp] theorem lsWrite_reqs (a : Nat) (bs : List Byte) : (s.lsWrite a bs).reqs = s.reqs := rfl
@[simp] theorem lsWrite_icache (a : Nat) (bs : List Byte) : (s.lsWrite a bs).icache = s.icache := rfl
@[simp] theorem lsWrite_fabric (a : Nat) (bs : List Byte) : (s.lsWrite a bs).fabric = s.fabric := rfl
@[simp] theorem lsWrite_engines (a : Nat) (bs : List Byte) : (s.lsWrite a bs).engines = s.engines := rfl
@[simp] theorem lsWrite_grids (a : Nat) (bs : List Byte) : (s.lsWrite a bs).grids = s.grids := rfl
@[simp] theorem lsWrite_starts (a : Nat) (bs : List Byte) : (s.lsWrite a bs).starts = s.starts := rfl
@[simp] theorem lsWrite_queues (a : Nat) (bs : List Byte) : (s.lsWrite a bs).queues = s.queues := rfl
@[simp] theorem lsWrite_funcs (a : Nat) (bs : List Byte) : (s.lsWrite a bs).funcs = s.funcs := rfl
@[simp] theorem lsWrite_ctxs (a : Nat) (bs : List Byte) : (s.lsWrite a bs).ctxs = s.ctxs := rfl
@[simp] theorem lsWrite_codes (a : Nat) (bs : List Byte) : (s.lsWrite a bs).codes = s.codes := rfl
@[simp] theorem lsWrite_atsel (a : Nat) (bs : List Byte) : (s.lsWrite a bs).atsel = s.atsel := rfl
@[simp] theorem lsWrite_access (a : Nat) (bs : List Byte) : (s.lsWrite a bs).access = s.access := rfl
@[simp] theorem lsWrite_seals (a : Nat) (bs : List Byte) : (s.lsWrite a bs).seals = s.seals := rfl
@[simp] theorem lsWrite_logs (a : Nat) (bs : List Byte) : (s.lsWrite a bs).logs = s.logs := rfl
@[simp] theorem lsWrite_groups (a : Nat) (bs : List Byte) : (s.lsWrite a bs).groups = s.groups := rfl
@[simp] theorem lsWrite_ports (a : Nat) (bs : List Byte) : (s.lsWrite a bs).ports = s.ports := rfl
@[simp] theorem lsWrite_coreMap (a : Nat) (bs : List Byte) : (s.lsWrite a bs).coreMap = s.coreMap := rfl
@[simp] theorem lsWrite_clusterMap (a : Nat) (bs : List Byte) : (s.lsWrite a bs).clusterMap = s.clusterMap := rfl
@[simp] theorem lsWrite_standby (a : Nat) (bs : List Byte) : (s.lsWrite a bs).standby = s.standby := rfl
@[simp] theorem lsWrite_boot (a : Nat) (bs : List Byte) : (s.lsWrite a bs).boot = s.boot := rfl
@[simp] theorem lsWrite_cohort (a : Nat) (bs : List Byte) : (s.lsWrite a bs).cohort = s.cohort := rfl
@[simp] theorem lsWrite_cecnt (a : Nat) (bs : List Byte) : (s.lsWrite a bs).cecnt = s.cecnt := rfl
@[simp] theorem lsWrite_uecnt (a : Nat) (bs : List Byte) : (s.lsWrite a bs).uecnt = s.uecnt := rfl
@[simp] theorem lsWrite_uekind (a : Nat) (bs : List Byte) : (s.lsWrite a bs).uekind = s.uekind := rfl
@[simp] theorem lsWrite_ueloc (a : Nat) (bs : List Byte) : (s.lsWrite a bs).ueloc = s.ueloc := rfl
@[simp] theorem lsWrite_corrected (a : Nat) (bs : List Byte) : (s.lsWrite a bs).corrected = s.corrected := rfl
@[simp] theorem lsWrite_freeCount (a : Nat) (bs : List Byte) : (s.lsWrite a bs).freeCount = s.freeCount := rfl

/-! ### jump -/

@[simp] theorem jump_turns (a : Word64) (idle : Nat) : (s.jump a idle).turns = s.turns := rfl
@[simp] theorem jump_focus (a : Word64) (idle : Nat) : (s.jump a idle).focus = s.focus := rfl
@[simp] theorem jump_cur (a : Word64) (idle : Nat) : (s.jump a idle).cur = { s.cur with next := a, idle := idle } := rfl
@[simp] theorem jump_others (a : Word64) (idle : Nat) : (s.jump a idle).others = s.others := rfl
@[simp] theorem jump_issue (a : Word64) (idle : Nat) : (s.jump a idle).issue = s.issue := rfl
@[simp] theorem jump_trap (a : Word64) (idle : Nat) : (s.jump a idle).trap = s.trap := rfl
@[simp] theorem jump_lsReqs (a : Word64) (idle : Nat) : (s.jump a idle).lsReqs = s.lsReqs := rfl
@[simp] theorem jump_used (a : Word64) (idle : Nat) : (s.jump a idle).used = s.used := rfl
@[simp] theorem jump_bad (a : Word64) (idle : Nat) : (s.jump a idle).bad = s.bad := rfl
@[simp] theorem jump_failures (a : Word64) (idle : Nat) : (s.jump a idle).failures = s.failures := rfl
@[simp] theorem jump_elReqs (a : Word64) (idle : Nat) : (s.jump a idle).elReqs = s.elReqs := rfl
@[simp] theorem jump_elOrder (a : Word64) (idle : Nat) : (s.jump a idle).elOrder = s.elOrder := rfl
@[simp] theorem jump_dies (a : Word64) (idle : Nat) : (s.jump a idle).dies = s.dies := rfl
@[simp] theorem jump_mem (a : Word64) (idle : Nat) : (s.jump a idle).mem = s.mem := rfl
@[simp] theorem jump_hostMem (a : Word64) (idle : Nat) : (s.jump a idle).hostMem = s.hostMem := rfl
@[simp] theorem jump_pmap (a : Word64) (idle : Nat) : (s.jump a idle).pmap = s.pmap := rfl
@[simp] theorem jump_reqq (a : Word64) (idle : Nat) : (s.jump a idle).reqq = s.reqq := rfl
@[simp] theorem jump_reqs (a : Word64) (idle : Nat) : (s.jump a idle).reqs = s.reqs := rfl
@[simp] theorem jump_icache (a : Word64) (idle : Nat) : (s.jump a idle).icache = s.icache := rfl
@[simp] theorem jump_fabric (a : Word64) (idle : Nat) : (s.jump a idle).fabric = s.fabric := rfl
@[simp] theorem jump_engines (a : Word64) (idle : Nat) : (s.jump a idle).engines = s.engines := rfl
@[simp] theorem jump_grids (a : Word64) (idle : Nat) : (s.jump a idle).grids = s.grids := rfl
@[simp] theorem jump_starts (a : Word64) (idle : Nat) : (s.jump a idle).starts = s.starts := rfl
@[simp] theorem jump_queues (a : Word64) (idle : Nat) : (s.jump a idle).queues = s.queues := rfl
@[simp] theorem jump_funcs (a : Word64) (idle : Nat) : (s.jump a idle).funcs = s.funcs := rfl
@[simp] theorem jump_ctxs (a : Word64) (idle : Nat) : (s.jump a idle).ctxs = s.ctxs := rfl
@[simp] theorem jump_codes (a : Word64) (idle : Nat) : (s.jump a idle).codes = s.codes := rfl
@[simp] theorem jump_atsel (a : Word64) (idle : Nat) : (s.jump a idle).atsel = s.atsel := rfl
@[simp] theorem jump_access (a : Word64) (idle : Nat) : (s.jump a idle).access = s.access := rfl
@[simp] theorem jump_seals (a : Word64) (idle : Nat) : (s.jump a idle).seals = s.seals := rfl
@[simp] theorem jump_logs (a : Word64) (idle : Nat) : (s.jump a idle).logs = s.logs := rfl
@[simp] theorem jump_groups (a : Word64) (idle : Nat) : (s.jump a idle).groups = s.groups := rfl
@[simp] theorem jump_ports (a : Word64) (idle : Nat) : (s.jump a idle).ports = s.ports := rfl
@[simp] theorem jump_coreMap (a : Word64) (idle : Nat) : (s.jump a idle).coreMap = s.coreMap := rfl
@[simp] theorem jump_clusterMap (a : Word64) (idle : Nat) : (s.jump a idle).clusterMap = s.clusterMap := rfl
@[simp] theorem jump_standby (a : Word64) (idle : Nat) : (s.jump a idle).standby = s.standby := rfl
@[simp] theorem jump_boot (a : Word64) (idle : Nat) : (s.jump a idle).boot = s.boot := rfl
@[simp] theorem jump_cohort (a : Word64) (idle : Nat) : (s.jump a idle).cohort = s.cohort := rfl
@[simp] theorem jump_cecnt (a : Word64) (idle : Nat) : (s.jump a idle).cecnt = s.cecnt := rfl
@[simp] theorem jump_uecnt (a : Word64) (idle : Nat) : (s.jump a idle).uecnt = s.uecnt := rfl
@[simp] theorem jump_uekind (a : Word64) (idle : Nat) : (s.jump a idle).uekind = s.uekind := rfl
@[simp] theorem jump_ueloc (a : Word64) (idle : Nat) : (s.jump a idle).ueloc = s.ueloc := rfl
@[simp] theorem jump_corrected (a : Word64) (idle : Nat) : (s.jump a idle).corrected = s.corrected := rfl
@[simp] theorem jump_freeCount (a : Word64) (idle : Nat) : (s.jump a idle).freeCount = s.freeCount := rfl

/-! ### busy -/

@[simp] theorem busy_turns (n : Nat) : (s.busy n).turns = s.turns := rfl
@[simp] theorem busy_focus (n : Nat) : (s.busy n).focus = s.focus := rfl
@[simp] theorem busy_cur (n : Nat) : (s.busy n).cur = { s.cur with lBusy := n + 1 } := rfl
@[simp] theorem busy_others (n : Nat) : (s.busy n).others = s.others := rfl
@[simp] theorem busy_issue (n : Nat) : (s.busy n).issue = s.issue := rfl
@[simp] theorem busy_trap (n : Nat) : (s.busy n).trap = s.trap := rfl
@[simp] theorem busy_lsReqs (n : Nat) : (s.busy n).lsReqs = s.lsReqs := rfl
@[simp] theorem busy_used (n : Nat) : (s.busy n).used = s.used := rfl
@[simp] theorem busy_bad (n : Nat) : (s.busy n).bad = s.bad := rfl
@[simp] theorem busy_failures (n : Nat) : (s.busy n).failures = s.failures := rfl
@[simp] theorem busy_elReqs (n : Nat) : (s.busy n).elReqs = s.elReqs := rfl
@[simp] theorem busy_elOrder (n : Nat) : (s.busy n).elOrder = s.elOrder := rfl
@[simp] theorem busy_dies (n : Nat) : (s.busy n).dies = s.dies := rfl
@[simp] theorem busy_mem (n : Nat) : (s.busy n).mem = s.mem := rfl
@[simp] theorem busy_hostMem (n : Nat) : (s.busy n).hostMem = s.hostMem := rfl
@[simp] theorem busy_pmap (n : Nat) : (s.busy n).pmap = s.pmap := rfl
@[simp] theorem busy_reqq (n : Nat) : (s.busy n).reqq = s.reqq := rfl
@[simp] theorem busy_reqs (n : Nat) : (s.busy n).reqs = s.reqs := rfl
@[simp] theorem busy_icache (n : Nat) : (s.busy n).icache = s.icache := rfl
@[simp] theorem busy_fabric (n : Nat) : (s.busy n).fabric = s.fabric := rfl
@[simp] theorem busy_engines (n : Nat) : (s.busy n).engines = s.engines := rfl
@[simp] theorem busy_grids (n : Nat) : (s.busy n).grids = s.grids := rfl
@[simp] theorem busy_starts (n : Nat) : (s.busy n).starts = s.starts := rfl
@[simp] theorem busy_queues (n : Nat) : (s.busy n).queues = s.queues := rfl
@[simp] theorem busy_funcs (n : Nat) : (s.busy n).funcs = s.funcs := rfl
@[simp] theorem busy_ctxs (n : Nat) : (s.busy n).ctxs = s.ctxs := rfl
@[simp] theorem busy_codes (n : Nat) : (s.busy n).codes = s.codes := rfl
@[simp] theorem busy_atsel (n : Nat) : (s.busy n).atsel = s.atsel := rfl
@[simp] theorem busy_access (n : Nat) : (s.busy n).access = s.access := rfl
@[simp] theorem busy_seals (n : Nat) : (s.busy n).seals = s.seals := rfl
@[simp] theorem busy_logs (n : Nat) : (s.busy n).logs = s.logs := rfl
@[simp] theorem busy_groups (n : Nat) : (s.busy n).groups = s.groups := rfl
@[simp] theorem busy_ports (n : Nat) : (s.busy n).ports = s.ports := rfl
@[simp] theorem busy_coreMap (n : Nat) : (s.busy n).coreMap = s.coreMap := rfl
@[simp] theorem busy_clusterMap (n : Nat) : (s.busy n).clusterMap = s.clusterMap := rfl
@[simp] theorem busy_standby (n : Nat) : (s.busy n).standby = s.standby := rfl
@[simp] theorem busy_boot (n : Nat) : (s.busy n).boot = s.boot := rfl
@[simp] theorem busy_cohort (n : Nat) : (s.busy n).cohort = s.cohort := rfl
@[simp] theorem busy_cecnt (n : Nat) : (s.busy n).cecnt = s.cecnt := rfl
@[simp] theorem busy_uecnt (n : Nat) : (s.busy n).uecnt = s.uecnt := rfl
@[simp] theorem busy_uekind (n : Nat) : (s.busy n).uekind = s.uekind := rfl
@[simp] theorem busy_ueloc (n : Nat) : (s.busy n).ueloc = s.ueloc := rfl
@[simp] theorem busy_corrected (n : Nat) : (s.busy n).corrected = s.corrected := rfl
@[simp] theorem busy_freeCount (n : Nat) : (s.busy n).freeCount = s.freeCount := rfl

/-! ### draw -/

@[simp] theorem draw_turns : (s.draw).turns = s.turns := rfl
@[simp] theorem draw_focus : (s.draw).focus = s.focus := rfl
@[simp] theorem draw_cur : (s.draw).cur = s.cur := rfl
@[simp] theorem draw_others : (s.draw).others = s.others := rfl
@[simp] theorem draw_issue : (s.draw).issue = s.issue := rfl
@[simp] theorem draw_trap : (s.draw).trap = s.trap := rfl
@[simp] theorem draw_lsReqs : (s.draw).lsReqs = s.lsReqs := rfl
@[simp] theorem draw_used : (s.draw).used = s.used := rfl
@[simp] theorem draw_bad : (s.draw).bad = s.bad := rfl
@[simp] theorem draw_failures : (s.draw).failures = s.failures := rfl
@[simp] theorem draw_elReqs : (s.draw).elReqs = s.elReqs := rfl
@[simp] theorem draw_elOrder : (s.draw).elOrder = s.elOrder := rfl
@[simp] theorem draw_dies : (s.draw).dies = s.dies := rfl
@[simp] theorem draw_mem : (s.draw).mem = s.mem := rfl
@[simp] theorem draw_hostMem : (s.draw).hostMem = s.hostMem := rfl
@[simp] theorem draw_pmap : (s.draw).pmap = s.pmap := rfl
@[simp] theorem draw_reqq : (s.draw).reqq = s.reqq := rfl
@[simp] theorem draw_reqs : (s.draw).reqs = s.reqs := rfl
@[simp] theorem draw_icache : (s.draw).icache = s.icache := rfl
@[simp] theorem draw_fabric : (s.draw).fabric = s.fabric := rfl
@[simp] theorem draw_engines : (s.draw).engines = s.engines := rfl
@[simp] theorem draw_grids : (s.draw).grids = s.grids := rfl
@[simp] theorem draw_starts : (s.draw).starts = s.starts := rfl
@[simp] theorem draw_queues : (s.draw).queues = s.queues := rfl
@[simp] theorem draw_funcs : (s.draw).funcs = s.funcs := rfl
@[simp] theorem draw_ctxs : (s.draw).ctxs = s.ctxs := rfl
@[simp] theorem draw_codes : (s.draw).codes = s.codes := rfl
@[simp] theorem draw_atsel : (s.draw).atsel = s.atsel := rfl
@[simp] theorem draw_access : (s.draw).access = s.access := rfl
@[simp] theorem draw_seals : (s.draw).seals = s.seals := rfl
@[simp] theorem draw_logs : (s.draw).logs = s.logs := rfl
@[simp] theorem draw_groups : (s.draw).groups = s.groups := rfl
@[simp] theorem draw_ports : (s.draw).ports = s.ports := rfl
@[simp] theorem draw_coreMap : (s.draw).coreMap = s.coreMap := rfl
@[simp] theorem draw_clusterMap : (s.draw).clusterMap = s.clusterMap := rfl
@[simp] theorem draw_standby : (s.draw).standby = s.standby := rfl
@[simp] theorem draw_boot : (s.draw).boot = s.boot := rfl
@[simp] theorem draw_cohort : (s.draw).cohort = s.cohort := rfl
@[simp] theorem draw_cecnt : (s.draw).cecnt = s.cecnt := rfl
@[simp] theorem draw_uecnt : (s.draw).uecnt = s.uecnt := rfl
@[simp] theorem draw_uekind : (s.draw).uekind = s.uekind := rfl
@[simp] theorem draw_ueloc : (s.draw).ueloc = s.ueloc := rfl
@[simp] theorem draw_corrected : (s.draw).corrected = s.corrected := rfl
@[simp] theorem draw_freeCount : (s.draw).freeCount = s.freeCount + 1 := rfl

/-! ### updFunc -/

@[simp] theorem updFunc_turns (n : Nat) (u : Func → Func) : (s.updFunc n u).turns = s.turns := rfl
@[simp] theorem updFunc_focus (n : Nat) (u : Func → Func) : (s.updFunc n u).focus = s.focus := rfl
@[simp] theorem updFunc_cur (n : Nat) (u : Func → Func) : (s.updFunc n u).cur = s.cur := rfl
@[simp] theorem updFunc_others (n : Nat) (u : Func → Func) : (s.updFunc n u).others = s.others := rfl
@[simp] theorem updFunc_issue (n : Nat) (u : Func → Func) : (s.updFunc n u).issue = s.issue := rfl
@[simp] theorem updFunc_trap (n : Nat) (u : Func → Func) : (s.updFunc n u).trap = s.trap := rfl
@[simp] theorem updFunc_lsReqs (n : Nat) (u : Func → Func) : (s.updFunc n u).lsReqs = s.lsReqs := rfl
@[simp] theorem updFunc_used (n : Nat) (u : Func → Func) : (s.updFunc n u).used = s.used := rfl
@[simp] theorem updFunc_bad (n : Nat) (u : Func → Func) : (s.updFunc n u).bad = s.bad := rfl
@[simp] theorem updFunc_failures (n : Nat) (u : Func → Func) : (s.updFunc n u).failures = s.failures := rfl
@[simp] theorem updFunc_elReqs (n : Nat) (u : Func → Func) : (s.updFunc n u).elReqs = s.elReqs := rfl
@[simp] theorem updFunc_elOrder (n : Nat) (u : Func → Func) : (s.updFunc n u).elOrder = s.elOrder := rfl
@[simp] theorem updFunc_dies (n : Nat) (u : Func → Func) : (s.updFunc n u).dies = s.dies := rfl
@[simp] theorem updFunc_mem (n : Nat) (u : Func → Func) : (s.updFunc n u).mem = s.mem := rfl
@[simp] theorem updFunc_hostMem (n : Nat) (u : Func → Func) : (s.updFunc n u).hostMem = s.hostMem := rfl
@[simp] theorem updFunc_pmap (n : Nat) (u : Func → Func) : (s.updFunc n u).pmap = s.pmap := rfl
@[simp] theorem updFunc_reqq (n : Nat) (u : Func → Func) : (s.updFunc n u).reqq = s.reqq := rfl
@[simp] theorem updFunc_reqs (n : Nat) (u : Func → Func) : (s.updFunc n u).reqs = s.reqs := rfl
@[simp] theorem updFunc_icache (n : Nat) (u : Func → Func) : (s.updFunc n u).icache = s.icache := rfl
@[simp] theorem updFunc_fabric (n : Nat) (u : Func → Func) : (s.updFunc n u).fabric = s.fabric := rfl
@[simp] theorem updFunc_engines (n : Nat) (u : Func → Func) : (s.updFunc n u).engines = s.engines := rfl
@[simp] theorem updFunc_grids (n : Nat) (u : Func → Func) : (s.updFunc n u).grids = s.grids := rfl
@[simp] theorem updFunc_starts (n : Nat) (u : Func → Func) : (s.updFunc n u).starts = s.starts := rfl
@[simp] theorem updFunc_queues (n : Nat) (u : Func → Func) : (s.updFunc n u).queues = s.queues := rfl
@[simp] theorem updFunc_funcs (n : Nat) (u : Func → Func) : (s.updFunc n u).funcs = s.funcs.set n (u (s.func n)) := rfl
@[simp] theorem updFunc_ctxs (n : Nat) (u : Func → Func) : (s.updFunc n u).ctxs = s.ctxs := rfl
@[simp] theorem updFunc_codes (n : Nat) (u : Func → Func) : (s.updFunc n u).codes = s.codes := rfl
@[simp] theorem updFunc_atsel (n : Nat) (u : Func → Func) : (s.updFunc n u).atsel = s.atsel := rfl
@[simp] theorem updFunc_access (n : Nat) (u : Func → Func) : (s.updFunc n u).access = s.access := rfl
@[simp] theorem updFunc_seals (n : Nat) (u : Func → Func) : (s.updFunc n u).seals = s.seals := rfl
@[simp] theorem updFunc_logs (n : Nat) (u : Func → Func) : (s.updFunc n u).logs = s.logs := rfl
@[simp] theorem updFunc_groups (n : Nat) (u : Func → Func) : (s.updFunc n u).groups = s.groups := rfl
@[simp] theorem updFunc_ports (n : Nat) (u : Func → Func) : (s.updFunc n u).ports = s.ports := rfl
@[simp] theorem updFunc_coreMap (n : Nat) (u : Func → Func) : (s.updFunc n u).coreMap = s.coreMap := rfl
@[simp] theorem updFunc_clusterMap (n : Nat) (u : Func → Func) : (s.updFunc n u).clusterMap = s.clusterMap := rfl
@[simp] theorem updFunc_standby (n : Nat) (u : Func → Func) : (s.updFunc n u).standby = s.standby := rfl
@[simp] theorem updFunc_boot (n : Nat) (u : Func → Func) : (s.updFunc n u).boot = s.boot := rfl
@[simp] theorem updFunc_cohort (n : Nat) (u : Func → Func) : (s.updFunc n u).cohort = s.cohort := rfl
@[simp] theorem updFunc_cecnt (n : Nat) (u : Func → Func) : (s.updFunc n u).cecnt = s.cecnt := rfl
@[simp] theorem updFunc_uecnt (n : Nat) (u : Func → Func) : (s.updFunc n u).uecnt = s.uecnt := rfl
@[simp] theorem updFunc_uekind (n : Nat) (u : Func → Func) : (s.updFunc n u).uekind = s.uekind := rfl
@[simp] theorem updFunc_ueloc (n : Nat) (u : Func → Func) : (s.updFunc n u).ueloc = s.ueloc := rfl
@[simp] theorem updFunc_corrected (n : Nat) (u : Func → Func) : (s.updFunc n u).corrected = s.corrected := rfl
@[simp] theorem updFunc_freeCount (n : Nat) (u : Func → Func) : (s.updFunc n u).freeCount = s.freeCount := rfl

/-! ### updQueue -/

@[simp] theorem updQueue_turns (q : Nat) (u : Queue → Queue) : (s.updQueue q u).turns = s.turns := rfl
@[simp] theorem updQueue_focus (q : Nat) (u : Queue → Queue) : (s.updQueue q u).focus = s.focus := rfl
@[simp] theorem updQueue_cur (q : Nat) (u : Queue → Queue) : (s.updQueue q u).cur = s.cur := rfl
@[simp] theorem updQueue_others (q : Nat) (u : Queue → Queue) : (s.updQueue q u).others = s.others := rfl
@[simp] theorem updQueue_issue (q : Nat) (u : Queue → Queue) : (s.updQueue q u).issue = s.issue := rfl
@[simp] theorem updQueue_trap (q : Nat) (u : Queue → Queue) : (s.updQueue q u).trap = s.trap := rfl
@[simp] theorem updQueue_lsReqs (q : Nat) (u : Queue → Queue) : (s.updQueue q u).lsReqs = s.lsReqs := rfl
@[simp] theorem updQueue_used (q : Nat) (u : Queue → Queue) : (s.updQueue q u).used = s.used := rfl
@[simp] theorem updQueue_bad (q : Nat) (u : Queue → Queue) : (s.updQueue q u).bad = s.bad := rfl
@[simp] theorem updQueue_failures (q : Nat) (u : Queue → Queue) : (s.updQueue q u).failures = s.failures := rfl
@[simp] theorem updQueue_elReqs (q : Nat) (u : Queue → Queue) : (s.updQueue q u).elReqs = s.elReqs := rfl
@[simp] theorem updQueue_elOrder (q : Nat) (u : Queue → Queue) : (s.updQueue q u).elOrder = s.elOrder := rfl
@[simp] theorem updQueue_dies (q : Nat) (u : Queue → Queue) : (s.updQueue q u).dies = s.dies := rfl
@[simp] theorem updQueue_mem (q : Nat) (u : Queue → Queue) : (s.updQueue q u).mem = s.mem := rfl
@[simp] theorem updQueue_hostMem (q : Nat) (u : Queue → Queue) : (s.updQueue q u).hostMem = s.hostMem := rfl
@[simp] theorem updQueue_pmap (q : Nat) (u : Queue → Queue) : (s.updQueue q u).pmap = s.pmap := rfl
@[simp] theorem updQueue_reqq (q : Nat) (u : Queue → Queue) : (s.updQueue q u).reqq = s.reqq := rfl
@[simp] theorem updQueue_reqs (q : Nat) (u : Queue → Queue) : (s.updQueue q u).reqs = s.reqs := rfl
@[simp] theorem updQueue_icache (q : Nat) (u : Queue → Queue) : (s.updQueue q u).icache = s.icache := rfl
@[simp] theorem updQueue_fabric (q : Nat) (u : Queue → Queue) : (s.updQueue q u).fabric = s.fabric := rfl
@[simp] theorem updQueue_engines (q : Nat) (u : Queue → Queue) : (s.updQueue q u).engines = s.engines := rfl
@[simp] theorem updQueue_grids (q : Nat) (u : Queue → Queue) : (s.updQueue q u).grids = s.grids := rfl
@[simp] theorem updQueue_starts (q : Nat) (u : Queue → Queue) : (s.updQueue q u).starts = s.starts := rfl
@[simp] theorem updQueue_queues (q : Nat) (u : Queue → Queue) : (s.updQueue q u).queues = s.queues.set q (u (s.queue q)) := rfl
@[simp] theorem updQueue_funcs (q : Nat) (u : Queue → Queue) : (s.updQueue q u).funcs = s.funcs := rfl
@[simp] theorem updQueue_ctxs (q : Nat) (u : Queue → Queue) : (s.updQueue q u).ctxs = s.ctxs := rfl
@[simp] theorem updQueue_codes (q : Nat) (u : Queue → Queue) : (s.updQueue q u).codes = s.codes := rfl
@[simp] theorem updQueue_atsel (q : Nat) (u : Queue → Queue) : (s.updQueue q u).atsel = s.atsel := rfl
@[simp] theorem updQueue_access (q : Nat) (u : Queue → Queue) : (s.updQueue q u).access = s.access := rfl
@[simp] theorem updQueue_seals (q : Nat) (u : Queue → Queue) : (s.updQueue q u).seals = s.seals := rfl
@[simp] theorem updQueue_logs (q : Nat) (u : Queue → Queue) : (s.updQueue q u).logs = s.logs := rfl
@[simp] theorem updQueue_groups (q : Nat) (u : Queue → Queue) : (s.updQueue q u).groups = s.groups := rfl
@[simp] theorem updQueue_ports (q : Nat) (u : Queue → Queue) : (s.updQueue q u).ports = s.ports := rfl
@[simp] theorem updQueue_coreMap (q : Nat) (u : Queue → Queue) : (s.updQueue q u).coreMap = s.coreMap := rfl
@[simp] theorem updQueue_clusterMap (q : Nat) (u : Queue → Queue) : (s.updQueue q u).clusterMap = s.clusterMap := rfl
@[simp] theorem updQueue_standby (q : Nat) (u : Queue → Queue) : (s.updQueue q u).standby = s.standby := rfl
@[simp] theorem updQueue_boot (q : Nat) (u : Queue → Queue) : (s.updQueue q u).boot = s.boot := rfl
@[simp] theorem updQueue_cohort (q : Nat) (u : Queue → Queue) : (s.updQueue q u).cohort = s.cohort := rfl
@[simp] theorem updQueue_cecnt (q : Nat) (u : Queue → Queue) : (s.updQueue q u).cecnt = s.cecnt := rfl
@[simp] theorem updQueue_uecnt (q : Nat) (u : Queue → Queue) : (s.updQueue q u).uecnt = s.uecnt := rfl
@[simp] theorem updQueue_uekind (q : Nat) (u : Queue → Queue) : (s.updQueue q u).uekind = s.uekind := rfl
@[simp] theorem updQueue_ueloc (q : Nat) (u : Queue → Queue) : (s.updQueue q u).ueloc = s.ueloc := rfl
@[simp] theorem updQueue_corrected (q : Nat) (u : Queue → Queue) : (s.updQueue q u).corrected = s.corrected := rfl
@[simp] theorem updQueue_freeCount (q : Nat) (u : Queue → Queue) : (s.updQueue q u).freeCount = s.freeCount := rfl

/-! ### updEngine -/

@[simp] theorem updEngine_turns (cl : Nat) (u : Engine → Engine) : (s.updEngine cl u).turns = s.turns := rfl
@[simp] theorem updEngine_focus (cl : Nat) (u : Engine → Engine) : (s.updEngine cl u).focus = s.focus := rfl
@[simp] theorem updEngine_cur (cl : Nat) (u : Engine → Engine) : (s.updEngine cl u).cur = s.cur := rfl
@[simp] theorem updEngine_others (cl : Nat) (u : Engine → Engine) : (s.updEngine cl u).others = s.others := rfl
@[simp] theorem updEngine_issue (cl : Nat) (u : Engine → Engine) : (s.updEngine cl u).issue = s.issue := rfl
@[simp] theorem updEngine_trap (cl : Nat) (u : Engine → Engine) : (s.updEngine cl u).trap = s.trap := rfl
@[simp] theorem updEngine_lsReqs (cl : Nat) (u : Engine → Engine) : (s.updEngine cl u).lsReqs = s.lsReqs := rfl
@[simp] theorem updEngine_used (cl : Nat) (u : Engine → Engine) : (s.updEngine cl u).used = s.used := rfl
@[simp] theorem updEngine_bad (cl : Nat) (u : Engine → Engine) : (s.updEngine cl u).bad = s.bad := rfl
@[simp] theorem updEngine_failures (cl : Nat) (u : Engine → Engine) : (s.updEngine cl u).failures = s.failures := rfl
@[simp] theorem updEngine_elReqs (cl : Nat) (u : Engine → Engine) : (s.updEngine cl u).elReqs = s.elReqs := rfl
@[simp] theorem updEngine_elOrder (cl : Nat) (u : Engine → Engine) : (s.updEngine cl u).elOrder = s.elOrder := rfl
@[simp] theorem updEngine_dies (cl : Nat) (u : Engine → Engine) : (s.updEngine cl u).dies = s.dies := rfl
@[simp] theorem updEngine_mem (cl : Nat) (u : Engine → Engine) : (s.updEngine cl u).mem = s.mem := rfl
@[simp] theorem updEngine_hostMem (cl : Nat) (u : Engine → Engine) : (s.updEngine cl u).hostMem = s.hostMem := rfl
@[simp] theorem updEngine_pmap (cl : Nat) (u : Engine → Engine) : (s.updEngine cl u).pmap = s.pmap := rfl
@[simp] theorem updEngine_reqq (cl : Nat) (u : Engine → Engine) : (s.updEngine cl u).reqq = s.reqq := rfl
@[simp] theorem updEngine_reqs (cl : Nat) (u : Engine → Engine) : (s.updEngine cl u).reqs = s.reqs := rfl
@[simp] theorem updEngine_icache (cl : Nat) (u : Engine → Engine) : (s.updEngine cl u).icache = s.icache := rfl
@[simp] theorem updEngine_fabric (cl : Nat) (u : Engine → Engine) : (s.updEngine cl u).fabric = s.fabric := rfl
@[simp] theorem updEngine_engines (cl : Nat) (u : Engine → Engine) : (s.updEngine cl u).engines = s.engines.set cl (u (s.engine cl)) := rfl
@[simp] theorem updEngine_grids (cl : Nat) (u : Engine → Engine) : (s.updEngine cl u).grids = s.grids := rfl
@[simp] theorem updEngine_starts (cl : Nat) (u : Engine → Engine) : (s.updEngine cl u).starts = s.starts := rfl
@[simp] theorem updEngine_queues (cl : Nat) (u : Engine → Engine) : (s.updEngine cl u).queues = s.queues := rfl
@[simp] theorem updEngine_funcs (cl : Nat) (u : Engine → Engine) : (s.updEngine cl u).funcs = s.funcs := rfl
@[simp] theorem updEngine_ctxs (cl : Nat) (u : Engine → Engine) : (s.updEngine cl u).ctxs = s.ctxs := rfl
@[simp] theorem updEngine_codes (cl : Nat) (u : Engine → Engine) : (s.updEngine cl u).codes = s.codes := rfl
@[simp] theorem updEngine_atsel (cl : Nat) (u : Engine → Engine) : (s.updEngine cl u).atsel = s.atsel := rfl
@[simp] theorem updEngine_access (cl : Nat) (u : Engine → Engine) : (s.updEngine cl u).access = s.access := rfl
@[simp] theorem updEngine_seals (cl : Nat) (u : Engine → Engine) : (s.updEngine cl u).seals = s.seals := rfl
@[simp] theorem updEngine_logs (cl : Nat) (u : Engine → Engine) : (s.updEngine cl u).logs = s.logs := rfl
@[simp] theorem updEngine_groups (cl : Nat) (u : Engine → Engine) : (s.updEngine cl u).groups = s.groups := rfl
@[simp] theorem updEngine_ports (cl : Nat) (u : Engine → Engine) : (s.updEngine cl u).ports = s.ports := rfl
@[simp] theorem updEngine_coreMap (cl : Nat) (u : Engine → Engine) : (s.updEngine cl u).coreMap = s.coreMap := rfl
@[simp] theorem updEngine_clusterMap (cl : Nat) (u : Engine → Engine) : (s.updEngine cl u).clusterMap = s.clusterMap := rfl
@[simp] theorem updEngine_standby (cl : Nat) (u : Engine → Engine) : (s.updEngine cl u).standby = s.standby := rfl
@[simp] theorem updEngine_boot (cl : Nat) (u : Engine → Engine) : (s.updEngine cl u).boot = s.boot := rfl
@[simp] theorem updEngine_cohort (cl : Nat) (u : Engine → Engine) : (s.updEngine cl u).cohort = s.cohort := rfl
@[simp] theorem updEngine_cecnt (cl : Nat) (u : Engine → Engine) : (s.updEngine cl u).cecnt = s.cecnt := rfl
@[simp] theorem updEngine_uecnt (cl : Nat) (u : Engine → Engine) : (s.updEngine cl u).uecnt = s.uecnt := rfl
@[simp] theorem updEngine_uekind (cl : Nat) (u : Engine → Engine) : (s.updEngine cl u).uekind = s.uekind := rfl
@[simp] theorem updEngine_ueloc (cl : Nat) (u : Engine → Engine) : (s.updEngine cl u).ueloc = s.ueloc := rfl
@[simp] theorem updEngine_corrected (cl : Nat) (u : Engine → Engine) : (s.updEngine cl u).corrected = s.corrected := rfl
@[simp] theorem updEngine_freeCount (cl : Nat) (u : Engine → Engine) : (s.updEngine cl u).freeCount = s.freeCount := rfl

/-! ### Composition of updates -/

@[simp] theorem mapCur_mapCur (f g : Ctx → Ctx) : (s.mapCur f).mapCur g = s.mapCur fun c => g (f c) := rfl

theorem put_eq_mapCur (lat : Nat) (ws : List RegWrite) (bp : Option BpVal) (ev : Ev) :
    s.put lat ws bp ev = s.mapCur fun c => c.put s.issue s.cur.sp.scnt.toNat lat ws bp ev := rfl

/-- Raising events leaves a result that writes nothing, or nothing at all. -/
theorem raise_eq (ev : Ev) : ∃ l, s.raise ev = s.mapCur fun c => { c with flight := c.flight ++ l } := by
  unfold State.raise
  split
  · exact ⟨[], by simp [State.mapCur]⟩
  · exact ⟨_, rfl⟩

/-- Reading an empty bypass raises its event and changes nothing else. -/
theorem ebp_eq (ss : List SReg) (vs : List VReg) : ∃ l, s.ebp ss vs = s.mapCur fun c => { c with flight := c.flight ++ l } := by
  unfold State.ebp
  split
  · exact raise_eq s _
  · exact ⟨[], by simp [State.mapCur]⟩

/-- Asking for a bank changes the requests of the tick and nothing else. -/
theorem lsReq_eq (kind key addr len : Nat) (w : Bool) : ∃ l, s.lsReq kind key addr len w = { s with lsReqs := s.lsReqs ++ l } := by
  unfold State.lsReq
  split
  · exact ⟨[], by simp⟩
  · exact ⟨_, rfl⟩

/-! ### Contexts -/

@[simp] theorem ctx_focus : s.ctx s.focus = s.cur := by simp [State.ctx]

@[simp] theorem setCtx_focus (c : Ctx) : s.setCtx s.focus c = { s with cur := c } := by simp [State.setCtx]

theorem setCtx_other {k : Nat} (c : Ctx) (h : k ≠ s.focus) : s.setCtx k c = { s with others := s.others.set k c } := by simp [State.setCtx, h]

@[simp] theorem focusOn_self : s.focusOn s.focus = s := by simp [State.focusOn]

/-- Setting a context changes only contexts. -/
theorem setCtx_eq (k : Nat) (c : Ctx) : ∃ d o, s.setCtx k c = { s with cur := d, others := o } := by
  unfold State.setCtx
  split
  · exact ⟨_, _, rfl⟩
  · exact ⟨_, _, rfl⟩

theorem updKeys_eq (f : Ctx → Ctx) : ∀ (ks : List Nat) (s : State), ∃ d o, s.updKeys ks f = { s with cur := d, others := o }
  | [], s => ⟨s.cur, s.others, rfl⟩
  | k :: ks, s => by
    obtain ⟨d, o, h⟩ := setCtx_eq s k (f (s.ctx k))
    obtain ⟨d', o', h'⟩ := updKeys_eq f ks { s with cur := d, others := o }
    refine ⟨d', o', ?_⟩
    show (s.setCtx k (f (s.ctx k))).updKeys ks f = _
    rw [h, h']

/-- A guard that does not hold: nothing happens; one that holds: the meaning. -/
theorem when_on {g : Guard} {k : Out} (h : s.on g = true) : s.when g k = k := by simp [State.when, h]

theorem when_off {g : Guard} {k : Out} (h : s.on g = false) : s.when g k = .next s := by simp [State.when, h]

end Sys2Proof.Laws
end

