-- ==== Sys2Proof/Laws/Tables.lean ====
section
/-! SUPPORT. Laws of the keyed tables: a read after a change, and which entries a changed table has. -/
namespace Sys2Proof.Laws
open Machine

variable {α : Type}

theorem get?_cons (j : Nat) (w : α) (r : Tab α) (x : Nat) : Tab.get? ((j, w) :: r) x = if j = x then some w else Tab.get? r x := by
  by_cases h : j = x
  · simp [Tab.get?, List.find?, h]
  · have : (j == x) = false := by simpa using h
    simp [Tab.get?, List.find?, this, h]

theorem get?_set (t : Tab α) (k x : Nat) (v : α) : (t.set k v).get? x = if x = k then some v else t.get? x := by
  induction t with
  | nil =>
    simp only [Tab.set, get?_cons, eq_comm (a := k)]
  | cons e r ih =>
    obtain ⟨j, w⟩ := e
    simp only [Tab.set]
    split
    · rw [get?_cons]; simp only [eq_comm (a := k)]
    · split
      · next h =>
        subst h
        rw [get?_cons, get?_cons]
        by_cases e : k = x
        · simp [e]
        · simp [e, Ne.symm e]
      · next h =>
        rw [get?_cons, get?_cons, ih]
        by_cases e : x = k
        · subst e; simp [Ne.symm h]
        · simp [e]

@[simp] theorem get?_set_same (t : Tab α) (k : Nat) (v : α) : (t.set k v).get? k = some v := by simp [get?_set]

theorem get?_set_other (t : Tab α) {k x : Nat} (v : α) (h : x ≠ k) : (t.set k v).get? x = t.get? x := by simp [get?_set, h]

theorem get?_del (t : Tab α) (k x : Nat) : (t.del k).get? x = if x = k then none else t.get? x := by
  induction t with
  | nil => simp [Tab.del, Tab.get?]
  | cons e r ih =>
    obtain ⟨j, w⟩ := e
    by_cases h : j = k
    · have : Tab.del ((j, w) :: r) k = Tab.del r k := by simp [Tab.del, h]
      rw [this, ih, get?_cons]
      by_cases e : x = k
      · simp [e]
      · simp [e, h, Ne.symm e]
    · have : Tab.del ((j, w) :: r) k = (j, w) :: Tab.del r k := by simp [Tab.del, h]
      rw [this, get?_cons, get?_cons, ih]
      by_cases e : x = k
      · subst e; simp [h]
      · simp [e]

@[simp] theorem get?_del_same (t : Tab α) (k : Nat) : (t.del k).get? k = none := by simp [get?_del]

theorem mem_set {t : Tab α} {k : Nat} {v : α} {e : Nat × α} (h : e ∈ t.set k v) : e = (k, v) ∨ e ∈ t := by
  induction t with
  | nil => exact Or.inl (List.mem_singleton.mp h)
  | cons x r ih =>
    obtain ⟨j, w⟩ := x
    simp only [Tab.set] at h
    split at h
    · exact (List.mem_cons.mp h).imp id id
    · split at h
      · exact (List.mem_cons.mp h).imp id (List.mem_cons_of_mem _)
      · rcases List.mem_cons.mp h with h | h
        · exact Or.inr (h ▸ List.mem_cons_self)
        · exact (ih h).imp id (List.mem_cons_of_mem _)

theorem mem_del {t : Tab α} {k : Nat} {e : Nat × α} (h : e ∈ t.del k) : e ∈ t := (List.mem_filter.mp h).1

theorem mem_of_get? {t : Tab α} {k : Nat} {v : α} (h : t.get? k = some v) : (k, v) ∈ t := by
  induction t with
  | nil => simp [Tab.get?] at h
  | cons e r ih =>
    obtain ⟨j, w⟩ := e
    rw [get?_cons] at h
    split at h
    · next e => subst e; cases h; exact List.mem_cons_self
    · exact List.mem_cons_of_mem _ (ih h)

/-- What holds of every entry, and of the new one, holds of every entry of the changed table. -/
theorem all_set {p : Nat × α → Prop} {t : Tab α} {k : Nat} {v : α} (h : ∀ e ∈ t, p e) (n : p (k, v)) : ∀ e ∈ t.set k v, p e := fun e m =>
  (mem_set m).elim (fun e => e ▸ n) (h e)

theorem all_del {p : Nat × α → Prop} {t : Tab α} {k : Nat} (h : ∀ e ∈ t, p e) : ∀ e ∈ t.del k, p e := fun e m => h e (mem_del m)

end Sys2Proof.Laws
end

