-- ==== Sys2Proof/Laws/Sound.lean ====
section
/-! SUPPORT. Soundness of a state: what it rests on, and that each shared operation keeps it. -/
namespace Sys2Proof.Laws
open Machine

/-! ### Contexts -/

/-- Soundness of a context rests on its LS, its rounding mode and its scalar registers. -/
theorem ctx_sound_of {c d : Ctx} (h : c.sound) (ls : d.ls = c.ls) (rm : d.sp.rmode = c.sp.rmode) (sr : d.regs.s = c.regs.s) : d.sound := by
  unfold Ctx.sound at *
  rw [ls, rm, sr]
  exact h

theorem ofKey_sound (k : Nat) : (Ctx.ofKey k).sound := by
  unfold Ctx.ofKey
  split
  · exact ⟨rfl, (by decide : (0#3).toNat < 5), rfl⟩
  · split
    · exact ⟨rfl, (by decide : (0#3).toNat < 5), rfl⟩
    · split <;> exact ⟨rfl, (by decide : (0#3).toNat < 5), rfl⟩

theorem s0_set {v : Vector Word64 64} {n : Fin 64} (x : Word64) (h : v.get 0 = 0) (ne : n ≠ 0) : (v.set n x).get 0 = 0 := by
  have : n.val ≠ 0 := fun e => ne (Fin.ext e)
  show (v.set n.val x n.isLt)[0] = 0
  rw [Vector.getElem_set_ne (h := this)]
  exact h

/-- Every write of a result keeps a context sound: s0 takes none, and a code that is no rounding mode is not kept. -/
theorem apply_sound {c : Ctx} (w : RegWrite) (h : c.sound) : (w.apply c).sound := by
  cases w with
  | sreg n v =>
    show (if n = 0 then c else _).sound
    split
    · exact h
    · next ne => exact ⟨h.1, h.2.1, s0_set v h.2.2 ne⟩
  | special n v =>
    unfold RegWrite.apply
    dsimp only
    split <;> first
      | exact h
      | exact ⟨h.1, h.2.1, h.2.2⟩
      | (refine ⟨h.1, ?_, h.2.2⟩
         show (if v.toNat % 8 < 5 then v.truncate 3 else 0 : BitVec 3).toNat < 5
         split
         · next lt => simpa using lt
         · decide)
  | _ => exact ⟨h.1, h.2.1, h.2.2⟩

theorem foldl_apply_sound : ∀ (ws : List RegWrite) {c : Ctx}, c.sound → (ws.foldl (fun c w => w.apply c) c).sound
  | [], _, h => h
  | w :: ws, _, h => foldl_apply_sound ws (apply_sound w h)

theorem event_rmode (p : Specials) (a : Word64) (pos : Fin 8) (ev : Ev) : (p.event a pos ev).rmode = p.rmode := by
  unfold Specials.event
  repeat' split
  all_goals rfl

theorem landOne_sound {c : Ctx} (r : Result) (h : c.sound) : (c.landOne r).sound :=
  ctx_sound_of (foldl_apply_sound r.writes h) rfl (event_rmode ..) rfl

theorem foldl_landOne_sound : ∀ (l : List Result) {c : Ctx}, c.sound → (l.foldl Ctx.landOne c).sound
  | [], _, h => h
  | r :: l, _, h => foldl_landOne_sound l (landOne_sound r h)

theorem landDue_sound {c : Ctx} (h : c.sound) : c.landDue.sound := foldl_landOne_sound _ (ctx_sound_of h rfl rfl rfl)

theorem landTick_sound {c : Ctx} (h : c.sound) : c.landTick.sound := landDue_sound (ctx_sound_of (landDue_sound h) rfl rfl rfl)

theorem landAll_sound : ∀ (n : Nat) {c : Ctx}, c.sound → (c.landAll n).sound
  | 0, _, h => h
  | n + 1, c, h => by
    unfold Ctx.landAll
    split
    · exact h
    · exact landAll_sound n (landTick_sound h)

theorem stop_sound {c : Ctx} (h : c.sound) : c.stop.sound := ctx_sound_of h rfl rfl rfl

theorem put_ctx_sound {c : Ctx} (i : Issue) (born lat : Nat) (ws : List RegWrite) (bp : Option BpVal) (ev : Ev) (compat : Bool) (acc : Option (Fin 4))
    (h : c.sound) : (c.put i born lat ws bp ev compat acc).sound := ctx_sound_of h rfl rfl rfl

theorem setProd_sound {c : Ctx} (p : Option (Fin 63)) (v : Tok) (h : c.sound) : (c.setProd p v).sound := by
  cases p <;> exact ctx_sound_of h rfl rfl rfl

theorem tokDone_sound {c : Ctx} (n : Nat) (p : Option (Fin 63)) (h : c.sound) : (c.tokDone n p).sound := by
  unfold Ctx.tokDone
  split
  · exact setProd_sound p _ h
  · split <;> exact ctx_sound_of h rfl rfl rfl

theorem sdst_sound {c : Ctx} (d : SDst) (v : Word64) (h : c.sound) : (d.write v c).sound := by
  cases d with
  | s n => exact apply_sound _ h
  | a n => exact apply_sound _ h
  | none => exact h

theorem writeVec_sound {c : Ctx} (d : Option (Fin 640)) (v : Vec) (h : c.sound) : (writeVec d v c).sound := by
  cases d <;> exact ctx_sound_of h rfl rfl rfl

/-! ### States -/

/-- Soundness of a state rests on its memories, its contexts and the saved contexts of its grids. -/
theorem sound_of {s t : State} (h : s.sound) (m : t.mem = s.mem) (hm : t.hostMem = s.hostMem) (c : t.cur = s.cur) (o : t.others = s.others)
    (g : t.grids = s.grids) : t.sound := by
  unfold State.sound at *
  rw [m, hm, c, o, g]
  exact h

theorem cur_sound {s : State} (h : s.sound) : s.cur.sound := h.2.2.1

/-- A state that differs from a sound one in its focused context. -/
theorem sound_cur {s : State} {c : Ctx} (h : s.sound) (k : c.sound) : State.sound { s with cur := c } := ⟨h.1, h.2.1, k, h.2.2.2.1, h.2.2.2.2⟩

theorem sound_grids {s : State} {g : Tab Grid} (h : s.sound) (k : ∀ e ∈ g, e.2.sound) : State.sound { s with grids := g } :=
  ⟨h.1, h.2.1, h.2.2.1, h.2.2.2.1, k⟩

theorem mapCur_sound {s : State} {f : Ctx → Ctx} (h : s.sound) (k : (f s.cur).sound) : (s.mapCur f).sound := sound_cur h k

/-- A change of the focused context that leaves its LS, its mode and its scalar registers alone. -/
theorem mapCur_sound_of {s : State} {f : Ctx → Ctx} (h : s.sound) (ls : (f s.cur).ls = s.cur.ls) (rm : (f s.cur).sp.rmode = s.cur.sp.rmode)
    (sr : (f s.cur).regs.s = s.cur.regs.s) : (s.mapCur f).sound := mapCur_sound h (ctx_sound_of (cur_sound h) ls rm sr)

theorem ctx_sound {s : State} (k : Nat) (h : s.sound) : (s.ctx k).sound := by
  unfold State.ctx
  split
  · exact cur_sound h
  · cases e : s.others.get? k with
    | none => exact ofKey_sound k
    | some c => exact h.2.2.2.1 _ (mem_of_get? e)

theorem setCtx_sound {s : State} (k : Nat) {c : Ctx} (h : s.sound) (hc : c.sound) : (s.setCtx k c).sound := by
  unfold State.setCtx
  split
  · exact sound_cur h hc
  · exact ⟨h.1, h.2.1, h.2.2.1, all_set h.2.2.2.1 hc, h.2.2.2.2⟩

theorem updCtx_sound {s : State} (k : Nat) {f : Ctx → Ctx} (h : s.sound) (hf : ∀ c : Ctx, c.sound → (f c).sound) : (s.updCtx k f).sound :=
  setCtx_sound k h (hf _ (ctx_sound k h))

theorem updKeys_sound {f : Ctx → Ctx} (hf : ∀ c : Ctx, c.sound → (f c).sound) : ∀ (ks : List Nat) {s : State}, s.sound → (s.updKeys ks f).sound
  | [], _, h => h
  | k :: ks, _, h => updKeys_sound hf ks (updCtx_sound k h hf)

theorem focusOn_sound {s : State} (k : Nat) (h : s.sound) : (s.focusOn k).sound := by
  unfold State.focusOn
  split
  · exact h
  · next ne =>
    refine ⟨h.1, h.2.1, ?_, all_set (all_del h.2.2.2.1) (cur_sound h), h.2.2.2.2⟩
    cases e : s.others.get? k with
    | none => exact ofKey_sound k
    | some c => exact h.2.2.2.1 _ (mem_of_get? e)

theorem updGrid_sound {s : State} (g : Nat) {f : Grid → Grid} (h : s.sound) (hf : ∀ x : Grid, x.sound → (f x).sound) : (s.updGrid g f).sound := by
  unfold State.updGrid
  split
  · next x e => exact sound_grids h (all_set h.2.2.2.2 (hf x (h.2.2.2.2 _ (mem_of_get? e))))
  · exact h

/-! ### Shared operations -/

theorem put_sound {s : State} (lat : Nat) (ws : List RegWrite) (bp : Option BpVal) (ev : Ev) (h : s.sound) : (s.put lat ws bp ev).sound :=
  sound_cur h (put_ctx_sound _ _ _ _ _ _ _ _ (cur_sound h))

theorem raise_sound {s : State} (ev : Ev) (h : s.sound) : (s.raise ev).sound := by
  obtain ⟨l, e⟩ := raise_eq s ev
  rw [e]
  exact mapCur_sound_of h rfl rfl rfl

theorem ebp_sound {s : State} (ss : List SReg) (vs : List VReg) (h : s.sound) : (s.ebp ss vs).sound := by
  obtain ⟨l, e⟩ := ebp_eq s ss vs
  rw [e]
  exact mapCur_sound_of h rfl rfl rfl

theorem hold_sound {s : State} (x : Hold) (h : s.sound) : (s.hold x).sound := mapCur_sound_of h rfl rfl rfl

theorem jump_sound {s : State} (a : Word64) (n : Nat) (h : s.sound) : (s.jump a n).sound := mapCur_sound_of h rfl rfl rfl

theorem lsReq_sound {s : State} (kind key addr len : Nat) (w : Bool) (h : s.sound) : (s.lsReq kind key addr len w).sound := by
  obtain ⟨l, e⟩ := lsReq_eq s kind key addr len w
  rw [e]
  exact sound_of h rfl rfl rfl rfl rfl

theorem lsWrite_sound {s : State} (a : Nat) (bs : List Byte) (h : s.sound) : (s.lsWrite a bs).sound :=
  mapCur_sound h ⟨writeN_wf bs a (cur_sound h).1, (cur_sound h).2⟩

theorem lsWriteOf_sound {s : State} (k a : Nat) (bs : List Byte) (h : s.sound) : (s.lsWriteOf k a bs).sound :=
  updCtx_sound k h fun _ hc => ⟨writeN_wf bs a hc.1, hc.2⟩

theorem updFunc_sound {s : State} (n : Nat) (u : Func → Func) (h : s.sound) : (s.updFunc n u).sound := sound_of h rfl rfl rfl rfl rfl
theorem updQueue_sound {s : State} (q : Nat) (u : Queue → Queue) (h : s.sound) : (s.updQueue q u).sound := sound_of h rfl rfl rfl rfl rfl
theorem updEngine_sound {s : State} (cl : Nat) (u : Engine → Engine) (h : s.sound) : (s.updEngine cl u).sound := sound_of h rfl rfl rfl rfl rfl
theorem draw_sound {s : State} (h : s.sound) : s.draw.sound := sound_of h rfl rfl rfl rfl rfl
theorem countBytes_sound {s : State} (c : BitVec 8) (b : Fin 64) (n : Nat) (h : s.sound) : (s.countBytes c b n).sound := sound_of h rfl rfl rfl rfl rfl
theorem countStall_sound {s : State} (c : BitVec 8) (b : Fin 64) (h : s.sound) : (s.countStall c b).sound := sound_of h rfl rfl rfl rfl rfl
theorem pushStore_sound {s : State} (sc : Scope) (pa : Nat) (bs : List Byte) (b : Fin 64) (op : Option AmoOp) (first : Option Nat) (h : s.sound) :
    (s.pushStore sc pa bs b op first).sound :=
  sound_of h rfl rfl rfl rfl rfl
theorem out_sound {s : State} (o : OutOp) (h : s.sound) : (s.out o).sound :=
  sound_of (mapCur_sound_of (f := fun c => { c with outst := c.outst ++ [⟨o, s.issue.addr, s.issue.pos, s.reqs, none⟩] }) h rfl rfl rfl) rfl rfl rfl rfl rfl

theorem pwrite_sound {s : State} (pa : Nat) (bs : List Byte) (h : s.sound) : (s.pwrite pa bs).sound := by
  unfold State.pwrite
  split
  · exact updFunc_sound _ _ h
  · split
    · exact ⟨h.1, writeN_wf bs pa h.2.1, h.2.2⟩
    · exact ⟨writeN_wf bs pa h.1, h.2⟩

/-! ### Taking a fault -/

theorem endGrid_sound {s : State} (gid : Nat) (rec_ : List Word64) (h : s.sound) : (s.endGrid gid rec_).sound := by
  unfold State.endGrid
  split
  · exact h
  · next g e =>
    split
    · refine updKeys_sound (fun _ => stop_sound) _ ?_
      exact ⟨h.1, h.2.1, h.2.2.1, h.2.2.2.1, all_set h.2.2.2.2 (fun x hx => h.2.2.2.2 _ (mem_of_get? e) x hx)⟩
    · exact h

theorem endGrids_sound (f : State → Nat → List Word64) : ∀ (l : List Nat) {s : State}, s.sound → (l.foldl (fun s g => s.endGrid g (f s g)) s).sound
  | [], _, h => h
  | g :: l, s, h => endGrids_sound f l (endGrid_sound g (f s g) h)

theorem kioskHalt_sound {s : State} (f : FaultWords) (h : s.sound) : (s.kioskHalt f).sound :=
  endGrids_sound (fun t g => kioskRecord t s.cur.gid g f) _ (mapCur_sound h (ctx_sound_of (stop_sound (cur_sound h)) rfl rfl rfl))

/-- Taking a fault keeps a state sound. -/
theorem takeFault_sound {s : State} (f : FaultWords) (h : s.sound) : (s.takeFault f).sound := by
  have h' : State.sound { s with trap := some f } := sound_of h rfl rfl rfl rfl rfl
  have hs := mapCur_sound (f := Ctx.stop) h' (stop_sound (cur_sound h'))
  unfold State.takeFault
  dsimp only
  split
  · split
    · exact endGrid_sound _ _ hs
    · exact hs
  · exact kioskHalt_sound f h'

/-- A meaning that takes a fault answers a next state, and a sound one. -/
theorem fault_sound {s t : State} {code : Nat} {d0 d1 : Word64} (h : s.sound) (e : s.fault code d0 d1 = .next t) : t.sound := by
  cases e
  exact takeFault_sound _ h

theorem fail_sound {s t : State} {f : Flt} (h : s.sound) (e : s.fail f = .next t) : t.sound := by
  unfold State.fail at e
  split at e
  · cases e
    exact h
  · exact fault_sound h e

theorem failAt_sound {s t : State} {f : Flt} {a : Word64} {p : Fin 8} (h : s.sound) (e : s.failAt f a p = .next t) : t.sound := by
  cases e
  exact takeFault_sound _ h

theorem illegal_sound {s t : State} (h : s.sound) (e : s.illegal = .next t) : t.sound := fault_sound h e

/-- A guarded meaning keeps soundness where the meaning does. -/
theorem when_sound {s t : State} {g : Guard} {k : Out} (h : s.sound) (e : s.when g k = .next t) (hk : k = .next t → t.sound) : t.sound := by
  unfold State.when at e
  split at e
  · exact hk e
  · cases e
    exact h

/-! ### Requests that perform -/

theorem perform_sound {s : State} (u : Store) (h : s.sound) : (s.perform u).sound := by
  unfold State.perform
  split <;> exact countBytes_sound _ _ _ (pwrite_sound _ _ h)

theorem readParts_sound {s : State} (core seq : Nat) (c : BitVec 8) (ps : List (Nat × Nat × Fin 64)) (h : s.sound) : (s.readParts core seq c ps).1.sound := by
  unfold State.readParts
  dsimp only
  have go : ∀ (ps : List (Nat × Nat × Fin 64)) (s : State), s.sound → (ps.foldl (fun s p => s.countBytes c p.2.2 p.2.1) s).sound := by
    intro ps
    induction ps with
    | nil => exact fun _ h => h
    | cons p l ih => exact fun s h => ih _ (countBytes_sound _ _ _ h)
  exact go ps s h

theorem lanes64_sound {s : State} (c : BitVec 8) (op : AmoOp) (pas : List Pa) (v : Vec) (h : s.sound) : (s.lanes64 c op pas v).1.sound := by
  unfold State.lanes64
  dsimp only
  have go : ∀ (l : List (Pa × Nat)) (r : State × List (List Byte)), r.1.sound → (l.foldl (fun (r : State × List (List Byte)) (x : Pa × Nat) =>
      ((r.1.pwrite x.1.1 (bytesOfNat 4 (amoOp op (BitVec.ofNat 32 (leNat (r.1.pread x.1.1 4))) (v.get (Fin.ofNat 64 x.2))).toNat)).countBytes c x.1.2 4,
        r.1.pread x.1.1 4 :: r.2)) r).1.sound := by
    intro l
    induction l with
    | nil => exact fun _ h => h
    | cons x l ih => exact fun r h => ih _ (countBytes_sound _ _ _ (pwrite_sound _ _ h))
  exact go _ (s, []) h

theorem performOut_sound {s : State} (core : Nat) (c : BitVec 8) (o : Outst) (h : s.sound) : (s.performOut core c o).1.sound := by
  unfold State.performOut
  split
  · exact countBytes_sound _ _ _ (pwrite_sound _ _ h)
  · exact lanes64_sound _ _ _ _ h
  · exact readParts_sound _ _ _ _ h

theorem performReq_sound {s : State} (r : Req) (h : s.sound) : (s.performReq r).sound := by
  unfold State.performReq
  split
  · split
    · exact perform_sound _ (sound_of h rfl rfl rfl rfl rfl)
    · exact h
  · dsimp only
    split
    · exact h
    · exact updCtx_sound _ (performOut_sound _ _ _ h) fun _ hc => ctx_sound_of hc rfl rfl rfl

theorem foldl_performReq_sound : ∀ (l : List Req) {s : State}, s.sound → (l.foldl State.performReq s).sound
  | [], _, h => h
  | r :: l, _, h => foldl_performReq_sound l (performReq_sound r h)

theorem performBefore_sound {s : State} (core : Nat) (r : Req) (h : s.sound) : (s.performBefore core r).sound := foldl_performReq_sound _ h

theorem performTo_sound {s : State} (core seq : Nat) (h : s.sound) : (s.performTo core seq).sound := by
  unfold State.performTo
  split
  · exact h
  · exact performReq_sound _ (performBefore_sound _ _ h)

theorem performAll_sound {s : State} (hit : Store → Bool) (h : s.sound) : (s.performAll hit).sound := by
  unfold State.performAll
  have go : ∀ (l : List Store) (s : State), s.sound → (l.foldl (fun s u => s.performTo u.core u.seq) s).sound := by
    intro l
    induction l with
    | nil => exact fun _ h => h
    | cons u l ih => exact fun s h => ih _ (performTo_sound _ _ h)
  exact go _ s h

theorem drainCore_sound {s : State} (core : Nat) (h : s.sound) : (s.drainCore core).sound := performAll_sound _ h

theorem gload_sound {s : State} (pa n : Nat) (buf : Fin 64) (h : s.sound) : (s.gload pa n buf).1.sound :=
  countBytes_sound _ _ _ (performBefore_sound _ _ h)

end Sys2Proof.Laws
end

