-- ==== Sys2Proof/Tests/Slice0.lean ====
section
/-! SUPPORT. Tests of the model: ill-formed terms that the checks refuse, words written out from the spec's encodings, worked examples
of the spec, and for the hypotheses of every statement a state and operands that meet them together. -/
namespace Sys2Proof.Tests
open Machine

/-! ### States that the tests start from -/

/-- Always; and never, p13 being all-false. -/
def g0 : Guard := ⟨0, false⟩
def gN : Guard := ⟨13, false⟩

/-- A context of compute core 0 that runs, with 4 KiB of LS, and no grid. -/
def w0 : State := { State.reset with cur := { State.reset.cur with run := .running, foot := 4096 } }

def sop (d a : Nat) (b : SrcB) : SOp := ⟨g0, .s (Fin.ofNat 64 d), .s (Fin.ofNat 64 a), b⟩
def sun : SUn := ⟨g0, .s 1, .s 2⟩
def sfp : SFp := ⟨g0, .s 1, .s 2, .s 3, .rne⟩

/-! ### Hypotheses: scalar instructions (07) -/

theorem witness_integer_rows : ([.add (sop 1 2 (.imm 3)), .sub (sop 1 2 (.imm 3)), .mul (sop 1 2 (.imm 3)), .mulh true (sop 1 2 (.imm 3)),
    .div false (sop 1 2 (.imm 0)), .rem true (sop 1 2 (.imm 3)), .and (sop 1 2 (.imm 3)), .or (sop 1 2 (.imm 3)), .xor (sop 1 2 (.imm 3)),
    .andn (sop 1 2 (.imm 3)), .shl (sop 1 2 (.imm 64)), .shr (sop 1 2 (.imm 63)), .sar (sop 1 2 (.imm 63)), .rotl (sop 1 2 (.imm 0)),
    .min true (sop 1 2 (.imm 3)), .max false (sop 1 2 (.imm 3)), .clz sun, .ctz sun, .popc sun, .sel (sop 1 2 (.imm 3)), .mov g0 (.s 0) (.imm 1),
    .movhi (sop 1 2 (.imm 3)), .extr true (sop 1 2 (.imm 3)), .insr (sop 1 2 (.imm 3)), .pcnt g0 (.s 1) 0, .pget g0 (.bpS) 63,
    .pfirst g0 (.a 15) 13] : List Instr).all (fun i => match Claim.intRow w0 i with | some r => w0.on r.g | none => false) = true := by decide

theorem witness_predicate_rows : ([.cmp g0 13 .lt (.s 1) (.imm 0), .plog g0 .nor 63 0 13, .pset g0 32 (.imm 5), .fcmp g0 13 .eq (.s 0) (.s 0)]
    : List Instr).all (fun i => match Claim.predRow w0 i with | some r => w0.on r.g | none => false) = true := by decide

theorem witness_float_rows : ([.fadd sfp, .fsub sfp, .fmul sfp, .fma sfp, .fdiv sfp, .fsqrt g0 (.s 1) (.s 2) .dyn, .fcvt g0 .toi .rtz (.s 1) (.s 2),
    .fmin g0 (.s 1) (.s 2) (.s 3), .fmax g0 (.s 1) (.s 2) (.s 3)] : List Instr).all
    (fun i => match Claim.fpRow w0 i with | some r => w0.on r.g | none => false) = true := by decide

theorem witness_special_reads : ([0x000, 0x019, 0x040, 0x07F, 0x080, 0x0BF].all fun n => (Claim.specialRow w0 n).isSome) = true ∧ w0.on g0 = true := by
  decide

theorem witness_special_writes : (Claim.specialSet 0x012 (w0.rs (.s 1)) w0.cur.sp).isSome = true
    ∧ (Claim.specialSet 0x017 (w0.rs (.s 1)) w0.cur.sp).isSome = true ∧ (Claim.specialSet 0x018 (w0.rs (.s 1)) w0.cur.sp).isSome = false
    ∧ (Claim.specialRow w0 0x018).isSome = true := by decide

theorem witness_special_faults : w0.cur.kind = .compute ∧ (0x100 : Fin 512).val ≥ 0x100 ∧ (0x01A : Fin 512).val = 0x01A
    ∧ (0x0FF : Fin 512).val = 0x0FF := by decide

/-- A kiosk core of die 1, the management core and the standby core. -/
def at_ (key : Nat) : State := { State.reset with cur := { Ctx.ofKey key with run := .running }, focus := key }

theorem witness_kiosk_specials : ((at_ 2080).cur.kind = .kiosk ∧ (at_ 2080).cur.gid < 128 ∧ (at_ 2080).cur.gid / 32 = 1)
    ∧ (at_ 2176).cur.kind = .management ∧ (at_ 2177).cur.kind = .standby
    ∧ ([0x000, 0x00D, 0x00F, 0x019, 0x020, 0x025, 0x040, 0x0BF].all fun n => (Claim.kioskRow (at_ 2080) 1 1056 n).isSome) = true
    ∧ (Claim.kioskSet 0x023 7 (at_ 2080).cur).isSome = true ∧ Claim.kioskSet 0x014 7 (at_ 2080).cur = none
    ∧ Claim.kioskRow (at_ 2080) 1 1056 0x01A = none ∧ Claim.kioskRow (at_ 2080) 1 1056 0x100 = none := by decide +kernel

theorem witness_firmware_specials : ((0x100 : Fin 512).val ≥ 0x100 ∧ (0x104 : Fin 512).val ≤ 0x104 ∧ 0x104 < (0x105 : Fin 512).val)
    ∧ (at_ 2176).on g0 = true ∧ (at_ 2177).on g0 = true := by decide

theorem witness_stream_rows : ([.strb g0 0 (.imm 1), .strs g0 15 5 (.imm 1), .strz g0 0, .rotx g0 true, .rfnorm g0 (.s 1)] : List Instr).all
    (fun i => match Claim.streamRow w0 i with | some r => w0.on r.1 | none => false) = true := by decide

/-- A nest of two iterations whose body is one bundle; issue stands after it. -/
def nest0 : Nest := ⟨2, true, 1, Vector.replicate 6 0, [⟨8, [0]⟩], 1, 16⟩
def wNest : State := { w0 with cur := { w0.cur with loop := ⟨Vector.replicate 6 none, some nest0, none⟩ } }

theorem witness_branches : w0.on g0 = true ∧ w0.cur.loop.nest = none ∧ (w0.rs (.s 1)).toNat % 8 = 0 := by decide

theorem witness_branch_misaligned : let s : State := { w0 with cur := { w0.cur with regs := { w0.cur.regs with s := w0.cur.regs.s.set (1 : Fin 64) 4 } } }
    s.on g0 = true ∧ s.cur.loop.nest = none ∧ (s.rs (.s 1)).toNat % 8 ≠ 0 := by decide

theorem witness_nest_faults : wNest.on g0 = true ∧ wNest.on gN = false ∧ wNest.cur.loop.nest.isSome = true ∧ wNest.trap = none := by decide

def loop0 (l : Fin 6) (n : BitVec 16) : LoopOp := ⟨g0, l, .imm n, 0, l == 0, 0⟩

theorem witness_loops : w0.on g0 = true ∧ w0.cur.loop.nest = none ∧ Claim.loopCount w0 (.imm 65535) ≤ 65535 ∧ Claim.loopCount w0 (.imm 0) = 0
    ∧ some 0 ∉ w0.cur.loop.armed.toList := by decide

theorem witness_loop_too_long : let s : State := { w0 with cur := { w0.cur with regs := { w0.cur.regs with s := w0.cur.regs.s.set (1 : Fin 64) 65536 } } }
    Claim.loopCount s (.sreg 1) > 65535 := by decide

theorem witness_back_edge : wNest.cur.loop.nest = some nest0 ∧ nest0.body.length ≤ nest0.idx ∧ nest0.lc.get 0 + 1 < nest0.c0 + nest0.drain := by decide

theorem witness_back_edge_ends : let n : Nest := { nest0 with lc := nest0.lc.set (0 : Fin 6) 2 }
    ¬ (n.lc.get 0 + 1 < n.c0 + n.drain) ∧ w0.cur.loop.armed = Vector.replicate 6 none := by decide

/-- A rotating nest, and results of which the second moves a rotating base. -/
def turn0 : Result := ⟨1, [.rotate true], none, 0, 0, 0, 0, false, none⟩
def plain0 : Result := ⟨1, [.sreg 1 2], none, 0, 0, 0, 0, false, none⟩

theorem witness_back_edge_turns : turn0.writes = [.rotate true] ∧ Claim.rotates turn0 ∧ turn0.bp = none ∧ turn0.events = 0
    ∧ ([plain0, turn0] : List Result) = [plain0] ++ turn0 :: [] ∧ ∀ x ∈ [plain0] ++ [], ¬ Claim.rotates x := by
  refine ⟨rfl, ⟨_, List.mem_singleton.mpr rfl, .inl ⟨true, rfl⟩⟩, rfl, rfl, rfl, fun x h => ?_⟩
  obtain rfl : x = plain0 := by simpa using h
  simp [Claim.rotates, plain0]

theorem none_armed : ∀ k : Fin 6, (Vector.replicate 6 (none : Option Nat)).get k = none := by decide

theorem witness_left : Claim.left (Vector.replicate 6 none) nest0 0 ∧ (∀ j : Fin 6, j < 0 → ¬ Claim.left (Vector.replicate 6 none) nest0 j)
    ∧ (∀ k, ¬ Claim.left (Vector.replicate 6 none) { nest0 with lc := nest0.lc.set (0 : Fin 6) 2 } k) := by
  have out : ∀ (n : Nest) (k : Fin 6), k ≠ 0 → ¬ Claim.left (Vector.replicate 6 none) n k := by
    intro n k hk h
    simp [Claim.left, hk, none_armed] at h
  refine ⟨?_, nofun, fun k => ?_⟩
  · show 0 + 1 < 2 + 1
    decide
  by_cases hk : k = 0
  · subst hk
    show ¬ 2 + 1 < 2 + 1
    decide
  · exact out _ k hk

/-- Within a body of two bundles; and a LEXIT at the end of the second, level 1 having an iteration left or being disarmed. -/
def nest2 : Nest := { nest0 with body := [⟨8, [0]⟩, ⟨16, [0]⟩], idx := 1 }
def loopAt (armed : Vector (Option Nat) 6) (l : Option (Fin 6)) : LoopState := ⟨armed, some nest2, l⟩

theorem witness_after_bundle : (loopAt (Vector.replicate 6 none) none).nest = some nest2 ∧ nest2.body = ⟨8, [0]⟩ :: [⟨16, [0]⟩]
    ∧ { nest2 with idx := 0 }.body[0 + 1]? = some ⟨16, [0]⟩ ∧ w0.cur.loop.nest = none ∧ 0 < nest2.c0
    ∧ (loopAt (Vector.replicate 6 none) (some 0)).lexit = some 0 ∧ ∀ r ∈ w0.cur.flight, ¬ Claim.rotates r :=
  ⟨rfl, rfl, rfl, rfl, by decide, rfl, fun _ h => absurd h List.not_mem_nil⟩

theorem witness_lexit : let armed : Vector (Option Nat) 6 := (Vector.replicate 6 none).set (1 : Fin 6) (some 3)
    ((0 : Fin 6) < 1 ∧ Claim.left armed nest2 1 ∧ ∀ i : Fin 6, i < 1 → ¬ ((0 : Fin 6) < i ∧ Claim.left armed nest2 i))
    ∧ ∀ j : Fin 6, ¬ ((0 : Fin 6) < j ∧ Claim.left (Vector.replicate 6 none) nest2 j) := by
  refine ⟨⟨by decide, ⟨3, by decide, by decide⟩, fun i hi h => ?_⟩, fun j h => ?_⟩
  · exact absurd h.1 (by omega)
  · have hj : j ≠ 0 := Fin.pos_iff_ne_zero.mp h.1
    simp [Claim.left, hj, none_armed] at h

/-! ### Hypotheses: grids, local and global memory, waits (02, 06, 07, 08) -/

def kcb0 : Kcb := ⟨false, false, 0, 4096, 1, 1, 1, 1, 1, 0, List.replicate 6 ⟨.unused, none, 1⟩⟩
def kcbE : Kcb := { kcb0 with elastic := true }

def grid0 : Grid where
  state := .running
  queue := 3
  seq := 7
  func := 1
  ctx := 5
  code := 0
  kcb := kcb0
  entry := 0x1000
  rngk := 0
  ptroot := 0
  pkt := []
  trips := []
  nc := 1
  nd := 1
  members := [⟨0, [0]⟩]
  keys := [0]
  ranges := []
  joined := []
  arrived := []
  point := []
  window := []
  released := []
  resume := none
  heard := []
  pkgHeard := []
  aovr := false
  early := true
  trig := false
  started := 0
  triggered := 0
  owed := []
  fault := none
  saved := []
  savedEng := []
  senders := []
  far := []
  sguard := false
  cores := []
  order := 0

/-- The context runs a strand of grid 7, timetabled; and of grid 7, elastic. -/
def wG : State := { w0 with grids := [(7, grid0)], cur := { w0.cur with grid := some 7, ctxId := 5 } }
def wE : State := { wG with grids := [(7, { grid0 with kcb := kcbE })], cur := { wG.cur with elastic := true } }

/-- A value in s1. -/
def withS1 (s : State) (v : Word64) : State := { s with cur := { s.cur with regs := { s.cur.regs with s := s.cur.regs.s.set (1 : Fin 64) v } } }

theorem witness_strand_control : wG.on g0 = true ∧ wG.cur.kind = .compute ∧ wG.cur.grid = some 7 ∧ wG.grids.get? 7 = some grid0
    ∧ wG.cur.elastic = false ∧ wE.cur.elastic = true ∧ (wE.grids.get? 7).isSome = true ∧ grid0.early = true ∧ grid0.trig = false
    ∧ (let k : State := { w0 with cur := { w0.cur with kind := .kiosk } }; k.cur.kind ≠ .compute ∧ k.cur.grid = none ∧ k.on g0 = true) := by decide

/-- Nothing of the context is outstanding; a store is; a remote access has not reached its LS. -/
def remote0 : LsPend := ⟨3, .remoteStore 1 0 Vec.zero, 0, 0, 0⟩
def asked0 : ElReq := ⟨.remote, 0, 0, 2, some 0, 0, 256, .access remote0⟩
def wStore : State := { wG with reqq := [⟨0, 0, 0, none, 0, [1], 0, 5, false, 0⟩] }

theorem witness_nothing_out : Claim.nothingOut wG ∧ Claim.nothingOut wE ∧ Claim.lsDone wG ∧ ¬ Claim.nothingOut wStore
    ∧ Claim.nothingOut { wG with cur := { wG.cur with lsPend := [remote0] } } ∧ ¬ Claim.lsDone { wG with cur := { wG.cur with lsPend := [remote0] } }
    ∧ ¬ Claim.nothingOut { wE with cur := { wE.cur with lsPend := [remote0] } } ∧ ¬ Claim.nothingOut { wE with elReqs := [asked0] }
    ∧ ¬ Claim.lsDone { wE with elReqs := [asked0] } := by
  refine ⟨⟨nofun, nofun, nofun⟩, ⟨nofun, nofun, nofun⟩, ⟨rfl, nofun⟩, fun h => h.1 _ List.mem_cons_self rfl, ⟨nofun, nofun, nofun⟩,
    fun h => absurd h.1 (List.cons_ne_nil _ _), fun h => absurd (h.2.2 rfl remote0 (List.mem_singleton.mpr rfl)) (by decide),
    fun h => absurd (h.2.1 asked0 (List.mem_singleton.mpr rfl) rfl remote0 rfl) (by decide),
    fun h => h.2 asked0 (List.mem_singleton.mpr rfl) rfl remote0 rfl⟩

/-- A legal refinement block at 0: one level with a limit of 1. -/
def wRf : State := { w0 with cur := { w0.cur with ls := (Memory.writeN [] 32 [1]).writeN 40 [1] } }

theorem witness_rfrun : let s := wRf
    s.on g0 = true ∧ s.cur.rf = none ∧ s.cur.loop.nest = none ∧ (s.rs (.s 0)).toNat % 128 = 0 ∧ (s.rs (.s 0)).toNat + 128 ≤ s.cur.foot := by decide

theorem witness_rfrun_block : let b := wordsOfBytes 16 (wRf.cur.ls.readN 0 128)
    (b.getD 4 0).toNat % 8 = 1 ∧ (b.getD 5 0).toNat % 2 ^ 16 ≠ 0 ∧ ∀ k, k < 4 → (b.getD k 0).toNat % 8 = 0 := by decide

theorem witness_rfrun_misaligned : let b := (wordsOfBytes 16 (wRf.cur.ls.readN 0 128)).set 2 4
    (b.getD 0 0).toNat % 8 = 0 ∧ (b.getD 1 0).toNat % 8 = 0 ∧ (b.getD 2 0).toNat % 8 ≠ 0 := by decide

theorem witness_rfrun_illegal : let s : State := { w0 with cur := { w0.cur with rf := some ⟨[], .solve, 0, 0, 0, false, 8⟩ } }
    s.on g0 = true ∧ s.cur.rf ≠ none := by decide

theorem witness_rfret : ∀ ph ∈ [RfPhase.refac, .solve, .resid, .handler],
    let s : State := { w0 with cur := { w0.cur with rf := some ⟨List.replicate 16 0, ph, 0, 0, 0, false, 8⟩ } }
    s.on g0 = true ∧ s.cur.loop.nest = none ∧ s.trap = none ∧ s.cur.rf = some ⟨List.replicate 16 0, ph, 0, 0, 0, false, 8⟩ := by decide

/-- The block of a run in its test after RESID: word 4 holds levels and flags, word 5 the limit; s0 holds the norm. -/
def rfAt (w3 w4 w5 : Word64) (normed : Bool) : Refine := ⟨[0, 0, 0, w3, w4, w5] ++ List.replicate 10 0, .resid, 0, 0, 0, normed, 8⟩
def wExit (r : Refine) (n : Word64) : State := { w0 with cur := { w0.cur with rf := some r, sp := { w0.cur.sp with rnorm := n } } }

/-- Over a bound of 0: a norm of 1 goes on below the limit and stagnates at it, a norm of 0 converges, and no norm diverges. -/
theorem witness_rf_exits : (Claim.rfExit (wExit (rfAt 0 1 5 true) (BitVec.ofNat 64 (1023 * 2 ^ 52))) (rfAt 0 1 5 true)).1 = none
    ∧ (Claim.rfExit (wExit (rfAt 0 1 1 true) (BitVec.ofNat 64 (1023 * 2 ^ 52))) (rfAt 0 1 1 true)).1 = some 1
    ∧ (Claim.rfExit (wExit (rfAt 0 1 5 true) 0) (rfAt 0 1 5 true)).1 = some 3
    ∧ (Claim.rfExit (wExit (rfAt 0 1 5 false) 0) (rfAt 0 1 5 false)).1 = some 2 := by decide +kernel

theorem witness_rf_escalates : let w4 : Word64 := BitVec.ofNat 64 (2 + 2 ^ 17)
    w4.getLsbD (15 + 2) = true ∧ 0 + 1 < w4.toNat % 8 ∧ ¬ ((1 : Word64).getLsbD (15 + 2) = true ∧ 0 + 1 < (1 : Word64).toNat % 8)
    ∧ (8 : Word64).toNat % 2 ^ 48 ≠ 0 ∧ (0 : Word64).toNat % 2 ^ 48 = 0 ∧ (1 : Word64).getLsbD 18 = false
    ∧ (BitVec.ofNat 64 (1 + 2 ^ 18)).getLsbD 18 = true := by decide

/-- Address forms of the LS and of global memory. -/
def aL (off : BitVec 16) : Addr := .lsA 0 off
def aG : Addr := .ltt 0 0
def lsc (off : BitVec 16) : LScalar := ⟨g0, .s 1, aL off, .d⟩
def lve (off : BitVec 16) : LVec := ⟨g0, .v 0, aL off⟩

theorem witness_local_rows : ([.lds (lsc 0), .sts (lsc 0), .ldv (lve 0), .stv (lve 0), .ldt (lve 0), .stt (lve 0), .ldvx .i8 (lve 0), .stvx .bf16 .rne (lve 0),
    .scl g0 0 (aL 0), .scs g0 0 (aL 0), .waita g0 .eq (.s 1) (aL 0), .amo g0 .add .c (.s 1) (aL 0) (.s 2), .cas g0 .c (.s 1) (aL 0) (.s 2)] : List Instr).all
    (fun i => match Claim.lsRow i with | some (g, _, _, _, _) => w0.on g | none => false) = true := by decide

theorem witness_local_faults : (w0.lsAddr (aL 4)).toNat % 8 ≠ 0 ∧ (w0.lsAddr (aL 4096)).toNat % 8 = 0 ∧ (w0.lsAddr (aL 4096)).toNat + 8 > w0.cur.foot := by decide

theorem witness_local_fits : Claim.fits w0 (aL 4088) 8 8 ∧ Claim.fits w0 (aL 3840) 256 64 ∧ Claim.fits w0 (aL 0) 4096 64 ∧ w0.cur.ls.wf = true := by decide

theorem witness_local_loads : ([.lds (lsc 0), .ldv (lve 0), .ldvx .i16 (lve 0), .scl g0 0 (aL 0)] : List Instr).all
    (fun i => (Claim.loaded w0 i (List.replicate 256 0)).isSome) = true := by decide

theorem witness_local_stores : ([.sts (lsc 0), .stv (lve 0), .scs g0 0 (aL 0), .stvx .i16 .rne (lve 0), .stvx .bf16 .rsto (lve 0)] : List Instr).all
    (fun i => (Claim.stored w0 i).isSome) = true := by decide

theorem witness_tlkp_hit : let c : Ctx := { w0.cur with tags := [(0, 0)] }
    c.tags.get? (8 * 0 + 0) = some (BitVec.ofNat 48 ((0 : Word64).toNat / 2 ^ 16)) := by decide

/-- A second core of the cluster with a context of the grid. -/
def wPeer : State := { wG with
  grids := [(7, { grid0 with keys := [0, 2] })]
  others := [(2, { Ctx.ofKey 2 with grid := some 7, foot := 4096 })] }

/-- The same context, saved while its grid is pre-empted. -/
def wSaved : State := { wG with grids := [(7, { grid0 with keys := [0, 2], saved := [(2, { Ctx.ofKey 2 with grid := some 7, foot := 4096 })] })] }

theorem witness_remote : wPeer.peerAt 1 = some ⟨2, none⟩ ∧ wPeer.peerAt 2 = none ∧ (wPeer.lsCtx ⟨2, none⟩).foot = 4096 ∧ (wPeer.lsCtx ⟨2, none⟩).ls.wf = true
    ∧ wSaved.peerAt 1 = some ⟨2, some 7⟩ ∧ (wSaved.lsCtx ⟨2, some 7⟩).foot = 4096 ∧ (wSaved.lsCtx ⟨2, some 7⟩).ls.wf = true
    ∧ (wPeer.lsAddr (.remote 0 0 1)).toNat % 64 = 0 ∧ (wPeer.lsAddr (.remote 0 4 1)).toNat % 64 ≠ 0
    ∧ (wPeer.lsAddr (.remote 0 3840 1)).toNat + 256 = (wPeer.lsCtx ⟨2, none⟩).foot
    ∧ (wPeer.lsCtx ⟨2, none⟩).foot < (wPeer.lsAddr (.remote 0 3904 1)).toNat + 256 := by decide

theorem witness_late_accesses : (⟨0, .storeRows 0 [], 0, 0, 0⟩ : LsPend).op = .storeRows 0 [] ∧ w0.cur.ls.wf = true ∧ w0.cur.lsPend = []
    ∧ (0 : Word64).toNat % 64 = 0 ∧ (0 : Word64).toNat + 256 ≤ (wPeer.lsCtx ⟨2, none⟩).foot := by decide

/-- The last line of a WLOAD, of a WSAVE, the norm's line at an offset in word 9, a token: of a primary, of a secondary, of an elastic grid. -/
def lsp (o : LsOp) : LsPend := ⟨1, o, 0, 0, 0⟩
def wSec : State := { w0 with cur := { w0.cur with second := true } }
def wNorm (n : Word64) : State := { wSec with cur := { wSec.cur with rf := some ⟨(List.replicate 16 0).set 9 n, .refac, 0, 0, 0, false, 8⟩ } }

theorem witness_late_lines : (lsp (.witTail 0 64 (List.replicate 1024 0))).op = .witTail 0 64 (List.replicate 1024 0) ∧ (List.replicate 1024 (0 : Byte)).length = 1024
    ∧ (lsp (.witSaveTail 64 [7])).op = .witSaveTail 64 [7] ∧ ([7] : List Byte) ≠ [] ∧ (wNorm 4).cur.rf.isSome = true
    ∧ (4 : Word64).toNat % 2 ^ 20 % 8 ≠ 0 ∧ (4088 : Word64).toNat % 2 ^ 20 + 8 ≤ w0.cur.foot ∧ w0.cur.foot < (4096 : Word64).toNat % 2 ^ 20 + 8
    ∧ (lsp (.tokenDone 3 none)).op = .tokenDone 3 none ∧ w0.cur.oldTok = [] ∧ 0 = w0.cur.strand := by
  refine ⟨rfl, List.length_replicate, rfl, ?_⟩
  decide

theorem witness_late_asks : Claim.ownAccess wSec (.storeRows 1024 []) = some (1024, 1024) ∧ Claim.ownAccess (wNorm 8) .rfNorm = some (8, 8) ∧ wSec.cur.second = true
    ∧ Claim.farAccess (.remoteLoad 1 64 none) = some (1, 64, 256) ∧ wE.cur.elastic = true ∧ wE.peerAt 1 = none ∧ wE.peerAt 0 = some ⟨0, none⟩
    ∧ w0.cur.second = false ∧ wG.cur.elastic = false ∧ Claim.ownAccess w0 (.tokenDone 0 none) = none ∧ Claim.farAccess (.tokenDone 0 none) = none := by decide

/-- A store whose tail has not been written yet: the last of two accesses. -/
theorem witness_tail : let c : Ctx := { w0.cur with lsPend := [remote0, ⟨1, .witSaveTail 64 [7], 0, 0, 0⟩] }
    c.lsPend = [remote0] ++ [⟨1, .witSaveTail 64 [7], 0, 0, 0⟩] ∧ (∀ x ∈ [remote0], Claim.tail x.op = none)
    ∧ Claim.tail (.witSaveTail 64 [7]) = some (64, [7]) :=
  ⟨rfl, fun x h => by rw [List.mem_singleton.mp h]; rfl, rfl⟩

/-- Virtual 0 to 2 MiB stands at physical 0, readable, writable, with atomics; HBM there admits core 0. -/
def wMem : State := { w0 with
  pmap := [⟨0, 2 ^ 40, 0⟩]
  access := [(0, 0xF)]
  cur := { w0.cur with ltt := w0.cur.ltt.set (0 : Fin 64) (BitVec.ofNat 64 (31 + 2 ^ 48), 0) } }

theorem witness_global_translates : wMem.gxlate aG 0 8 8 0 = .ok (0, 0) ∧ wMem.gxlate aG 0 8 8 1 = .ok (0, 0) ∧ wMem.gxlate aG 0 8 8 2 true = .ok (0, 0)
    ∧ wMem.gxlate aG 0 256 64 0 = .ok (0, 0) ∧ wMem.gxlate aG 0 256 64 1 = .ok (0, 0) := ⟨rfl, rfl, rfl, rfl, rfl⟩

def gsc : LScalar := ⟨g0, .s 1, aG, .d⟩
def gve : LVec := ⟨g0, .v 0, aG⟩

theorem witness_global_rows : ([.ldg gsc, .stg .c gsc, .ldgv gve, .stgv .c gve, .gath .w (.v 1) gve, .scat .w .c (.v 1) gve, .amo g0 .add .c (.s 1) aG (.s 2),
    .cas g0 .c (.s 1) aG (.s 2), .vamo g0 .add .c (.v 0) aG (.v 1), .vamor g0 .add .c (.v 0) aG (.v 1) (.v 2)] : List Instr).all
    (fun i => match Claim.globals wMem i with | some (g, _, _, _, _, _, _) => wMem.on g | none => false) = true := by decide

theorem witness_global_requests : ([.ldg gsc, .stg .c gsc, .ldgv gve, .stgv .c gve, .amo g0 .add .c (.s 1) aG (.s 2), .cas g0 .c (.s 1) aG (.s 2)] : List Instr).all
    (fun i => (Claim.issued wMem i [(0, 0)]).isSome) = true
    ∧ ([.gath .w (.v 1) gve, .scat .w .c (.v 1) gve, .vamo g0 .add .c (.v 0) aG (.v 1), .vamor g0 .add .c (.v 0) aG (.v 1) (.v 2)] : List Instr).all
    (fun i => (Claim.issued wMem i (List.replicate 64 (0, 0))).isSome) = true := by decide

theorem witness_global_fault : w0.gxlate aG 0 8 8 0 = .error (4, 0, 0) ∧ Claim.globals w0 (.ldg gsc) = some (g0, aG, [] ++ (0 : Word64) :: [], 8, 8, 0, false) :=
  ⟨rfl, rfl⟩

theorem witness_twait : w0.cur.regs.tok.get 0 = .idle ∧ (none : Option (Fin 63)).toList = [] ∧ (some (0 : Fin 63)).toList = [] ++ (0 : Fin 63) :: [] := by decide

theorem witness_twait_done : let s : State := { w0 with cur := { w0.cur with regs := { w0.cur.regs with tok := w0.cur.regs.tok.set (62 : Fin 63) .pending } } }
    ∀ x ∈ (some (62 : Fin 63)).toList, s.cur.regs.tok.get x ≠ .idle := by decide

theorem witness_hwin : wE.cur.elastic = true ∧ wG.cur.elastic = false ∧ w0.mem.wf = true := by decide

theorem witness_waita : Claim.fits w0 (aL 4088) 8 8 ∧ Claim.compares .eq 0 (w0.rs (.s 1)) = true ∧ Claim.compares .ne 0 (w0.rs (.s 1)) = false := by decide

/-- A line of a host write: to HBM, to an LS footprint of the context, beyond it, and to a context that is saved. -/
theorem witness_hwin_line : let s : State := { wG with ctxs := [(5, { CtxRegs.reset with ingress := [(0, [1])] })], pmap := [⟨0, 2 ^ 40, 0⟩] }
    (s.ctxRegs 5).ingress = [(0, [1])] ∧ s.ctrFunc 0 = none ∧ s.target 0 ∉ [8, 9, 10, 11, 12] ∧ s.mem.wf = true := by decide

theorem witness_hwin_footprint : let s : State := { wG with pmap := [⟨0, 2 ^ 28, 8⟩] }
    let t : State := { wSaved with pmap := [⟨0, 2 ^ 28, 8⟩], grids := [(7, { grid0 with ctx := 5, saved := [(2, { Ctx.ofKey 2 with grid := some 7, foot := 4096 })] })] }
    s.target 4095 ∈ [8, 9, 10, 11] ∧ s.ctrFunc 4095 = none ∧ s.lsTarget 5 4095 = some (⟨0, none⟩, 4095) ∧ s.target 4096 ∈ [8, 9, 10, 11] ∧ s.lsTarget 5 4096 = none
    ∧ 4095 + 1 ≤ (s.lsCtx ⟨0, none⟩).foot ∧ (s.lsCtx ⟨0, none⟩).foot < 4095 + 2 ∧ (s.lsCtx ⟨0, none⟩).ls.wf = true
    ∧ t.lsTarget 5 (2 ^ 20) = some (⟨2, some 7⟩, 0) ∧ ((t.grids.get? 7).bind (·.saved.get? 2)).isSome = true := by decide

theorem witness_ltt : let t := wMem.cur.ltt
    Claim.covers (t.get 0) 0 ∧ Claim.covers (t.get 0) (0 + 2 ^ 21 - 1) ∧ ¬ Claim.covers (t.get 0) (0 + 2 ^ 21)
    ∧ (t.get 0).1.getLsbD (0 + 1) = true ∧ (t.get 0).1.getLsbD (3 + 1) = true ∧ (4 : Word64).toNat % 8 ≠ 0
    ∧ 2 ^ 48 ≤ (BitVec.twoPow 64 48).toNat := by decide

theorem witness_ltt_lowest : Claim.entryOf wMem.cur.ltt 0 0 := ⟨by decide, fun j h => absurd h (Fin.not_lt_zero j)⟩

theorem witness_ltt_none : ∀ k : Fin 64, ¬ Claim.covers (w0.cur.ltt.get k) 0 := by decide

theorem witness_ltt_no_right : (((w0.cur.ltt.set (0 : Fin 64) (BitVec.ofNat 64 (1 + 2 ^ 48), 0)).get 0).1.getLsbD (0 + 1)) = false := by decide

def handle0 : Handle := ⟨0, 0, 4096, true, false, false, false, 0⟩

theorem witness_handle : Claim.mayDo handle0 0 = true ∧ Claim.mayDo handle0 1 = false ∧ handle0.va ≤ (0 : Word64).toNat
    ∧ (0 : Word64).toNat + 4096 ≤ handle0.va + handle0.size ∧ ¬ ((0 : Word64).toNat + 4097 ≤ handle0.va + handle0.size) := by decide

theorem witness_arrival : let s : State := { w0 with cur := { w0.cur with outst := [⟨.ldg (.s 1) 0 .d 0, 0, 0, 0, some (List.replicate 8 1)⟩] } }
    s.cur.outst = ⟨.ldg (.s 1) 0 .d 0, 0, 0, 0, some (List.replicate 8 1)⟩ :: [] ∧ (1 : Fin 64) ≠ 0 ∧ ∀ u ∈ s.requests s.cur.coreId, u.seq ≠ 0 := by decide

theorem witness_numbered : Claim.numbered { w0 with reqq := [⟨0, 0, 0, none, 0, [1], 0, 0, false, 0⟩, ⟨1, 1, 2, none, 0, [1], 0, 0, false, 0⟩] } := by
  refine ⟨by decide, ?_⟩
  intro e he o ho
  simp [State.allCtxs, w0, State.reset] at he
  subst he
  simp [Ctx.idleOf] at ho

/-! ### Hypotheses: engine commands, payloads, witness spills and the circuit engine (08, 11, 12, 14) -/

def eo : EngOp := ⟨g0, none, none, none, none, .s 0⟩

theorem witness_engine_rows : ([.copy none eo, .copyk none eo, .kreq 0 eo, .coll eo, .csig eo] : List Instr).all
    (fun i => match Claim.engRow i with | some (o, _, _, _) => w0.on o.g | none => false) = true := by decide

theorem witness_engine_tokens : Claim.tokensOk w0.cur eo := ⟨nofun, nofun⟩

theorem witness_engine_misused : w0.cur.regs.tok.get 0 = .idle
    ∧ (w0.cur.regs.tok.set (0 : Fin 63) .pending).get 0 = .pending := by decide

theorem witness_engine_places : (w0.rs (.s 0)).toNat % 128 = 0 ∧ (w0.rs (.s 0)).toNat + 128 ≤ w0.cur.foot ∧ ((withS1 w0 4).rs (.s 1)).toNat % 128 ≠ 0
    ∧ ((withS1 w0 4096).rs (.s 1)).toNat % 128 = 0 ∧ w0.cur.foot < ((withS1 w0 4096).rs (.s 1)).toNat + 128 := by decide

/-- A copy block of one byte-dimension: 16 words with one element of eight bytes from 0 to 64. -/
def blk0 : List Word64 := [BitVec.ofNat 64 (3 * 2 ^ 14 + 2 ^ 16), 0, 64, 0, 0, 1] ++ List.replicate 10 0

theorem witness_copy_block : Claim.copyOk none blk0 ∧ ¬ Claim.copyOk none (List.replicate 16 0) ∧ Claim.blockOk w0 (.kreq 0) none [] := by
  exact ⟨by decide, by decide, trivial⟩

/-- Running and queued commands. -/
def cmd0 (k : EngKind) (b : List Word64) : EngCmd := ⟨k, 0, b, 0, some 0, [], none, 8, 0, CopyProg.start 0⟩
def wCmd (k : EngKind) (b : List Word64) : State := { wE with cur := { wE.cur with active := [cmd0 k b] } }

theorem witness_command_start : let s : State := { wE with cur := { wE.cur with queue := [cmd0 .copy blk0] } }
    s.cur.queue = cmd0 .copy blk0 :: [] ∧ s.cur.active.length < 4 ∧ (s.ctx 2048).kiosk.mbox.length + Claim.coming s 0 < 32 := by decide

theorem witness_kreq : let s : State := { wCmd (.kreq 0) [] with access := [(0x11 * 4096 + 0x400, 3)] }
    s.cur.active[0]? = some (cmd0 (.kreq 0) []) ∧ (cmd0 (.kreq 0) []).strand = s.cur.strand ∧ s.focus < 2048 ∧ (s.ctx 2048).kiosk.mbox.length < 32
    ∧ s.admits (0x11 + 0 / 16) s.cur.engMaster 1 (some s.cur.ctxId) = true
    ∧ (wCmd (.kreq 0) []).admits (0x11 + 0 / 16) s.cur.engMaster 1 (some s.cur.ctxId) = false := by decide

theorem witness_csig : ∀ op ∈ [0, 1, 2], Claim.fld [BitVec.ofNat 64 op, 4088, 9, 0] 0 0 2 = op ∧ (4088 : Nat) + 8 ≤ w0.cur.foot := by decide

theorem witness_csig_asks : let c := cmd0 .csig [0, 4088, 9, 0]
    let s := wCmd .csig [0, 4088, 9, 0]
    s.cur.active[0]? = some c ∧ c.strand = s.cur.strand ∧ c.kind = .csig ∧ s.elReqs = [] ∧ s.cur.ls.wf = true
    ∧ (∃ x ∈ ({ s with elReqs := [⟨.cword, 0, 0, 0, some 0, 4088, 8, .sig c.prog.id⟩] } : State).elReqs, x.job = .sig c.prog.id)
    ∧ s.cur.active.length = 1 := by
  refine ⟨rfl, rfl, rfl, rfl, rfl, ⟨_, List.mem_singleton.mpr rfl, rfl⟩, rfl⟩

theorem witness_csig_global : let s : State := { wMem with access := [(0x400, 0xF)] }
    s.engXlate 0 8 8 2 = .ok (0, 0) ∧ s.engXlate 0 8 8 3 true = .ok (0, 0) := ⟨rfl, rfl⟩

theorem witness_copy : let s := wCmd .copy blk0
    s.cur.active[0]? = some (cmd0 .copy blk0) ∧ (cmd0 .copy blk0).strand = s.cur.strand ∧ Claim.copyOk none blk0 ∧ Claim.fld blk0 0 0 2 = 0
    ∧ Claim.fld blk0 0 2 2 = 0 ∧ s.cur.ls.wf = true ∧ Claim.elements blk0 = [(0, 64)] ∧ (cmd0 .copy blk0).mask = none ∧ s.trap = none ∧ s.focus < 2048
    ∧ s.elReqs = [] ∧ (Claim.elements blk0)[(cmd0 .copy blk0).prog.at_]? = some (0, 64) ∧ (cmd0 .copy blk0).prog.old = [] := by decide

theorem witness_copy_alone : ∀ j x, (wCmd .copy blk0).cur.active[j]? = some x → x.kind = .copy ∨ x.kind = .copyk →
    x.prog.id = (cmd0 .copy blk0).prog.id → j = 0 := by
  intro j x h _ _
  match j, h with
  | 0, _ => rfl

/-- A copy that has read its one element, and one that has moved it. -/
theorem witness_copy_progress : let g : CopyProg := ⟨0, 0, [(64, List.replicate 8 1)], [0], [], [], false⟩
    g.left = [w0.focus] ∧ (g.got.map Prod.fst).Nodup ∧ (∀ x ∈ g.got, x.1 % 8 = 0 ∧ x.2.length = 8) ∧ g.got ≠ []
    ∧ (Claim.elements blk0)[g.at_ + g.got.length]? = none := by decide

theorem witness_copy_over : let g : CopyProg := ⟨0, 1, [], [], [], [], false⟩
    let b := blk0.set 4 (BitVec.ofNat 64 (4088 + 4080 * 2 ^ 32))
    (Claim.elements blk0).length ≤ g.at_ ∧ g.rec_ = false ∧ Claim.fld b 4 32 20 % 16 = 0 ∧ Claim.fld b 4 32 20 + 16 ≤ w0.cur.foot
    ∧ (b.getD 0 0).getLsbD 4 = false ∧ ((b.set 0 (BitVec.ofNat 64 (2 ^ 4))).getD 0 0).getLsbD 4 = true ∧ Claim.fld b 4 0 20 % 8 = 0
    ∧ Claim.fld b 4 0 20 + 8 ≤ w0.cur.foot ∧ wG.cur.grid ≠ none ∧ wG.cur.ls.wf = true := by decide

/-- A copy that has moved its element and has a completion word to write at 4088. -/
def copyWordCmd : EngCmd :=
  { cmd0 .copy ((blk0.set 0 ((blk0.getD 0 0) ||| 16#64)).set 4 4088#64) with prog := ⟨0, 1, [], [], [], [], false⟩ }

/-- The token comes with the completion word, and not when the word is asked for (95 COPY_COMPLETE). -/
theorem test_copy_word : let s : State := { wG with cur := { wG.cur with active := [copyWordCmd], foot := 8192 } }
    (match exec (.copyComplete s.focus 0) s with
      | .next t => t.cur.active.length == 1 && t.elReqs.length == 1 && t.cur.tok 0 != .done
          && (t.elGrantBy 1 0).cur.active.isEmpty && (t.elGrantBy 1 0).cur.tok 0 == .done
      | _ => false) = true := by decide

/-- A copy of one element within global memory. -/
def blkG : List Word64 := blk0.set 0 (BitVec.ofNat 64 (1 + 4 + 3 * 2 ^ 14 + 2 ^ 16))

theorem witness_copy_global : let s : State := { wMem with access := [(0x400, 0xF)] }
    Claim.fld blkG 0 0 2 = 1 ∧ Claim.fld blkG 0 2 2 = 1 ∧ Claim.copyOk none blkG ∧ (blkG.getD 0 0).getLsbD 4 = false ∧ Claim.elements blkG = [(0, 64)]
    ∧ s.engXlate 0 8 8 1 = .ok (0, 0) ∧ s.engXlate 64 8 8 2 = .ok (64, 0) := ⟨by decide, by decide, by decide, by decide, by decide, rfl, rfl⟩

theorem witness_copy_places : ∀ e ∈ [((0 : Word64), (64 : Word64))], e.1.toNat % 8 = 0 ∧ e.2.toNat % 8 = 0 ∧ e.1.toNat + 8 ≤ w0.cur.foot ∧ e.2.toNat + 8 ≤ w0.cur.foot := by
  intro e he
  rw [List.mem_singleton] at he
  subst he
  decide

theorem witness_copy_apart : ∀ x, Claim.within x 0 8 → ¬ Claim.within x 64 8 := by intro x h1 h2; simp [Claim.within] at *; omega

/-- The three other ways of the same copy, with global memory where it stands. -/
def wayBlk (n : Nat) : List Word64 := blk0.set 0 (BitVec.ofNat 64 (n + 3 * 2 ^ 14 + 2 ^ 16))
def wWay (n : Nat) : State := { wCmd .copy (wayBlk n) with
  pmap := [⟨0, 2 ^ 40, 0⟩], access := [(0x400, 0xF)], cur := { (wCmd .copy (wayBlk n)).cur with ltt := wMem.cur.ltt } }

theorem witness_wide_copies : ∀ n ∈ [1, 4, 5], (wWay n).cur.active[0]? = some (cmd0 .copy (wayBlk n)) ∧ Claim.copyOk none (wayBlk n) ∧ (wWay n).trap = none
    ∧ (wWay n).focus < 2048 ∧ Claim.elements (wayBlk n) = [(0, 64)] ∧ Claim.fld (wayBlk n) 0 0 2 = n % 4 ∧ Claim.fld (wayBlk n) 0 2 2 = n / 4
    ∧ (wWay n).elReqs = [] ∧ ((wayBlk n).getD 0 0).getLsbD 4 = false := by decide

theorem witness_wide_places : (∀ n ∈ [1, 4, 5], (wWay n).engXlate 0 8 8 1 = .ok (0, 0) ∧ (wWay n).engXlate 64 8 8 2 = .ok (64, 0))
    ∧ (wWay 5).ctrFunc 64 = none ∧ 64 + 8 ≤ (wWay 5).cur.foot := by
  refine ⟨fun n h => ?_, by decide, by decide⟩
  rcases List.mem_cons.mp h with rfl | h
  · exact ⟨rfl, rfl⟩
  rcases List.mem_cons.mp h with rfl | h
  · exact ⟨rfl, rfl⟩
  cases List.mem_singleton.mp h
  exact ⟨rfl, rfl⟩

theorem witness_multicast : (∀ q : Fin 16, (1 : BitVec 16).getLsbD q.val = true → (wWay 1).peerAt q = some ⟨0, none⟩) ∧ (1 : BitVec 16) ≠ 0
    ∧ Claim.copyOk (some 1) (wayBlk 1) ∧ (let g : CopyProg := ⟨0, 0, [(64, List.replicate 8 1)], [0, 2], [], [], false⟩
      0 ∈ g.left ∧ (∃ k ∈ g.left, k ≠ 0) ∧ ((wWay 1).ctx 0).ls.wf = true ∧ (g.got.map Prod.fst).Nodup ∧ ∀ x ∈ g.got, x.1 % 8 = 0 ∧ x.2.length = 8) := by
  decide

/-- A collective of a group of one rank, the core itself. -/
def wColl : State := { wCmd .coll [0, 1, 0, 0, 0, 0, 0, 0] with
  groups := [(5 * 4096, (BitVec.ofNat 64 (2 ^ 12 + 2 ^ 13), 0))]
  pmap := [⟨0, 2 ^ 40, 0⟩]
  access := [(0x400, 0xF)]
  cur := { (wCmd .coll [0, 1, 0, 0, 0, 0, 0, 0]).cur with ltt := wMem.cur.ltt } }

theorem witness_collective : wColl.cur.active[0]? = some (cmd0 .coll [0, 1, 0, 0, 0, 0, 0, 0]) ∧ wColl.cur.grid = some 7
    ∧ wColl.group? 0 = some (BitVec.ofNat 64 (2 ^ 12 + 2 ^ 13), 0) ∧ wColl.collAt 7 wColl.cur.gid 0 = some (wColl.focus, 0, cmd0 .coll [0, 1, 0, 0, 0, 0, 0, 0])
    ∧ wColl.cur.elastic = true ∧ (BitVec.ofNat 64 (2 ^ 12 + 2 ^ 13)).getLsbD 13 = true := by decide

theorem witness_collective_ranks : wColl.rankList (BitVec.ofNat 64 (2 ^ 12 + 2 ^ 13), 0) = .ok [(wColl.cur.gid, 0)]
    ∧ (∃ bs, wColl.engReadRange 0 4 1 = .ok bs) ∧ ∃ t, wColl.engWriteRange 0 4 0 [0] = .ok t := ⟨rfl, ⟨_, rfl⟩, ⟨_, rfl⟩⟩

/-- The ranks are cores 0 and 1, and each has its block. -/
def two : Word64 × Word64 := (BitVec.ofNat 64 (1 + 2 ^ 12 + 2 ^ 13), 0)
def wTwo (b : List Word64) : State := { wColl with
  access := [(0x400, 0xF), (0x401, 0xF)], groups := [(5 * 4096, two)], mem := Memory.writeN [] 4 [1]
  grids := [(7, { grid0 with kcb := kcbE, keys := [0, 2] })]
  others := [(2, { Ctx.ofKey 2 with grid := some 7, ctxId := 5, foot := 4096, ltt := wMem.cur.ltt, active := [cmd0 .coll b] })] }
def collB : List Word64 := [0, 1, 0, 0, 0, 0, 0, 0]

theorem witness_two_ranks : ∀ b ∈ [collB, collB.set 1 2], let s := wTwo b
    s.group? 0 = some two ∧ s.rankList two = .ok [(0, 0), (1, 0)] ∧ s.cur.gid = 0 ∧ s.collAt 7 0 0 = some (0, 0, cmd0 .coll collB)
    ∧ s.collAt 7 1 0 = some (2, 0, cmd0 .coll b) ∧ Claim.fld b 0 32 32 = 0 ∧ Claim.fld b 0 0 8 = 0 := by
  intro b h
  rcases List.mem_cons.mp h with rfl | h
  · exact ⟨rfl, rfl, rfl, rfl, rfl, rfl, rfl⟩
  cases List.mem_singleton.mp h
  exact ⟨rfl, rfl, rfl, rfl, rfl, rfl, rfl⟩

theorem witness_two_ranks_send : (∃ bs, ((wTwo collB).focusOn 0).engReadRange 0 4 1 = .ok bs) ∧ (∃ bs, ((wTwo collB).focusOn 2).engReadRange 0 4 1 = .ok bs)
    ∧ collB.getD 1 0 ≠ (collB.set 1 2).getD 1 0 := ⟨⟨_, rfl⟩, ⟨_, rfl⟩, by decide⟩

theorem witness_xsend_illegal : wE.on g0 = true ∧ wE.cur.elastic = true := by decide

/-- The block of an XSEND at 0, to the core itself; to a rank that is not there; to a member on another package. -/
def wSend (bs : List Byte) (g : Grid) : State := { wG with grids := [(7, g)], cur := { wG.cur with ls := Memory.writeN [] 0 bs } }
def sendBlk (s : State) : List Word64 := wordsOfBytes 4 (s.cur.lsView.readN 0 32)
def sendTo (s : State) : Option (Option Nat) := (s.cur.grid.bind (s.grids.get? ·)).bind (·.receiver (sendBlk s))
def gridP : Grid := { grid0 with kcb := { kcb0 with pkgs := 2 } }

theorem witness_xsend : wG.on g0 = true ∧ wG.cur.elastic = false ∧ wG.cur.kind = .compute ∧ (wG.rs (.s 0)).toNat % 32 = 0 ∧ (wG.rs (.s 0)).toNat + 32 ≤ wG.cur.foot
    ∧ (∀ s ∈ [wG, wSend [255] grid0, wSend [0, 1] gridP], s.unread (sendBlk s) < 4)
    ∧ sendTo wG = some (some 0) ∧ sendTo (wSend [255] grid0) = none ∧ sendTo (wSend [0, 1] gridP) = some none
    ∧ ({ wSend [0, 1] gridP with access := [(0x0D * 4096, 2)] } : State).admits (0x0D + 0) wG.cur.master 1 (some 5) = true
    ∧ Claim.fld (sendBlk wG) 1 0 20 % 64 = 0 ∧ Claim.fld (sendBlk wG) 1 0 20 + 256 ≤ wG.cur.foot := by decide

theorem witness_xsend_waits : (let s : State := { wG with fabric := List.replicate 4 ⟨7, 0, 0, 0, Vec.zero⟩ }
      4 ≤ s.unread (sendBlk s))
    ∧ ∃ x ∈ [(0 : Fin 63)], (wG.cur.regs.tok.set (0 : Fin 63) .pending).get x ≠ .done := by decide

theorem witness_send : (⟨1, .payload (sendBlk wG), 0, 0, 0⟩ : LsPend).op = .payload (sendBlk wG) ∧ wG.cur.grid = some 7 ∧ wG.grids.get? 7 = some grid0
    ∧ grid0.fault = none ∧ grid0.receiver (sendBlk wG) = some (some 0) ∧ gridP.rank wG.cur.gid = some (0, 0)
    ∧ gridP.receiver (sendBlk (wSend [0, 1] gridP)) = some none := by decide

def flit0 : Flit := ⟨7, 0, 0, 1, 0, 0, Vec.zero, false, 0⟩

/-- A port whose slot 0 is for rank 0 and member 1; one that stands at slack slot 15 with a flit to send again. -/
theorem witness_port : let p : Port := { Port.reset with slots := [(0, BitVec.ofNat 32 (1 + 2 ^ 16))], wait := [flit0] }
    p.failed = false ∧ p.training = false ∧ p.next % 16 ≠ 15 ∧ p.again = [] ∧ p.wait = [] ++ flit0 :: [] ∧ p.serves p.next flit0.q flit0.member = true
    ∧ ({ Port.reset with next := 15, again := [flit0] } : Port).next % 16 = 15 ∧ ({ Port.reset with training := true } : Port).training = true := by decide

theorem witness_incoming : gridP.members.length ≤ 1 ∧ 1 < gridP.kcb.dies * gridP.kcb.pkgs ∧ 0 ∈ gridP.keys ∧ (wG.port 0).training = false ∧ (wG.port 0).failed = false := by
  decide

theorem witness_land : let c : Ctx := { w0.cur with outst := [⟨.land (some 3) Vec.zero 2, 0, 0, 0, none⟩] }
    c.outst = [⟨.land (some 3) Vec.zero 2, 0, 0, 0, none⟩] ∧ (2 : Nat) ≤ 2 ∧ (⟨.land none Vec.zero 1, 0, 0, 0, none⟩ : Outst).op = .land none Vec.zero 1 := by decide

theorem witness_xrecv : (63 : Nat) < ((withS1 wG 64).rs (.s 1) + (0 : BitVec 16).signExtend 64).toNat
    ∧ ((withS1 wG 63).rs (.s 1) + (0 : BitVec 16).signExtend 64).toNat ≤ 63 ∧ (wG.cur.slots.get 63).1 ≠ .full
    ∧ ((wG.cur.slots.set (63 : Fin 64) (.full, Vec.zero)).get 63).1 = .full := by decide

/-- A payload on its way to slot 0 of core 0. -/
def pay0 : Payload := ⟨7, 2, 0, 0, Vec.zero⟩

theorem witness_payload : let s : State := { wG with fabric := [pay0] }
    s.fabric[0]? = some pay0 ∧ (s.grids.get? pay0.grid) = some grid0 ∧ s.fabric.take 0 = [] ∧ grid0.senders.get? (64 * 0 + 0) = none
    ∧ (s.ctx pay0.dst).grid = some pay0.grid ∧ ((s.ctx 0).slots.get 0).1 ≠ .full ∧ pay0.dst = s.focus ∧ s.cur.grid = some pay0.grid := by decide

theorem witness_payload_saved : let c : Ctx := { Ctx.ofKey 0 with grid := some 7 }
    let g : Grid := { grid0 with state := .preempted, saved := [(0, c)] }
    (w0.ctx pay0.dst).grid ≠ some pay0.grid ∧ g.saved.get? pay0.dst = some c ∧ (c.slots.get pay0.slot).1 ≠ .full := ⟨nofun, rfl, nofun⟩

theorem witness_payload_intruder : ({ grid0 with senders := [(0, 4)] } : Grid).senders.get? (64 * pay0.dst + pay0.slot.val) = some 4 ∧ 4 ≠ pay0.src := by decide

theorem witness_spill : Claim.fits w0 (aL 0) 1088 64 ∧ Claim.fits w0 (aL 2944) 1088 64 ∧ w0.cur.ls.wf = true ∧ (w0.cur.ls.word 0).toNat / 2 ^ 40 = 0
    ∧ (w0.cur.ls.word 0).getLsbD 15 = false := by decide

theorem witness_spill_places : (w0.lsAddr (aL 4)).toNat % 64 ≠ 0 ∧ (w0.lsAddr (aL 3072)).toNat % 64 = 0 ∧ w0.cur.foot < (w0.lsAddr (aL 3072)).toNat + 1088 := by
  decide

theorem witness_spill_malformed : (BitVec.ofNat 64 (2 ^ 6)).toNat / 2 ^ 6 % 2 ^ 2 ≠ 0
    ∧ (witShape 1 0 2 = true) ∧ (BitVec.ofNat 64 (1 + 2 * 2 ^ 8 + 2 ^ 15)).getLsbD 15 = true
    ∧ (BitVec.ofNat 64 (1 + 2 * 2 ^ 8 + 2 ^ 15 + 9 * 2 ^ 32)).toNat / 2 ^ 32 % 2 ^ 8 ≠ w0.cur.ctxId.toNat := by decide

/-! The circuit engine of cluster 0 bound to grid 7. -/

def obj0 : CircObj := ⟨1, 1, [0], [0], [0], [(1, 0)], [0], [], [0], [], 0⟩
def eng0 : Engine := { Engine.reset with bound := some 7, obj := some obj0 }
def wC : State := { wG with engines := [(0, eng0)] }

theorem witness_circuit_rows : ([.cleaf g0 (.f32 (.v 0) 0 0), .cleaf g0 (.sef (.v 0) 0 0), .cleaf g0 (.lf32 (.s 0) (aL 0)), .cleaf g0 (.lsef (.s 0) (aL 0)),
    .ceval eo, .cout g0 true (.v 0) 0 0, .crds g0 false (.v 0) 0 0, .cput g0 (aL 0), .cpflip true eo] : List Instr).all
    (fun i => match Claim.circRow wC i with | some (g, _, _, _, _, _, _) => wC.on g | none => false) = true := by decide

/-- The circuit engine's entry lets core 0 in. -/
def admitted (s : State) : State := { s with access := [(0x40 * 4096, 2)] }

theorem witness_circuit_bound : ¬ Claim.mayCommand wC ∧ Claim.mayCommand (admitted wC) ∧ Claim.mayCommand (admitted wG)
    ∧ wC.cur.kind = .compute ∧ wC.cur.grid ≠ none ∧ (wC.engine (Claim.cluster wC)).bound = wC.cur.grid
    ∧ (wG.engine (Claim.cluster wG)).bound ≠ wG.cur.grid ∧ (wC.rs (.s 0)).toNat % 32 = 0 ∧ (wC.rs (.s 0)).toNat + 32 ≤ wC.cur.foot
    ∧ (wG.engine 0).bound = none := by decide

theorem witness_circuit_row_fits : (match Claim.circRow wC (.ceval eo) with
    | some (_, ok, _) => ok
    | none => False) ∧ Claim.fits wC (aL 0) 64 64 ∧ Claim.fits wC (aL 0) 384 64 := by
  refine ⟨⟨⟨nofun, nofun⟩, by decide, by decide, by decide⟩, by decide, by decide⟩

theorem witness_circuit_other : (({ wC with engines := [(0, { eng0 with bound := some 8 })] } : State).engine 0).bound = some 8 ∧ (8 : Nat) ≠ 7 := by decide

def ccmd (k : CircKind) : CircCmd := ⟨k, 0, 0, 0, none, [], 8, 0⟩
def wRun (k : CircKind) : State := { wG with engines := [(0, { eng0 with queue := [ccmd k] })] }

theorem witness_circuit_runs : ∀ k ∈ [CircKind.cload true 0 0, .ceval 0 none, .cleaf 0 (Vector.replicate 64 0), .read true true 0 none none, .cpflip true,
    .cput [BitVec.twoPow 64 63]], Claim.ready (wRun k) 0 (ccmd k) [] := by
  intro k hk
  refine ⟨?_, ?_, ?_, rfl, nofun⟩ <;> rfl

theorem witness_circuit_run_places : (ccmd (.cpflip true)).key = wC.focus ∧ (ccmd (.cpflip true)).strand = wC.cur.strand
    ∧ obj0.leaves[(0 : Word64).toNat]? = some 0 ∧ obj0.leaves[(1 : Word64).toNat]? = none ∧ obj0.outs[(0 : Word64).toNat]? = some 0
    ∧ obj0.outs[(1 : Word64).toNat]? = none ∧ (8191 : Word64).toNat < 8192 ∧ 8192 ≤ (8192 : Word64).toNat := by decide

theorem witness_circuit_load_refused : let s : State := { wG with engines := [(0, { eng0 with loading := some (ccmd (.cload true 0 0)), obj := none })] }
    (s.engine 0).loading = some (ccmd (.cload true 0 0)) ∧ (s.engine 0).obj = none ∧ s.imageComing 0 = false
    ∧ s.circLoad 0 s.focus (.glob s.focus 0) 0 = (s, .error (4, 0, 4)) := ⟨rfl, rfl, rfl, rfl⟩

/-- No line of an image in the LS has come. -/
theorem witness_circuit_line : let s : State := { wG with engines := [(0, { eng0 with loading := some (ccmd (.cload false 0 0)), obj := none })] }
    (s.engine 0).obj = none ∧ s.imageComing 0 = false ∧ s.circLoad 0 s.focus (.ls ⟨s.focus, none⟩) 64 = (s, .error (0, 0, 1)) := ⟨rfl, rfl, rfl⟩

/-- The word of a pass goes to the core itself. -/
theorem witness_circuit_pass : let s : State := { wG with engines := [(0, { eng0 with pass := some (ccmd (.ceval 0 none)), tick := 4 })] }
    (s.engine 0).pass = some (ccmd (.ceval 0 none)) ∧ (s.engine 0).obj = some obj0 ∧ obj0.nw + 3 ≤ (s.engine 0).tick
    ∧ s.peerAt 0 = some ⟨0, none⟩ ∧ (4088 : Nat) < 2 ^ 20 ∧ (4088 : Nat) % 8 = 0 ∧ (4088 : Nat) + 8 ≤ (s.ctx 0).foot := by decide

theorem witness_circuit_page : let s : State := { wMem with
      engines := [(0, { eng0 with pass := some (ccmd (.ceval 0 none)) })], access := [(0x800, 0xF)] }
    obj0.pages[0]? = some (1, 0) ∧ obj0.crcs[0]? = some 0 ∧ 0 ∈ obj0.due ∧ s.pageComing 0 0 = false
    ∧ s.pageSrc obj0.srcKey (1, 0) = .ok (.glob 0 0) ∧ (∀ k, CircSrc.glob 0 0 ≠ .ls ⟨k, none⟩)
    ∧ ∃ u, s.circPart 0 (.glob 0 0) 0 32 (pageWords obj0.nw 0) = (u, .ok (List.replicate 32 0)) :=
  ⟨rfl, rfl, by decide, rfl, rfl, nofun, _, rfl⟩

theorem witness_circuit_page_local : wC.pageSrc 0 (0, 0) = .ok (.ls ⟨0, none⟩) ∧ (0 : Word64).toNat + min 64 (32 * pageWords obj0.nw 0) ≤ (wC.ctx 0).foot
    ∧ (0 : Word64).toNat + (List.replicate 64 (0 : Byte)).length + min 64 (96 - 64) ≤ (wC.ctx 0).foot := by
  refine ⟨rfl, by decide, by decide⟩

/-- A load whose last page comes, and one that waits for another page. -/
theorem witness_circuit_load_page : let s : State := { wG with engines := [(0, { eng0 with loading := some (ccmd (.cload true 0 0)) })] }
    (s.engine 0).obj = some obj0 ∧ (s.engine 0).pass = none ∧ obj0.crcs[0]? = some 0 ∧ obj0.due.filter (· != 0) = []
    ∧ { obj0 with due := [0, 1] }.due.filter (· != 0) ≠ [] := by decide

theorem witness_circuit_take : let o : CircObj := { obj0 with words := [0, 0, 0, 0] }
    8192 * 0 + 4 * pageWords o.nw 0 ≤ o.words.length ∧ (List.replicate 32 (0 : Byte)).length = 32 * pageWords o.nw 0 := by decide +kernel

/-- An object of one word and one leaf; a paged one; and headers that break a limit. -/
def head0 (w0 : Nat) : List Word64 := [BitVec.ofNat 64 w0, BitVec.ofNat 64 (1 + 2 ^ 16), BitVec.ofNat 64 (64 + 128 * 2 ^ 32), BitVec.ofNat 64 (96 + 96 * 2 ^ 32)]

theorem witness_circuit_headers : (CircHeader.ofWords (head0 (1 + 2 ^ 32))).ok = true ∧ (CircHeader.ofWords (head0 (2 + 2 ^ 32))).ok = false
    ∧ (CircHeader.ofWords (head0 1)).ok = false
    ∧ (CircHeader.ofWords ((head0 (1 + 2 ^ 16 + 16385 * 2 ^ 32)).set 2 (BitVec.ofNat 64 (128 * 2 ^ 32)) ++ [BitVec.ofNat 64 (64 * 2 ^ 32), 9])).ok = true := by decide

theorem witness_circuit_bad_header : let s : State := { wG with engines := [(0, { eng0 with lines := [(0, List.replicate 64 0)] })] }
    ∃ hb, s.circUnit 0 (.ls ⟨0, none⟩) 0 64 32 = (s, .ok hb) ∧ (CircHeader.ofWords (wordsOfBytes 8 hb)).ok = false := ⟨_, rfl, by decide⟩

theorem witness_circuit_params : [(0 : Word64)].any (fun x => !x.getLsbD 63) = true ∧ [BitVec.twoPow 64 63].all (fun x => x.getLsbD 63) = true
    ∧ [BitVec.twoPow 64 63].all (fun x => x.toNat / 2 ^ 48 % 2 ^ 11 != 1) = true := by decide

theorem witness_circuit_leaves : [3, 4].Nodup ∧ (∀ n ∈ [3, 4], decide (n < 5) = true) ∧ [3, 4, 3] = [3, 4] ++ 3 :: [] ∧ 3 ∈ [3, 4]
    ∧ 5 ∉ [3, 4] ∧ decide (5 < 5) = false := by decide

/-- Slots 0 to 9 are in use and 0 to 3 are leaves; slot 5 was written by word 0, slot 6 by word 7. -/
def used0 (n : Nat) : Bool := decide (n < 10)
def leaf0 (n : Nat) : Bool := decide (n < 4)
def val0 : Validation := ⟨[(5, 0), (6, 7)], [], [0, 0, 1], [1]⟩
def hdr0 (wen : Bool) : CircHeader := { CircHeader.ofWords (head0 (1 + 2 ^ 32)) with wen := wen }
def node (op : Nat) (w : Bool) : Node := ⟨op, 4, 0, 5, 0, 0, w⟩

theorem witness_circuit_nodes : 7 < (node 8 false).op ∧ (node 1 true).op ≤ 7 ∧ (node 1 true).w = true ∧ ((node 1 true).op ≠ 3 ∧ (node 1 true).op ≠ 4)
    ∧ (node 3 true).w = true ∧ (hdr0 false).wen = false ∧ (hdr0 true).wen = true ∧ (node 0 false).op = 0 ∧ 1 ≤ (node 1 false).op ∧ (node 1 false).w = false := by decide

theorem witness_circuit_destinations : 1024 / 1024 ∈ val0.writes ∧ 4 / 1024 ∉ val0.writes ∧ used0 10 = false ∧ used0 3 = true ∧ leaf0 3 = true
    ∧ used0 4 = true ∧ leaf0 4 = false := by decide

theorem witness_circuit_operands : 2 ≤ val0.reads.count (5 / 1024) ∧ ¬ 2 ≤ val0.reads.count (1029 / 1024)
    ∧ (∃ x, val0.writer.get? 6 = some x ∧ 9 ≤ x + 2) ∧ (¬ ∃ x, val0.writer.get? 6 = some x ∧ 10 ≤ x + 2)
    ∧ (¬ (leaf0 7 = true ∨ val0.writer.get? 7 ≠ none)) ∧ (leaf0 3 = true ∨ val0.writer.get? 3 ≠ none) ∧ (leaf0 5 = true ∨ val0.writer.get? 5 ≠ none)
    ∧ used0 5 = true := by
  refine ⟨by decide, by decide, ⟨7, rfl, by decide⟩, ?_, by decide, by decide, by decide, by decide⟩
  rintro ⟨x, hx, h⟩
  cases hx
  exact absurd h (by decide)

/-- The slots of an operation pass one after another, or the second does not. -/
theorem witness_circuit_slots : let v : Validation := ⟨[], [], [], []⟩
    (match checkSlot used0 leaf0 0 0 v 0 4 with
      | .ok u => (match checkSlot used0 leaf0 0 0 u 1 0 with
        | .ok _ => true
        | .error _ => false) && (match checkSlot used0 leaf0 0 0 u 1 9 with
        | .ok _ => false
        | .error f => f.1 == 10)
      | .error _ => false) = true := by decide +kernel

/-- A word of an operation that copies slot 0 to slot 1 and one that takes the greater of two into slot 3, with its witness. -/
def word0 : List Word64 := [BitVec.ofNat 64 (6 + 1 * 2 ^ 7), BitVec.ofNat 64 (3 + 3 * 2 ^ 7 + 2 * 2 ^ 20 + 2 ^ 63), 0, 0]

theorem witness_circuit_word : word0.all (fun x => decide (x.toNat % 16 ≤ 7)) = true ∧ [1, 3, 1024 * obj0.wbank + 3].Nodup := by decide

/-! ### Hypotheses: vector, witness and matrix instructions (09, 10, 12) -/

def vf : VFp := ⟨g0, .v 4, .v 8, .v 12, .f32, .rne⟩
def vfu : VFpUn := ⟨g0, .v 4, .v 8, .bf16, .dyn⟩
def vfb : VFpBin := ⟨g0, .v 4, .v 8, .v 12, .f64⟩
def vfo : VFpOne := ⟨g0, .v 4, .v 8, .f32⟩
def vi : VInt := ⟨g0, .v 4, .v 8, .v 12, .i16⟩
def viu : VIntUn := ⟨g0, .v 4, .v 8, .i64⟩
def f32 : Fmt := .num (.fp .f32)
def vx : VIdx := ⟨g0, .v 4, .v 8, 63, f32⟩
def wp (sh : WShape) (n : Fin 16) : WProd := ⟨g0, .v 16, .v 32, sh, n, 0, .fp .f32⟩

theorem witness_vector_float : ([.vadd vf, .vsub vf, .vmul vf, .vfma ⟨vf, none⟩, .vfms ⟨vf, some (.v 0)⟩, .vfnma ⟨vf, none⟩, .vmin vfb, .vmax vfb, .vcps vfb,
    .vabs vfo, .vneg vfo, .vrcp vfu, .vsqrt vfu, .vrsq vfu, .vexp2 vfu, .vlog2 vfu, .vclass vfo, .vexpx vfo, .vmant vfo, .vldx vf] : List Instr).all
    (fun i => (Claim.vfRow w0 i).isSome) = true := by decide

theorem witness_vector_integer : ([.viadd true vi, .visub false vi, .vimul vi, .vimulh vi, .vand vi, .vor vi, .vxor vi, .vshl vi, .vshr vi, .vsar vi, .vimin vi,
    .vimax vi, .vpopc viu, .vclz viu, .vcvt g0 (.fp .f32) (.int .i8) .rtz (.v 4) (.v 8)] : List Instr).all
    (fun i => (Claim.viRow w0 i).isSome) = true := by decide

theorem witness_vector_moves : ([.vmov g0 f32 (.v 4) (.v 8), .vsplat g0 (.v 4) 1, .vext g0 false (.v 4) (.v 8) (.v 12) 63, .viota g0 true (.v 4) 0, .vrotr vx, .vbcr vx,
    .vperm g0 f32 (.v 4) (.v 8) (.v 12), .vcmpr g0 f32 (.v 4) (.v 8) 0, .vexpd g0 f32 (.v 4) (.v 8) 0, .vxmul g0 (.v 4) (.v 8) (.v 12),
    .vxadd g0 (.v 4) (.v 8) (.v 12), .vxmax g0 (.v 4) (.v 8) (.v 12), .vxnorm g0 (.v 4) (.v 8), .vxcvt g0 .f32ToSef .rne (.v 4) (.v 8),
    .vxcvt g0 .bf16ToSef .rne (.v 4) (.v 8), .vxcvt g0 .sefToF32 .rup (.v 4) (.v 8), .vxcvt g0 .sefToBf16 .rne (.v 4) (.v 8)] : List Instr).all
    (fun i => match Claim.vmRow w0 i with | some r => !r.whole || w0.on r.g | none => false) = true := by decide

theorem witness_vector_compares : ([.vcmp g0 13 .eq .f32 (.v 4) (.v 8), .vicmp g0 63 .lt .i8 (.v 4) (.v 8)] : List Instr).all
    (fun i => (Claim.vCmpRow w0 i).isSome) = true := by decide

theorem witness_reductions : w0.on (⟨g0, .v 4, .v 16, .sum, .fp .f32, .rne, false⟩ : VRed).g = true := by decide

theorem witness_producers : ([.vmaxw (wp .elem 8), .vmaxw (wp .row 0), .vminw (wp .col 0), .vmedw g0 (.v 16) (.v 32) 7 0 (.fp .f32), .vclmpw g0 (.v 16) (.v 32) (.v 0) 0 (.fp .f32),
    .vsatw g0 (.v 4) (.v 32) false 0 .i8, .vsatw g0 (.v 4) (.v 32) true 0 .i8] : List Instr).all
    (fun i => match Claim.wRow w0 i with | some r => w0.on r.g | none => false) = true := by decide

def adj (op : AdjOp) (sh : WShape) (n : Fin 16) : AdjOpnd := ⟨g0, .v 16, .v 32, op, sh, n, true, 0, .fp .f32⟩
def wWit (w : Wit) : State := { w0 with cur := { w0.cur with regs := { w0.cur.regs with w := w0.cur.regs.w.set (0 : Fin 8) w } } }

/-- A live witness of an operator and shape, with every entry `e`. -/
def wit (op axis cnt : Nat) (e : Byte) : Wit :=
  ⟨Vector.replicate 16 (Vector.replicate 64 e), BitVec.ofNat 4 op, BitVec.ofNat 2 axis, BitVec.ofNat 7 cnt, 0, true, 0⟩

theorem witness_adjoint : Claim.stale (wWit (wit 1 0 2 0)) (adj .max .elem 2) = 0 ∧ Claim.stale (wWit (wit 3 0 1 0)) (adj .clamp .elem 0) = 0
    ∧ Claim.stale (wWit (wit 5 1 64 0)) (adj .sat .row 0) = 0 ∧ Claim.stale (wWit (wit 1 2 16 0)) (adj .max .col 0) = 0
    ∧ Claim.stale w0 (adj .max .elem 2) = 1 ∧ Claim.stale (wWit (wit 2 0 2 0)) (adj .max .elem 2) = 2 ∧ Claim.stale (wWit (wit 1 0 3 0)) (adj .max .elem 2) = 3 := by
  decide

theorem witness_adjoint_nan : Claim.adjNaN (wWit (wit 1 1 64 0x80)) (adj .max .row 0) ∧ ¬ Claim.adjNaN (wWit (wit 5 1 64 1)) (adj .sat .row 0) := by
  refine ⟨⟨0, ?_⟩, ?_⟩
  · show (BitVec.getLsbD _ 7) = true
    decide
  · rintro ⟨i, h⟩
    exact h

theorem witness_block_scales : ((List.replicate 32 (Fl.fin false 1 0)).length = 32) ∧ (∀ x ∈ List.replicate 32 (Fl.fin false 1 0), ∃ (n : Bool) (m : Nat) (e : Int), x = .fin n m e)
    ∧ (∃ (n : Bool) (m : Nat) (e : Int), Fl.fin n m e ∈ List.replicate 32 (Fl.fin false 1 0) ∧ 0 < m) :=
  ⟨rfl, fun x h => ⟨false, 1, 0, List.eq_of_mem_replicate h⟩, false, 1, 0, by decide, by decide⟩

theorem witness_block_zero : ∀ x ∈ List.replicate 32 (Fl.fin true 0 5), ∃ (n : Bool) (e : Int), x = .fin n 0 e :=
  fun _ h => ⟨true, 5, List.eq_of_mem_replicate h⟩

theorem witness_block_nan : ∃ x ∈ Fl.inf false :: List.replicate 31 (Fl.fin false 1 0), ∀ (n : Bool) (m : Nat) (e : Int), x ≠ .fin n m e :=
  ⟨.inf false, by simp, nofun⟩

def mso (fmt : MFmt) (a b : MSrc) (ovw : Bool) : MStepOp := ⟨g0, 0, a, b, fmt, 0, 1, ovw⟩

theorem witness_matrix : w0.on g0 = true ∧ (w0.cur.regs.m.get 0).kcount = 0 ∧ Claim.mFault w0 (.vec (.v 4)) 64 = none
    ∧ Claim.mFault w0 (.ls 0) 4096 = none ∧ Claim.mFault w0 (.ls 0) 4097 = some (5, 0, 2) ∧ Claim.mFault wPeer (.remote 0 1) 64 = none
    ∧ Claim.mFault wPeer (.remote 0 2) 64 = some (5, 2, 11) := by decide

/-- A step of an elastic grid that reads its A on another core, and the arrival of that stream and of one that is not the last. -/
def wFar (p : Option (List Byte)) : State := { wPeer with cur := { wPeer.cur with
  elastic := true
  mstep := some ⟨mso .mx8 (.remote 0 1) (.vec (.v 8)) false, none, none, p, Vector.replicate 64 0, Vector.replicate 64 0, 0, 0, 0⟩ } }

theorem witness_matrix_far : Claim.far (wFar none) (.remote 0 1) = true ∧ Claim.far (wFar none) (.vec (.v 8)) = false ∧ Claim.far wPeer (.remote 0 1) = false
    ∧ Claim.mFault (wFar none) (.remote 0 1) 64 = none ∧ (lsp (.stream false 1 0 64)).op = .stream false 1 0 64
    ∧ (wFar none).peerAt 1 = some ⟨2, none⟩ ∧ (0 : Word64).toNat % 64 = 0 ∧ (0 : Word64).toNat + 64 ≤ ((wFar none).lsCtx ⟨2, none⟩).foot := by decide

theorem witness_matrix_got : (wFar none).cur.mstep.map (·.b) = some none ∧ (wFar (some [7])).cur.mstep.map (·.b) = some (some [7]) := ⟨rfl, rfl⟩

theorem witness_matrix_open : ¬ Claim.breaks (w0.cur.regs.m.get 0) (mso .mx8 (.vec (.v 4)) (.vec (.v 8)) false) none :=
  fun h => absurd h.2.2.1 (by decide)

theorem witness_matrix_breaks : Claim.breaks ⟨Claim.byCell fun _ _ => 0, Claim.byCell fun _ _ => 0, 31, some .mx8, Claim.byCell fun _ _ => 0⟩
    (mso .mx8 (.vec (.v 4)) (.vec (.v 8)) false) (some (false, .v 0)) := ⟨by decide, by decide, by decide, .inr (by decide)⟩

/-! ### Hypotheses: kiosk cores (15) -/

/-- A kiosk core's store with a block of words at 64, s1 naming it. -/
def wK (b : List Word64) : State := { wMem with cur := { wMem.cur with
  ls := Memory.writeN [] 64 (Claim.wordBytes b)
  regs := { w0.cur.regs with s := w0.cur.regs.s.set (1 : Fin 64) 64 } } }
def onK (s : State) (f : Kiosk → Kiosk) : State := { s with cur := { s.cur with kiosk := f s.cur.kiosk } }

theorem witness_kiosk_rows : ([.kmbox g0 false (.s 2) (.s 1), .kput g0 (.s 2) (.s 1), .kdone g0 (.s 2) (.s 1), .kgath g0 (.s 1) (.s 2), .kdedup g0 (.s 3) (.s 1) (.s 2),
    .kpool g0 (.s 1) (.s 2), .kndsc g0 (.s 1) 0, .ktreeStart g0 (.s 2) (.s 1), .kfold g0 (.s 1) (.s 2), .klogAppend g0 (.s 2) (.s 1) 0] : List Instr).all
    (fun i => match Claim.kRow (wK []) i with | some (g, a, n, al, _) => w0.on g && decide (Claim.kFits w0 a.toNat n al) | none => false) = true := by decide

theorem witness_kiosk_faults : (4 : Word64).toNat % 64 ≠ 0 ∧ (4096 : Word64).toNat % 64 = 0 ∧ (4096 : Word64).toNat + 64 > w0.cur.foot
    ∧ (w0.rs (.s 2)).toNat = 0 ∧ ((withS1 w0 513).rs (.s 1)).toNat > 512 ∧ (w0.rs (.s 2)).toNat ≥ w0.cur.kiosk.krtn.toNat
    ∧ ((withS1 w0 4096).rs (.s 1)).toNat > 4095 ∧ w0.cur.kiosk.kintr = false ∧ w0.logs.get? 63 = none := by decide

theorem witness_kiosk_bad_descriptor : ¬ Claim.descOk (Claim.kBlock (wK []) 64 4) := by decide

def msg0 : Message := ⟨7, 0x105, 0, List.replicate 8 7, 0⟩

theorem witness_mail : (onK (wK []) fun k => { k with mbox := [msg0] }).cur.kiosk.mbox = msg0 :: [] ∧ (wK []).cur.kiosk.mbox = []
    ∧ Claim.kFits (wK []) ((wK []).rs (.s 1)).toNat 64 64 := by decide

/-- A deposit of one line, with a completion word, into context 5 of core 1. -/
def wPut : State := { wK [BitVec.ofNat 64 (1 + 5 * 2 ^ 16 + 2 ^ 24 + 2 ^ 32), 0, 4088, 9] with access := [(8 * 4096, 0xF), (0, 0xF)] }
def there : State := { wPut with others := [(2, { Ctx.ofKey 2 with grid := some 7, ctxId := 5, foot := 4096 })] }
def away : State := { wPut with grids := [(7, { grid0 with saved := [(2, { Ctx.ofKey 2 with grid := some 7, ctxId := 5, foot := 4096 })] })] }

theorem witness_deposit_block : let b := Claim.kBlock wPut (wPut.rs (.s 1)) 4
    Claim.kFits wPut (wPut.rs (.s 1)).toNat 32 32 ∧ Claim.fld b 0 0 10 = 1 ∧ Claim.fld b 0 16 8 = 5 ∧ Claim.fld b 0 32 16 = 1 ∧ Claim.fld b 0 24 1 = 1
    ∧ Claim.kFits wPut (Claim.fld b 1 0 17) 64 64 ∧ Claim.fld b 1 32 20 % 64 = 0 ∧ Claim.fld b 1 32 20 + 64 ≤ 4096
    ∧ Claim.fld b 2 0 20 % 8 = 0 ∧ Claim.fld b 2 0 20 + 8 ≤ 4096 ∧ wPut.admits 8 wPut.cur.master 1 (some 5) = true := by decide

theorem witness_deposit_placed : Claim.placed? there 1 5 2 := ⟨by decide, by decide, by decide⟩

theorem witness_deposit_placed_first : ∀ j, Claim.placed? there 1 5 j → 2 ≤ j := fun j h => by have := h.1; omega

theorem witness_deposit_saved : Claim.saved? away 1 5 7 2 { Ctx.ofKey 2 with grid := some 7, ctxId := 5, foot := 4096 } :=
  ⟨by decide, by decide, _, List.mem_singleton.mpr rfl, rfl⟩

theorem witness_deposit_saved_alone : (∀ k, ¬ Claim.placed? away 1 5 k) ∧ ∀ n k c, Claim.saved? away 1 5 n k c → n = 7 ∧ k = 2 := by
  refine ⟨fun k h => ?_, fun n k c h => ?_⟩
  · obtain ⟨h, -, h3⟩ := h
    rcases h with rfl | rfl <;> exact h3 (by decide)
  · obtain ⟨h, -, g, hg, hs⟩ := h
    cases List.mem_singleton.mp hg
    rcases h with rfl | rfl
    · exact ⟨rfl, rfl⟩
    · cases hs

theorem witness_deposit_nowhere : (∀ k, ¬ Claim.placed? wPut 1 5 k) ∧ ∀ n k c, ¬ Claim.saved? wPut 1 5 n k c := by
  refine ⟨fun k h => ?_, fun n k c h => ?_⟩
  · obtain ⟨h, -, h3⟩ := h
    rcases h with rfl | rfl
    · exact h3 (by decide)
    · exact h3 (by decide)
  · obtain ⟨-, -, g, h, -⟩ := h
    exact absurd h List.not_mem_nil

/-- One index, 0, at 512; its place at 1024; one row of one F32 element at 2048, of one bag that ends at 1, into 3072. -/
def wEmb : State := withS2 (wK [1, 0, BitVec.ofNat 64 (512 + 1024 * 2 ^ 32), BitVec.ofNat 64 (2048 + 3072 * 2 ^ 32), 1536, 0, 0, 0]) 1
where withS2 (s : State) (v : Word64) : State := { s with cur := { s.cur with
  ls := s.cur.ls.write 1536 1
  regs := { s.cur.regs with s := s.cur.regs.s.set (2 : Fin 64) v } } }

theorem witness_embedding : let b := Claim.kBlock wEmb (wEmb.rs (.s 1)) 8
    Claim.kFits wEmb (wEmb.rs (.s 1)).toNat 64 64 ∧ (wEmb.rs (.s 2)).toNat = 1 ∧ Claim.kFits wEmb (Claim.fld b 2 0 17) 4 4
    ∧ Claim.kFits wEmb (Claim.fld b 2 32 17) 2 2 ∧ Claim.fld b 0 0 12 = 1 ∧ Claim.fld b 0 13 2 ≠ 3 ∧ Claim.fld b 3 0 17 % 64 = 0 ∧ Claim.fld b 3 32 17 % 64 = 0
    ∧ Claim.kFits wEmb (Claim.fld b 4 0 17) 2 2 := by decide

theorem witness_embedding_rows : ∃ t, Claim.gathered 0 4 2048 0 [(0, 0)] wEmb = some t := ⟨_, rfl⟩

theorem witness_embedding_bags : ∃ x, Claim.pooled (Claim.kBlock wEmb (wEmb.rs (.s 1)) 8) wEmb.cur.foot (List.range 1) (wEmb, 0) = some x := ⟨_, rfl⟩

/-- A descriptor of the spec's ranges, and a traversal of one F32 feature in each state. -/
def desc0 : List Word64 := [0x003F3860001E2002, 0x02400000, 0x200100, 0]
def trav0 (st : TravState) : Trav := { Claim.started [0, 0, 0, 0, 0, 0, 0, 0] desc0 [0] with state := st, data := List.replicate 16 0 }

theorem witness_tree_descriptor : Claim.descOk (Claim.kBlock (wK desc0) 64 4) ∧ Claim.kFits (wK desc0) 64 32 32 := by decide

theorem witness_tree_start : let s := onK (wK [0, 0, 0, BitVec.ofNat 64 (2 ^ 32), 0, 0, 0, 0]) fun k => { k with desc := k.desc.set (0 : Fin 4) desc0 }
    let b := Claim.kBlock s (s.rs (.s 1)) 8
    s.cur.kiosk.trav.get? 0 = none ∧ Claim.descOk (s.cur.kiosk.desc.get (Fin.ofNat 4 (Claim.fld b 1 32 2))) ∧ Claim.fld b 3 32 16 = 1
    ∧ ¬ Claim.descOk (s.cur.kiosk.desc.get (1 : Fin 4))
    ∧ Claim.kFits s (Claim.fld b 3 0 17) 4 4 ∧ Claim.kFits s (s.rs (.s 1)).toNat 64 8 := by decide

theorem witness_tree_full : ∀ i, i < 512 → (Tab.get? ((List.range 512).map fun i => (i, trav0 .done)) i) ≠ none := by
  intro i h
  have : ∀ (l : List Nat), i ∈ l → (Tab.get? (l.map fun i => (i, trav0 .done)) i) ≠ none := by
    intro l hl
    induction l with
    | nil => exact absurd hl List.not_mem_nil
    | cons a l ih =>
      by_cases e : a = i
      · subst e; simp [Tab.get?]
      · have := ih (by simpa [Ne.symm e] using hl)
        simpa [Tab.get?, List.find?, e, beq_iff_eq] using this
  exact this _ (List.mem_range.mpr h)

theorem witness_tree_step : ((([(0, trav0 .arrived)] : Tab Trav).filter fun e => e.2.state == .arrived).take 16) = [(0, trav0 .arrived)]
    ∧ (Claim.walkAll [(0, trav0 .arrived)] w0).isSome = true := by decide

theorem witness_tree_states : (∀ e ∈ ([(0, trav0 .done)] : Tab Trav), e.2.state = .done) ∧ (∃ e ∈ ([(0, trav0 .waiting)] : Tab Trav), e.2.state = .waiting)
    ∧ (∀ e ∈ ([(0, trav0 .waiting)] : Tab Trav), e.2.state ≠ .done) := by decide

def wLog (n : Nat) (live : Bool) : State := { wK [0, 0, 3, 0, 0, 0, 0, 0] with
  logs := [(6, ⟨0, 0x20, 1, n, 0, List.replicate 48 0⟩)]
  seals := [(3, ⟨live, 0, 0x40, 1, List.replicate 48 9⟩)] }

theorem witness_log : ∀ n ∈ [255, 1023], let s := wLog n true
    let b := Claim.kBlock s (s.rs (.s 1)) 8
    (s.logs.get? 6).isSome = true ∧ (0 : BitVec 8) = s.cur.ctxId ∧ Claim.kFits s (s.rs (.s 1)).toNat 64 64 ∧ (s.seals.get? (Claim.fld b 2 0 8)).isSome = true
    ∧ n < 1024 * 1 ∧ Claim.kFits s (s.rs (.s 1)).toNat 160 8 := by decide

/-- The record that closes the first 256 stands at line 255 of the log, whose records are lines 2048 to 2303 of memory. -/
theorem witness_log_bad : let from_ := (0x2 : Nat) * 2 ^ 16 + 64 * (255 - 255)
    (255 + 1) % 256 = 0 ∧ from_ / 64 ≤ 2303 ∧ 64 * 2303 < from_ + 16384 ∧ ¬ (64 * 2304 < from_ + 16384) ∧ (0 + 1) % 256 ≠ 0 := by decide

theorem witness_log_refused : (1024 : Nat) ≥ 1024 * 1 ∧ ((wLog 0 false).seals.get? 3).map Seal.live = some false := by decide

theorem witness_routing : let s := onK (wK []) fun k => { k with krtn := 1, krtb := 64, kthr := 5, kintr := true }
    (s.rs (.s 2)).toNat < s.cur.kiosk.krtn.toNat ∧ Claim.kFits s (BitVec.ofNat 64 (s.cur.kiosk.krtb.toNat + 8 * 0)).toNat 8 8
    ∧ ((0 : Word32).toNat < s.cur.kiosk.kthr.toNat ∧ s.cur.kiosk.kthr.toNat ≤ (BitVec.ofNat 32 (min (0 + (s.rs (.s 1)).toNat) (2 ^ 32 - 1))).toNat)
    ∧ s.cur.kiosk.kintr = true ∧ ¬ ((0 : Word32).toNat < (0 : Word32).toNat) := by decide

theorem witness_kiosk_events : let s := onK (wK []) fun k => { k with trav := [(0, trav0 .waiting)], pend := [4], khnd := 0x1000 }
    s.cur.kiosk.trav.get? 0 = some (trav0 .waiting) ∧ (trav0 .waiting).state = .waiting ∧ s.cur.kiosk.pend = 4 :: [] ∧ s.cur.kiosk.kintr = false ∧ s.cur.kiosk.khnd ≠ 0
    ∧ Claim.fld (trav0 .waiting).desc 0 0 4 = 2 := by decide

theorem witness_kiosk_node : wMem.gxlate (.ltt 0 0) 0 16 8 0 = .ok (0, 0) ∧ w0.gxlate (.ltt 0 0) 0 16 8 0 = .error (4, 0, 0) := ⟨rfl, rfl⟩

theorem witness_kiosk_halts : let s : State := { w0 with cur := { w0.cur with kind := .kiosk } }
    s.cur.kind = .kiosk ∧ s.cur.run = .running := by decide

/-! ### Hypotheses: strands, barriers, points and events of a context (02, 14) -/

/-- A core of a timetabled grid of one cluster between strands, and one of an elastic grid. -/
def wStart (r : Run) (n : Nat) (g : Grid) : State := { wG with grids := [(7, g)], cur := { wG.cur with run := r, nIdx := n } }

theorem witness_strand_start : ∀ r ∈ [Run.idle, Run.ended], let s := wStart r 0 { grid0 with nc := 17 }
    s.cur.grid = some 7 ∧ (s.grids.get? 7).isSome = true ∧ s.cur.run ≠ .running ∧ s.cur.run ≠ .stopped
    ∧ ({ grid0 with nc := 17 } : Grid).joined.contains s.focus = false := by decide

/-- Nothing is in flight; the grid's own store may be pending, and so may a command of the strand before. -/
def wAfter : State := wStart .ended 0 grid0
def wOwes : State := { wAfter with cur := { wAfter.cur with active := [cmd0 .copy blk0] } }

theorem witness_no_result : ∀ s ∈ [wAfter, wOwes, { wAfter with cur := { wAfter.cur with lsPend := [remote0] } }], Claim.noResult s := by
  intro s hs
  have loads : ∀ p ∈ s.cur.lsPend, ¬ Claim.lateLoad p.op := by
    simp only [List.mem_cons, List.mem_nil_iff, or_false] at hs
    rcases hs with rfl | rfl | rfl <;> intro p hp
    · exact absurd hp List.not_mem_nil
    · exact absurd hp List.not_mem_nil
    · rw [List.mem_singleton.mp hp]
      exact id
  simp only [List.mem_cons, List.mem_nil_iff, or_false] at hs
  rcases hs with rfl | rfl | rfl <;> exact ⟨rfl, loads, rfl, rfl, fun _ h => absurd h List.not_mem_nil⟩

theorem no_token : ∀ s ∈ [wAfter, wG], ¬ Claim.owesToken s 0 := by
  intro s hs
  simp only [List.mem_cons, List.mem_nil_iff, or_false] at hs
  rcases hs with rfl | rfl <;>
    exact fun h => h.elim (fun h => h rfl) fun h => h.elim (fun h => h rfl) fun h => h.elim (fun ⟨_, h, _⟩ => absurd h List.not_mem_nil)
      fun ⟨_, h, _⟩ => absurd h List.not_mem_nil

theorem witness_owes : (true = true ↔ Claim.owesToken wOwes wOwes.focus) ∧ (false = true ↔ Claim.owesToken wAfter wAfter.focus) :=
  ⟨⟨fun _ => .inr (.inl (List.cons_ne_nil _ _)), fun _ => rfl⟩, ⟨nofun, fun h => absurd h (no_token _ List.mem_cons_self)⟩⟩

/-- At grid start, where the domain is released together. -/
theorem witness_strand_release : let s : State := { wG with cur := { wG.cur with run := .idle, holds := [.start] } }
    Hold.start ∈ s.cur.holds ∧ s.focus ∈ grid0.keys ∧ grid0.keys.Nodup ∧ grid0.joined.contains 0 = false ∧ s.cur.run = .idle
    ∧ w0.cur.run = .running ∧ Hold.start ∉ w0.cur.holds := by decide

theorem witness_strand_rank : Claim.rankOf { grid0 with nc := 17 } 0 0 0 :=
  ⟨[], ⟨0, [0]⟩, [], 0, rfl, rfl, rfl, nofun, rfl, fun j h => absurd h (Nat.not_lt_zero j), rfl⟩

theorem witness_strand_first : Claim.follows { grid0 with nc := 17 } (wStart .idle 0 grid0).cur 0 0 := by
  unfold Claim.follows
  rw [if_neg (by decide)]
  exact ⟨0, 0, witness_strand_rank, Or.inl (by decide)⟩

theorem witness_strand_next : Claim.follows { grid0 with nc := 17 } (wStart .ended 0 grid0).cur 0 16 := by
  unfold Claim.follows
  rw [if_neg (by decide)]
  exact ⟨0, 0, witness_strand_rank, Or.inr (Or.inl (by decide))⟩

theorem witness_strand_elastic : Claim.follows { grid0 with kcb := kcbE } (wStart .idle 0 grid0).cur 0 0 := by
  unfold Claim.follows
  rw [if_pos (by decide)]
  exact ⟨rfl, by decide⟩

theorem witness_chunk : Claim.takes { grid0 with ranges := [(0, (3, 9))] } 0 0 3 1 { grid0 with ranges := [(0, (4, 9))] } := by
  refine ⟨fun _ => by decide, fun h => absurd h (by decide), fun h => absurd h (by decide)⟩

theorem witness_chunk_none : Claim.takes grid0 0 0 0 0 grid0 := by
  refine ⟨fun h => absurd h (by decide), fun _ _ => ⟨rfl, rfl, rfl⟩, ?_⟩
  intro _ i hi v c hc
  have none : ∀ j, j < 16 → Claim.chunksIn grid0 (grid0.range 0 (16 * (0 / 16) + j)) = 0 := by decide
  exact absurd (none i hi) (Nat.ne_of_gt hc)

theorem witness_chunk_request : let s : State := { wE with cur := { wE.cur with outst := [⟨.chnk 62, 0, 0, 4, none⟩] } }
    s.cur.outst = ⟨.chnk 62, 0, 0, 4, none⟩ :: [] ∧ (∀ u ∈ s.requests s.cur.coreId, u.seq ≠ 4) ∧ (62 : Fin 64) ≠ 0 ∧ (62 : Fin 64).val < 63 ∧ 0 < kcbE.chunk := by decide

theorem witness_barrier : Claim.passes wG { grid0 with arrived := [(false, 0, 3, 0)] } false 0 3 := by
  refine ⟨⟨0, List.mem_singleton.mpr rfl⟩, ?_, fun e he => absurd he List.not_mem_nil⟩
  intro k hk _
  have hk : k = 0 := List.mem_singleton.mp hk
  exact Or.inl (by subst hk; exact List.mem_singleton.mpr rfl)

theorem witness_barrier_open : ¬ Claim.passes wG grid0 false 0 3 := by
  rintro ⟨⟨k, h⟩, -⟩
  exact absurd h List.not_mem_nil

theorem witness_barrier_watchdog : let g : Grid := { grid0 with arrived := [(true, 0, 0, 0), (true, 0, 15, 2)] }
    g.keys = 0 :: [] ∧ (0 : Nat) < 15 ∧ (15 : Nat) < 16 ∧ Claim.arrivals g true 0 0 0 ∧ Claim.arrivals g true 0 15 2 := by decide

theorem witness_early_trigger : let g : Grid := { grid0 with triggered := 1 }
    g.state = .running ∧ g.early = true ∧ g.strandCount ≤ g.triggered ∧ grid0.triggered < grid0.strandCount := by decide

theorem witness_still_out : Claim.stillOut wStore 0 1 0 ∧ ¬ Claim.stillOut wG 0 1 0 := by
  refine ⟨Or.inl ⟨_, List.mem_cons_self, rfl, by decide⟩, ?_⟩
  have none {α : Type} {P : α → Prop} {l : List α} (e : l = []) : ¬ ∃ x ∈ l, P x := by
    subst e
    exact fun ⟨_, h, _⟩ => List.not_mem_nil h
  rintro (h | h | h | h | h | h) <;> exact none rfl h

theorem witness_point : Claim.heardAll wG { grid0 with point := [(0, 9)] } 0 := by
  refine ⟨?_, ?_, ?_, ?_⟩
  · intro cl hcl
    have : cl = 0 := by simpa [Claim.domains, grid0] using hcl
    exact Or.inl (by subst this; decide)
  · exact ⟨0, by decide, rfl⟩
  · intro m hm
    have : m = ⟨0, [0]⟩ := by simpa [grid0] using hm
    exact Or.inl (by subst this; rfl)
  · intro p h1 h2
    simp [grid0, kcb0] at h2
    omega

theorem witness_point_not_yet : ¬ Claim.heardAll wG grid0 0 := by
  rintro ⟨h, -⟩
  rcases h 0 (by decide) with h | h
  · exact h rfl
  · exact absurd h (by decide)

/-- No context of the grid waits for a resumption. -/
theorem witness_point_plain : grid0.resume = none ∧ (∀ k ∈ grid0.keys, Hold.resume ∉ (wG.ctx k).holds) ∧ grid0.state = .running := by decide

/-- Grid 7 resumes on die 0, alone or with another package. -/
def gridR (pkgs : Nat) : Grid := { grid0 with kcb := { kcb0 with pkgs := pkgs }, resume := some ([], []) }
def wResumes (pkgs : Nat) : State := { wG with grids := [(7, gridR pkgs)], cur := { wG.cur with holds := [.resume] } }

theorem witness_resumes : Claim.waitsResume (wResumes 1) (gridR 1) 0 ∧ Claim.heardResume (wResumes 1) (gridR 1) [] [] 0
    ∧ ¬ Claim.heardResume (wResumes 2) (gridR 2) [] [] 0 ∧ Claim.heardResume (wResumes 2) (gridR 2) [] ([] ++ [1]) 0
    ∧ ¬ ((0 : Nat) ≠ 0 ∧ ∃ m ∈ (gridR 1).members, m.die = 0) := by
  have here : ∀ m ∈ [(⟨0, [0]⟩ : Member)], m.die = 0 := by decide
  refine ⟨⟨0, by decide, rfl, List.mem_singleton.mpr rfl⟩, ⟨fun m h => .inl (here m h), fun p h1 h2 => ?_⟩, fun h => ?_,
    ⟨fun m h => .inl (here m h), fun p h1 h2 => ?_⟩, fun h => h.1 rfl⟩
  · exact absurd (Nat.lt_of_lt_of_le h2 h1) (Nat.lt_irrefl p)
  · exact absurd (h.2 1 (by decide) (by decide)) List.not_mem_nil
  · obtain rfl : p = 1 := Nat.le_antisymm (Nat.le_of_lt_succ h2) h1
    exact List.mem_singleton.mpr rfl

theorem witness_point_package : ({ kcb0 with pkgs := 2 } : Kcb).pkgs = 2 ∧ (0 : Nat) < 1 ∧ (1 : Nat) < 2 ∧ ({ grid0 with kcb := { kcb0 with pkgs := 2 } } : Grid).state = .running := by
  decide

theorem witness_fetch : wMem.missing = some 0 ∧ lttXlate wMem.cur.ltt 0 64 8 3 4 = .ok (0, 0) ∧ wMem.physFault wMem.cur.master wMem.cur.ctxId 0 0 64 3 = none :=
  ⟨by decide +kernel, rfl, rfl⟩

theorem witness_fetch_fault : let s : State := { wMem with access := [] }
    s.missing = some 0 ∧ s.physFault s.cur.master s.cur.ctxId 0 0 64 3 = some (5, 0, 4) := ⟨by decide +kernel, rfl⟩

theorem witness_fetch_nothing : ({ wMem with icache := [(0, [(0, Vector.replicate 8 0)])] } : State).missing = none := rfl

def deposit0 : ElReq := ⟨.deposit, 0, 0, 0, none, 64, 1, .write [1]⟩

/-- A tick after the requests were made. -/
def ticked (s : State) : State := { s with dies := s.dies.set (0 : Fin 4) { s.dies.get 0 with tick := 1 } }
def wAsk (l : List ElReq) : State := ticked { wE with elReqs := l }

theorem witness_elastic_grant : let s := wAsk [deposit0]
    s.elReqs = [] ++ deposit0 :: [] ∧ deposit0.job = .write [1] ∧ deposit0.key = s.focus ∧ s.cur.grid ≠ none ∧ s.lsReqs = []
    ∧ deposit0.age < Claim.lsTick s deposit0 := by decide

theorem witness_elastic_access : let e : ElReq := { asked0 with age := 0, key := 0 }
    let s := wAsk [e]
    s.elReqs = [e] ∧ s.lsReqs = [] ∧ e.age < Claim.lsTick s e ∧ e.job = .access remote0 ∧ e.owner = some s.focus := by decide

theorem witness_open : Claim.open_ (wAsk [deposit0]) 0 deposit0 := by
  refine ⟨rfl, by decide, fun j _ h => absurd h (Nat.not_lt_zero j), fun _ _ _ h => absurd h List.not_mem_nil⟩

/-- A request of this tick; a bank that the tick holds; a completion word behind its deposit. -/
theorem witness_elastic_waits : ¬ Claim.open_ { wE with elReqs := [deposit0] } 0 deposit0
    ∧ ¬ Claim.open_ { wAsk [deposit0] with lsReqs := [⟨0, 1, 0, 64, 8, false, 0, 0, 0, false⟩] } 0 deposit0
    ∧ ¬ Claim.open_ (wAsk [deposit0, { deposit0 with kind := .cword }]) 1 { deposit0 with kind := .cword } :=
  ⟨fun h => absurd h.2.1 (by decide), fun h => absurd (h.2.2.2 1 (by decide) _ List.mem_cons_self rfl) (by decide),
    fun h => h.2.2.1 0 deposit0 (by decide) rfl (.inl ⟨rfl, rfl, rfl, rfl⟩)⟩

/-- Two deposits of one bank: that of the lower master goes first. -/
def deposit1 : ElReq := { deposit0 with master := 1 }

theorem witness_elastic_first : let s := wAsk [deposit1, deposit0]
    Claim.open_ s 0 deposit1 ∧ Claim.open_ s 1 deposit0 ∧ Claim.goesBefore s 1 deposit0 0 deposit1
    ∧ ∀ k w, k ≠ 1 → Claim.open_ s k w → ¬ Claim.goesBefore s k w 1 deposit0 := by
  refine ⟨⟨rfl, by decide, fun j _ h => absurd h (Nat.not_lt_zero j), fun _ _ _ h => absurd h List.not_mem_nil⟩,
    ⟨rfl, by decide, fun j x h hx => ?_, fun _ _ _ h => absurd h List.not_mem_nil⟩,
    ⟨rfl, 1, by decide, by decide, .inr ⟨rfl, .inr ⟨rfl, .inl (by decide)⟩⟩⟩, fun k w hk hw h => ?_⟩
  · obtain rfl : j = 0 := by omega
    cases hx
    rintro (⟨h, -⟩ | ⟨-, p, q, h, -⟩) <;> cases h
  · have hx := hw.1
    obtain _ | k := k
    · obtain rfl : deposit1 = w := Option.some.inj hx
      obtain ⟨-, b, -, -, h | ⟨-, h | ⟨-, h | ⟨h, -⟩⟩⟩⟩ := h
      · exact absurd h (Nat.lt_irrefl _)
      all_goals exact absurd h (by decide)
    · obtain _ | k := k
      · exact absurd rfl hk
      · cases hx

theorem witness_grid_fault : (⟨14, 0, 0, 0, 0⟩ : FaultWords).code = 14 ∧ (⟨15, 0, 0, 0, 0⟩ : FaultWords).code ≠ 14 ∧ wG.cur.grid ≠ none ∧ w0.cur.grid = none := by decide

theorem witness_starvation : let s : State := { wE with cur := { wE.cur with guard := true, starve := 4096 } }
    s.focus = 2 * 0 ∧ s.cur.guard = true ∧ 4096 ≤ s.cur.starve := by decide

/-! ### Hypotheses: queues, launches, retirement and pre-emption (24) -/

/-- Context 5 of function 1 with a page table at 4096 that maps the first gigabyte onto itself, readable and writable. -/
def wQ : State := { State.reset with
  boot := { Boot.reset with step := 8 }
  ctxs := [(5, { CtxRegs.reset with func := 1, alive := true, ptroot := 1 })]
  mem := (Memory.writeN [] 4096 [0x01, 0x20]).write 8192 0x27
  pmap := [⟨0, 2 ^ 40, 0⟩]
  funcs := [(1, { Func.reset with alive := true })]
  access := [(0x400, 0xF), (0x11 * 4096 + 0x901, 0xF), (0x901, 0xF), (0x80 * 4096 + 0x901, 0xF)] }

def queue0 : Queue := { Queue.reset with en := true, ctx := 5, log2 := 4, base := 0x10000 }
def onQ (x : Queue) : State := { wQ with queues := [(0, x)] }

theorem witness_doorbell : (onQ queue0).queue 0 = queue0 ∧ queue0.en = true ∧ queue0.halted = false ∧ ((16 : Word32) - queue0.head).toNat ≤ 2 ^ queue0.log2
    ∧ 2 ^ queue0.log2 < ((17 : Word32) - queue0.head).toNat ∧ Queue.reset.en = false := by decide

theorem witness_window_open : Claim.windowOpen wQ 1 ∧ Claim.atDispatcher wQ 1 ∧ State.reset.boot.step ≠ 8 ∧ ¬ Claim.lives wQ 2 ∧ ¬ Claim.atDispatcher wQ 2
    ∧ (let s : State := { wQ with funcs := [(1, { Func.reset with alive := true, waits := [.reg 0x500 0] })] }
      (s.func 1).waits ≠ [] ∧ Claim.lives s 1 ∧ Claim.atDispatcher s 1) :=
  ⟨⟨rfl, .inr rfl, rfl⟩, rfl, by decide, by decide, nofun, by decide, .inr rfl, rfl⟩

theorem witness_packet_fetch : let s := onQ { queue0 with tail := 1 }
    (s.queue 0).head ≠ (s.queue 0).tail ∧ s.vread (s.queue 0).ctx 0x10000 64 = some (List.replicate 64 0)
    ∧ (onQ { queue0 with base := 2 ^ 47 }).vread 5 (2 ^ 47) 64 = none := by decide +kernel

/-- A packet of a type that names code object 9. -/
def pkt (type : Nat) : List Word64 := BitVec.ofNat 64 (type + 9 * 2 ^ 32) :: List.replicate 7 0
def code0 : CodeObj := ⟨1, 5, 0, 64, [], [], [], [kcb0], [⟨0, 0, 0, 0⟩], [Vector.replicate 64 (0, 0)], [], [], true⟩

/-- Queue 0 with a launch of that type, function 1 owning cluster 0; and the machine once arbitration has picked it. -/
def wL (type : Nat) (c : CodeObj) (f : Func) : State := { onQ { queue0 with waiting := [⟨0, pkt type, 0, 0⟩], age := 1 } with
  codes := [(9, c)]
  funcs := [(1, f)] }
def func1 : Func := { Func.reset with alive := true, weight := 256, deficit := 256, clusters := 1 }
def picked (type : Nat) (c : CodeObj) : State := wL type c { func1 with deficit := 0, nextQ := 1 }
def left (type : Nat) (c : CodeObj) : State := Claim.idled (Claim.onQueue (picked type c) 0 { (picked type c).queue 0 with waiting := [] })

theorem ready_of_picked : ∀ t ∈ [0, 1, 2, 3], (wL t code0 func1).ready = [(0, ⟨0, pkt t, 0, 0⟩)] := by decide +kernel

theorem witness_pick (t : Nat) (h : t ∈ [0, 1, 2, 3]) : (wL t code0 func1).pick = some (picked t code0, 0) := by
  unfold State.pick
  rw [ready_of_picked t h]
  simp only [List.mem_cons, List.mem_nil_iff, or_false] at h
  rcases h with rfl | rfl | rfl | rfl <;> rfl

theorem witness_pick_waiting : ∀ t, ((wL t code0 func1).queue 0).waiting = ⟨0, pkt t, 0, 0⟩ :: [] := fun _ => rfl

theorem witness_aging : (wL 0 code0 func1).readyHead 0 = some ⟨0, pkt 0, 0, 0⟩ ∧ ((wL 0 code0 func1).queue 0).age ≠ 0
    ∧ (⟨0, pkt 0, 0, 65535⟩ : Launch).ready < (1 : BitVec 8).toNat * 2 ^ 16 ∧ (1 : BitVec 8).toNat * 2 ^ 16 ≤ (⟨0, pkt 0, 0, 65536⟩ : Launch).ready :=
  ⟨rfl, by decide, by decide, by decide⟩

theorem witness_object : ∀ t, Claim.objectOf (left t code0) 0 (pkt 1) code0 ∧ Claim.objectOf (left t code0) 0 (pkt 2) code0 := fun _ => ⟨⟨rfl, rfl, rfl⟩, ⟨rfl, rfl, rfl⟩⟩

theorem witness_rejected : Claim.rejects (left 3 code0) 0 ⟨0, pkt 3, 0, 0⟩ 1 ∧ ∀ m, m < 1 → ¬ Claim.rejects (left 3 code0) 0 ⟨0, pkt 3, 0, 0⟩ m := by
  refine ⟨Or.inl ⟨rfl, Or.inl (by decide)⟩, fun m hm h => ?_⟩
  have : m = 0 := by omega
  subst this
  simp [Claim.rejects] at h

theorem witness_accepted : ∀ n, ¬ Claim.rejects (left 1 code0) 0 ⟨0, pkt 1, 0, 0⟩ n := by
  have one : ∀ c, Claim.objectOf (left 1 code0) 0 (pkt 1) c → c = code0 := fun c h => (Option.some.inj h.1).symm
  rintro n (⟨-, h | h⟩ | ⟨-, -, h⟩ | ⟨-, c, hc, h⟩ | ⟨-, c, k, hc, hk, ⟨-, v, hv, h⟩ | ⟨-, h, -⟩ | ⟨-, h⟩⟩ | ⟨-, h, -⟩)
  · exact absurd h (by decide)
  · exact absurd h.2.1 (by decide)
  · exact h ⟨code0, (witness_object 1).1⟩
  · rw [one c hc] at h
    rcases h with h | h
    · exact absurd h.2 (by decide)
    · exact absurd h.1 (by decide)
  · rw [one c hc] at hk
    cases hk
    exact absurd h.1 (by simp [kcb0] at hv; subst hv; decide)
  · exact h (by decide)
  · rw [one c hc] at hk
    cases hk
    exact absurd h (by decide)
  · exact absurd h (by decide)

theorem witness_placed : ∃ pl, (left 1 code0).place? [] 0 ⟨0, pkt 1, 0, 0⟩ kcb0 = some pl := ⟨_, rfl⟩

theorem witness_trips : (∀ v ∈ kcb0.levels, Claim.tripOf (pkt 1) v ≠ 0) ∧ Claim.tripOf (pkt 1) ⟨.core, none, 0⟩ = 0 := by decide

theorem witness_kiosk_start : ∀ n, ¬ Claim.rejects (left 2 code0) 0 ⟨0, pkt 2, 0, 0⟩ n := by
  have one : ∀ c, Claim.objectOf (left 2 code0) 0 (pkt 2) c → c = code0 := fun c h => (Option.some.inj h.1).symm
  rintro n (⟨-, h | h⟩ | ⟨-, -, h⟩ | ⟨-, c, hc, h⟩ | ⟨h, -⟩ | ⟨-, -, h | h | h⟩)
  · exact absurd h (by decide)
  · exact absurd h.1 (by decide)
  · exact h ⟨code0, (witness_object 2).2⟩
  · rw [one c hc] at h
    rcases h with h | h
    · exact absurd h.1 (by decide)
    · exact absurd h.2 (by decide)
  all_goals exact absurd h (by decide)

/-- A kiosk image of one line, which the page table maps or does not map. -/
def codeK (img : Nat) : CodeObj := { code0 with kiosks := [⟨0, 0, img, 64⟩] }

theorem witness_kiosk_image : (left 2 (codeK 0x10000)).vread 5 0x10000 64 ≠ none ∧ (left 2 (codeK (2 ^ 47))).vread 5 (2 ^ 47) 64 = none
    ∧ (codeK 7).kiosks[0]?.map (·.img) = some 7 := by decide +kernel

/-- A kiosk core that runs already. -/
theorem witness_kiosk_busy : let s : State := { left 2 code0 with others := [(2048, { Ctx.ofKey 2048 with run := .running })] }
    Claim.rejects s 0 ⟨0, pkt 2, 0, 0⟩ 7 := by
  refine Or.inr (Or.inr (Or.inr (Or.inr ⟨rfl, by decide, Or.inr (Or.inl rfl)⟩)))

/-- Grid 7 with its one strand ended, or stopped by a fault. -/
def wEnd (r : Run) (g : Grid) : State := { wG with grids := [(7, g)], cur := { wG.cur with run := r } }

theorem witness_retire : let s := wEnd .ended grid0
    grid0.saved = [] ∧ (∀ k ∈ grid0.keys, s.ctxOver grid0 k = true) ∧ s.keysQuiet grid0.keys = true ∧ (∀ u ∈ s.reqq, u.key ∉ grid0.keys)
    ∧ (s.ctxRegs grid0.ctx.toNat).ingress = [] ∧ wG.ctxOver grid0 0 = false := by decide

/-- An early grid whose every strand has counted; a store of the grid that is still to perform. -/
theorem witness_retire_fires : let g : Grid := { grid0 with triggered := 1 }
    g.state = .running ∧ g.early = true ∧ g.strandCount ≤ g.triggered ∧ g.owed = [] ∧ ¬ grid0.strandCount ≤ grid0.triggered := by decide

theorem witness_retire_stores : let s : State := { wEnd .ended grid0 with reqq := wStore.reqq }
    (∀ u ∈ s.reqq, u.op = none ∧ u.key ∈ grid0.keys) ∧ (s.reqq.map Store.seq).Pairwise (· < ·) ∧ (∀ e ∈ s.allCtxs, e.2.outst = [])
    ∧ (∀ k ∈ grid0.keys, s.ctxOver grid0 k = true) ∧ s.keysQuiet grid0.keys = true := by
  refine ⟨by decide, by decide, ?_, by decide, by decide⟩
  intro e he
  cases List.mem_singleton.mp he
  rfl

theorem witness_retire_plain : wG.failures = [] ∧ wG.corrected = [] ∧ (∀ e ∈ wG.funcs, e.2.asked = none) ∧ ¬ (wG.ctxOver grid0 0 = true) := by decide

theorem witness_retire_faulted : let s := wEnd .stopped { grid0 with fault := some [] }
    (s.keysQuiet grid0.keys = true ∨ s.gridStill grid0.keys = true) ∧ wStore.keysQuiet grid0.keys = false ∧ wStore.gridStill grid0.keys = false := by decide

theorem witness_at_rest : Claim.atRest wG [0] := by
  refine ⟨?_, fun _ h => absurd h List.not_mem_nil, fun _ h => absurd h List.not_mem_nil, fun _ h => absurd h List.not_mem_nil⟩
  intro k hk
  have : k = 0 := List.mem_singleton.mp hk
  subst this
  exact ⟨rfl, rfl, rfl, fun _ h => absurd h List.not_mem_nil⟩

theorem witness_preempt : let s : State := { wG with cur := { wG.cur with holds := [.preempted] } }
    s.saving grid0 = true ∧ wG.saving grid0 = false ∧ wG.mustYield 7 = false ∧ grid0.keys.Nodup ∧ grid0.state = .running ∧ grid0.kcb.elastic = false
    ∧ (wG.ctxRegs grid0.ctx.toNat).func.toNat ≠ 2 ∧ wG.grids.filter (fun e => e.2.ctx == grid0.ctx) = [(7, grid0)] := by decide

/-- Functions 1 and 2 share cluster 0; function 2 waits for it. -/
def wShare : State := { wG with
  funcs := [(1, { func1 with shared := true }), (2, { func1 with shared := true })]
  queues := [(32, { queue0 with waiting := [⟨0, pkt 0, 0, 0⟩] })] }

theorem witness_slice : (wShare.func grid0.func).shared = true ∧ wShare.waitsFor grid0.func = true ∧ wShare.grids.filter (fun e => e.2.func == grid0.func) = [(7, grid0)]
    ∧ (wG.func 1).shared = false ∧ (wShare.func 1).used < (wShare.func 1).slice.toNat
    ∧ ({ func1 with shared := true, used := 2000000 } : Func).slice.toNat ≤ ({ func1 with shared := true, used := 2000000 } : Func).used := by decide

/-- Grid 7 saved, its place free. -/
def gridS : Grid := { grid0 with state := .preempted, keys := [], saved := [(0, { Ctx.ofKey 0 with grid := some 7, ctxId := 5, run := .ended })] }
def wKept : State := { State.reset with grids := [(7, gridS)], funcs := [(1, func1)] }

theorem witness_resume : wKept.resumable gridS = true ∧ wKept.ready = [] ∧ gridS.kcb.elastic = false ∧ gridS.savedEng = [] ∧ wKept.fabric = []
    ∧ wKept.members? [] gridS.func gridS.kcb.dies gridS.kcb.clus gridS.kcb.foot = some gridS.members ∧ (gridS.members.flatMap Member.keys).Nodup
    ∧ (gridS.saved.map Prod.fst).Nodup ∧ (∀ e ∈ gridS.saved, e.1 ∈ gridS.members.flatMap Member.keys)
    ∧ (∀ e ∈ gridS.saved, (e.2.run = .running → e.2.regs.h = Vector.replicate 8 none) ∧ e.2.holds = [])
    ∧ (∀ x ∈ wKept.grids, Claim.fld x.2.pkt 0 11 3 ≤ Claim.fld gridS.pkt 0 11 3) := by decide

/-- One of its strands was running. -/
theorem witness_resume_running : let c : Ctx := { Ctx.ofKey 0 with grid := some 7, ctxId := 5, run := .running }
    c.run = .running ∧ c.regs.h = Vector.replicate 8 none ∧ c.holds = []
    ∧ ({ wKept with grids := [(7, { gridS with saved := [(0, c)] })] } : State).resumable { gridS with saved := [(0, c)] } = true := by decide

/-- A ready launch of a higher level: the grid waits. -/
theorem witness_resume_waits : let s : State := { wKept with
      funcs := [(1, { func1 with clusters := 1 })], ctxs := [(5, { CtxRegs.reset with func := 1, alive := true })]
      queues := [(0, { queue0 with waiting := [⟨0, [BitVec.ofNat 64 (2 ^ 11)], 0, 0⟩] })] }
    ∃ x ∈ s.ready, Claim.fld gridS.pkt 0 11 3 < x.2.level := by decide +kernel

/-! ### Hypotheses: the host, firmware and the board (23, 25, 26, 27) -/

theorem witness_contexts : (wQ.ctxRegs 5).alive = true ∧ Claim.owned wQ 1 5 ∧ Claim.owned wQ 0 5 ∧ ¬ Claim.owned wQ 2 5 ∧ (wQ.ctxRegs 6).alive = false
    ∧ Claim.lives wQ 1 ∧ ¬ Claim.lives wQ 2 ∧ wQ.grids = [] ∧ wQ.queues = [] ∧ (∀ e ∈ wQ.allCtxs, e.2.run ≠ .running) := by decide

/-- A context in use by a grid, by an enabled queue, by a kiosk program. -/
theorem witness_context_in_use : (∃ e ∈ wG.grids, e.2.ctx = 5) ∧ (∃ e ∈ (onQ queue0).queues, e.2.ctx = 5 ∧ (e.2.en = true ∨ e.2.waiting ≠ []))
    ∧ ∃ e ∈ ({ wQ with others := [(2048, { Ctx.ofKey 2048 with run := .running, ctxId := 5 })] } : State).allCtxs,
      e.2.kind = .kiosk ∧ e.2.run = .running ∧ e.2.ctxId = 5 :=
  ⟨⟨(7, grid0), List.mem_singleton.mpr rfl, rfl⟩, ⟨_, List.mem_singleton.mpr rfl, rfl, .inl rfl⟩,
    ⟨_, List.mem_cons_of_mem _ (List.mem_singleton.mpr rfl), rfl, rfl, rfl⟩⟩

/-- Function 1 has a request of a kind under way, for a region of one unit at 64 KiB. -/
def wReq (kind : Nat) (ctx : Nat) (len : Nat) : State := { wQ with
  funcs := [(1, { func1 with seal0 := BitVec.ofNat 64 (ctx + kind * 2 ^ 9), seal1 := 2 ^ 16, seal2 := BitVec.ofNat 64 len, seal3 := 2 ^ 16 })]
  pmap := [⟨0, 2 ^ 17, 0⟩] }

theorem witness_requests : ∀ k ∈ [0, 1], ((wReq k 5 1).func 1).seal3.toNat.testBit 16 = true ∧ ((wReq k 5 1).func 1).seal0.toNat.testBit 9 = (k == 1)
    ∧ (wQ.func 1).seal3.toNat.testBit 16 = false ∧ (wReq k 5 1).seals = [] ∧ (wReq k 5 1).logs.get? 0 = none := by decide

/-- The region of one unit at 64 KiB may be sealed or hold a log. -/
theorem region_free (k : Nat) (hk : k = 0 ∨ k = 1) (free : Bool) : Claim.verdict (wReq k 5 1) ((wReq k 5 1).func 1) 1 free (if free then 0 else 1) := by
  have place : ∀ i, i < 1 → Claim.inStack (wReq k 5 1) (2 ^ 16 + i * 2 ^ 16) ∧ Claim.inStack (wReq k 5 1) (2 ^ 16 + i * 2 ^ 16 + (2 ^ 16 - 1)) := by
    intro i hi
    obtain rfl : i = 0 := Nat.lt_one_iff.mp hi
    rcases hk with rfl | rfl <;> refine ⟨⟨?_, ?_, ?_⟩, ?_, ?_, ?_⟩ <;> decide
  have low : ∀ r ∈ (wReq k 5 1).pmap, 8 ≤ r.target → ¬ Claim.meets (2 ^ 16) (1 * 2 ^ 16) r.base r.size := by
    intro r hr h8
    cases List.mem_singleton.mp hr
    exact absurd h8 (by decide)
  have fits := (⟨Nat.le_refl 1, by decide, by decide, low, place, fun _ h => absurd h List.not_mem_nil, fun _ h => absurd h List.not_mem_nil⟩ :
    1 ≤ 1 ∧ 1 ≤ 2 ^ 20 ∧ 2 ^ 16 + 1 * 2 ^ 16 ≤ 2 ^ 52 ∧ (∀ r ∈ (wReq k 5 1).pmap, 8 ≤ r.target → ¬ Claim.meets (2 ^ 16) (1 * 2 ^ 16) r.base r.size)
      ∧ (∀ i, i < 1 → Claim.inStack (wReq k 5 1) (2 ^ 16 + i * 2 ^ 16) ∧ Claim.inStack (wReq k 5 1) (2 ^ 16 + i * 2 ^ 16 + (2 ^ 16 - 1)))
      ∧ (∀ e ∈ (wReq k 5 1).seals, ¬ Claim.meets (2 ^ 16) (1 * 2 ^ 16) (e.2.base.toNat * 2 ^ 16) (e.2.len * 2 ^ 16))
      ∧ ∀ e ∈ (wReq k 5 1).logs, ¬ Claim.meets (2 ^ 16) (1 * 2 ^ 16) (e.2.base.toNat * 2 ^ 16) (e.2.len * 2 ^ 16))
  rcases hk with rfl | rfl <;> cases free
  · exact Or.inr (Or.inr (Or.inl ⟨rfl, by decide, fits, rfl⟩))
  · exact Or.inr (Or.inr (Or.inr ⟨rfl, by decide, fits, rfl⟩))
  · exact Or.inr (Or.inr (Or.inl ⟨rfl, by decide, fits, rfl⟩))
  · exact Or.inr (Or.inr (Or.inr ⟨rfl, by decide, fits, rfl⟩))

theorem witness_request_granted : Claim.verdict (wReq 0 5 1) ((wReq 0 5 1).func 1) 1 true 0 ∧ Claim.verdict (wReq 1 5 1) ((wReq 1 5 1).func 1) 1 true 0 :=
  ⟨region_free 0 (.inl rfl) true, region_free 1 (.inr rfl) true⟩

theorem witness_request_taken : Claim.verdict (wReq 1 5 1) ((wReq 1 5 1).func 1) 1 false 1 := region_free 1 (.inr rfl) false

theorem witness_request_not_ours : Claim.verdict (wReq 0 6 1) ((wReq 0 6 1).func 1) 1 true 3 := Or.inl ⟨rfl, by decide⟩

theorem witness_request_no_place : Claim.verdict (wReq 1 5 0) ((wReq 1 5 0).func 1) 1 true 2 := Or.inr (Or.inl ⟨rfl, by decide, fun h => absurd h.1 (by decide)⟩)

/-- No register is taken, or the first has the request's own range; a host write into the region waits; one line of it is in error. -/
def sealNew : Seal := ⟨false, 5, 1, 1, List.replicate 48 0⟩
def wSealed : State := { wReq 0 5 1 with seals := [(0, sealNew)] }

theorem witness_seal_lowest : (∀ e ∈ (wReq 0 5 1).seals, e.2 ≠ sealNew) ∧ (0 : Nat) < 256 ∧ (¬ ∃ e ∈ (wReq 0 5 1).seals, e.1 = 0)
    ∧ (∀ j, j < 0 → ∃ e ∈ (wReq 0 5 1).seals, e.1 = j) ∧ (true = true ↔ ∃ i, i < 256 ∧ ¬ ∃ e ∈ (wReq 0 5 1).seals, e.1 = i)
    ∧ wSealed.seals = [] ++ (0, sealNew) :: [] :=
  ⟨fun _ h => absurd h List.not_mem_nil, by decide, by decide, nofun, ⟨fun _ => ⟨0, by decide, by decide⟩, fun _ => rfl⟩, rfl⟩

theorem witness_seal_numbered : ((wReq 0 5 1).reqq.map Store.seq ++ (wReq 0 5 1).allCtxs.flatMap fun e => e.2.outst.map Outst.seq).Nodup
    ∧ ((wReq 0 5 1).allCtxs.map Prod.fst).Nodup := by
  constructor <;> simp [State.allCtxs, wReq, wQ, State.reset, Ctx.idleOf]

theorem witness_seal_waits : (∃ e ∈ ({ wReq 0 5 1 with ctxs := [(5, { CtxRegs.reset with ingress := [(2 ^ 16, [1])] })] } : State).ctxs,
      ∃ w ∈ e.2.ingress, Claim.meets w.1 w.2.length (2 ^ 16) (1 * 2 ^ 16))
    ∧ (¬ ∃ e ∈ (wReq 0 5 1).ctxs, ∃ w ∈ e.2.ingress, Claim.meets w.1 w.2.length (2 ^ 16) (1 * 2 ^ 16))
    ∧ (∃ l ∈ ({ wReq 0 5 1 with bad := [1024] } : State).bad, 2 ^ 16 / 64 ≤ l ∧ 64 * l < 2 ^ 16 + 1 * 2 ^ 16) ∧ (wReq 0 5 1).bad = [] :=
  ⟨⟨_, List.mem_cons_self, _, List.mem_cons_self, by decide⟩, by decide, ⟨1024, List.mem_singleton.mpr rfl, by decide⟩, rfl⟩

theorem witness_seal_still : (∀ u ∈ (wReq 0 5 1).reqq, ¬ Claim.meets u.pa u.bytes.length (2 ^ 16) (1 * 2 ^ 16)) ∧ ∀ e ∈ (wReq 0 5 1).allCtxs, e.2.outst = [] := by
  refine ⟨fun _ h => absurd h List.not_mem_nil, fun e he => ?_⟩
  cases List.mem_singleton.mp he
  rfl

/-- Grid 7 waits for the page of 0 under tag 3 of function 1. -/
def wait0 : TWait := ⟨5, 0, 0, 3, false, [(7, 0)]⟩
def wWait : State := { wQ with
  grids := [(7, { grid0 with ptroot := 1 })]
  funcs := [(1, { func1 with twaits := [wait0] })]
  access := [(0, 0xF)]
  cur := { State.reset.cur with grid := some 7, ctxId := 5, run := .running, holds := [.walk 1 0 0 0 none 0] } }

theorem witness_twait_entries : (wWait.func 1).twaits = [] ++ wait0 :: [] ∧ wait0.popped = false ∧ ((wWait.func 1).twaits.map TWait.tag).Nodup
    ∧ (∀ t ∈ (wWait.func 1).twaits, t.tag ≠ 4) ∧ (∀ t ∈ (wQ.func 1).twaits, t.popped = true)
    ∧ (wWait.func 1).twaits.find? (fun x => x.tag == 3) = some wait0 ∧ wait0.keys = [(7, wWait.focus)] ∧ wWait.cur.kind = .compute
    ∧ (0 : Word64).toNat / 2 ^ 12 % 2 ^ 36 = wait0.va ∧ wWait.others = [] := by decide

theorem witness_twait_context : Claim.windowOpen wWait 1 ∧ wWait.cur.holds = .walk 1 0 0 0 none 0 :: [] ∧ wWait.cur.grid = some 7 ∧ wWait.grids.get? 7 = some { grid0 with ptroot := 1 } :=
  ⟨⟨rfl, .inr rfl, rfl⟩, rfl, rfl, rfl⟩

theorem witness_twait_walk : ∃ x, (Claim.func wWait 1 { wWait.func 1 with twaits := [] }).walk (some wWait.cur.master) wWait.cur.ctxId 1 0 0 = .handle x := ⟨_, rfl⟩

theorem witness_lttpatch : let s : State := { wQ with codes := [(9, code0)] }
    let w : Word64 := BitVec.ofNat 64 (5 + 63 * 2 ^ 14 + 2 ^ 20 + 9 * 2 ^ 32)
    w.toNat.testBit 20 = true ∧ (s.codes.get? (w.toNat / 2 ^ 32) = some code0) ∧ code0.ltts[w.toNat / 2 ^ 8 % 2 ^ 6]? ≠ none ∧ w.toNat / 2 ^ 14 % 2 ^ 6 ≠ 0
    ∧ code0.ctx = w.truncate 8 ∧ Claim.owned s 1 (w.truncate 8) ∧ (0 : Word64).toNat.testBit 20 = false := by decide

theorem witness_lttpatch_busy : ∃ e ∈ ({ wQ with grids := [(7, { grid0 with code := 9 })] } : State).grids, e.2.code = 9 ∧ e.2.state ≠ .preempted :=
  ⟨_, List.mem_singleton.mpr rfl, rfl, by decide⟩

/-- The report's write is admitted as firmware's, and as its standby's. -/
theorem witness_firmware_admitted : let s : State := { wQ with access := [(0x0C * 4096 + 0x8C0, 2)] }
    s.admits 0x0C (Claim.firmwareId s) 1 none = true ∧ wQ.admits 0x0C (Claim.firmwareId wQ) 1 none = false
    ∧ Claim.firmwareId { s with standby := [.management] } = 0x8C1 := by decide

/-- A read of host memory is under way as the link of function 1 fails. -/
theorem witness_over_link : let o : Outst := ⟨.ldg (.s 1) 64 .d 0, 0, 0, 0, none⟩
    let s : State := { wQ with pmap := [⟨0, 4096, 0x0C⟩], cur := { wQ.cur with ctxId := 5, outst := [o] } }
    s.cur.outst = [o] ∧ (∀ e ∈ s.others, e.2.outst = []) ∧ o.data = none ∧ o.op.parts = (64, 8, 0) :: [] ∧ Claim.overLink s 1 s.cur.ctxId 64
    ∧ (s.func 1).linkErr = false ∧ ¬ Claim.overLink wQ 1 5 64 :=
  ⟨rfl, fun _ h => absurd h List.not_mem_nil, rfl, rfl, ⟨rfl, rfl⟩, rfl, fun h => absurd h.2 (by decide)⟩

theorem witness_attestation : let f : Func := { func1 with att0 := 2, nonce := [0, 0, 0, 0] }
    f.att0.toNat.testBit 1 = true ∧ f.linkErr = false ∧ f.nonce.length = 4 ∧ ({ Boot.reset with fwMeas := List.replicate 48 0 } : Boot).fwMeas.length = 48
    ∧ ({ f with linkErr := true } : Func).linkErr = true ∧ (wQ.func 1).att0.toNat.testBit 1 = false := by decide

theorem witness_correction : ((0 : Nat) + 1 < 16) ∧ 16 ≤ ((({ wQ with corrected := [(8, 15)] } : State).corrected.get? 8).getD 0) + 1 ∧ (12 : Nat) / 8 * 8 = 8 := by decide

/-- A kiosk core of base die 0 runs, so that rows of its HBM and its store are held; a context of cluster 0 holds rows of its LS, word
memory and circuit store; none of cluster 1 does. -/
theorem witness_rows_held : let s : State := { wG with others := [(2048, { Ctx.ofKey 2048 with run := .running })], pmap := [⟨0, 2 ^ 20, 0⟩] }
    Claim.rowHeld s 8 ∧ Claim.rowHeld s (2 ^ 55) ∧ Claim.rowHeld s (2 ^ 52) ∧ Claim.rowHeld s (2 ^ 53) ∧ Claim.rowHeld s (2 ^ 54)
    ∧ ¬ Claim.rowHeld wQ 8 ∧ ¬ Claim.rowHeld wQ (2 ^ 52) := by
  have kiosk := List.mem_cons_of_mem (0, wG.cur) (List.mem_singleton.mpr (rfl : (2048, { Ctx.ofKey 2048 with run := .running }) = _))
  have core : Claim.held { wG with others := [(2048, { Ctx.ofKey 2048 with run := .running })], pmap := [⟨0, 2 ^ 20, 0⟩] } 0 :=
    ⟨(0, wG.cur), List.mem_cons_self, rfl, rfl, nofun⟩
  refine ⟨⟨_, kiosk, rfl, rfl, rfl⟩, ⟨_, kiosk, rfl, rfl, rfl⟩, core, core, core, ?_, ?_⟩ <;>
    (rintro ⟨e, he, h⟩; cases List.mem_singleton.mp he; revert h; decide)

/-- A port whose last flit failed, once and for the eighth retransmission; one that trains. -/
theorem witness_ports : (Claim.portOf { wQ with ports := [(3, { Port.reset with last := some { flit0 with fails := 8 } })] } 3).last = some { flit0 with fails := 8 }
    ∧ (Claim.portOf wQ 3).last = none ∧ (Claim.portOf wQ 3).training = false
    ∧ (Claim.portOf { wQ with ports := [(3, { Port.reset with training := true })] } 3).training = true := ⟨rfl, rfl, rfl, rfl⟩

/-- Failures that no context of the cluster hinders; the spare of a cluster; a V unit that its core does not use. -/
theorem witness_failures : w0.failures = [] ∧ (w0.ctx (2 * 3)).grid = none ∧ (w0.ctx (2 * 3 + 1)).grid = none ∧ FailedUnit.core 3 ≠ .spare 0
    ∧ (Claim.clusE w0 0).inuse = false ∧ (Claim.clusE { w0 with clusterMap := [(0, ⟨3, true, false⟩)] } 0).inuse = true
    ∧ (Claim.coreE { wG with coreMap := [(0, ⟨false, true, true⟩)] } 0).out = true
    ∧ (Claim.coreE { wG with coreMap := [(0, ⟨true, true, false⟩)] } 0).v0u ≠ false ∧ (Claim.coreE { wG with coreMap := [(0, ⟨true, true, false⟩)] } 0).v1u ≠ false
    ∧ wG.cur.kind = .compute ∧ wG.cur.cluster = 0 ∧ (Claim.coreE wG 0).out = false ∧ (Claim.coreE wG 0).v0u = false := by decide

theorem witness_failed_unit : (∃ e ∈ wG.allCtxs, e.2.kind = .compute ∧ e.2.cluster = 0 ∧ e.2.grid ≠ none) ∧ wG.focus = 2 * 0 ∧ wG.cur.grid ≠ none ∧ (wG.ctx (2 * 0 + 1)).grid = none
    ∧ (wG.ctx (2 * 1)).grid = none ∧ (wG.ctx (2 * 1 + 1)).grid = none ∧ ¬ ∃ e ∈ w0.allCtxs, e.2.kind = .compute ∧ e.2.cluster = 0 ∧ e.2.grid ≠ none := by
  refine ⟨⟨_, List.mem_cons_self, rfl, rfl, nofun⟩, rfl, nofun, rfl, rfl, rfl, ?_⟩
  rintro ⟨e, he, -, -, h⟩
  have : e = (0, w0.cur) := List.mem_singleton.mp he
  subst this
  exact h rfl

/-- A key, and its signature over one byte: r is the hash of the body, so that both multiples of the check are 1. -/
def big (n : Nat) : List Byte := (List.range 48).map fun i => BitVec.ofNat 8 (n / 256 ^ (47 - i))
def image1 : FwImage where
  version := 0
  key := 4 :: (big 0x7a34f1ffcdfebd9958489650c4aa0d85d2bcf567fb75758124a670361817633870b5bd815efd0de1284fdb751dbbcabf ++ big 0x224e336b4968d886788bd1d3e802d65883861937eb9b999a9ce032fec8cce1a2c672675c86a347e3a12ba934ad8043c2)
  sig := sha384 [5] ++ sha384 [5]
  body := [5]

theorem test_signature_verifies : ecdsaVerifies image1.key image1.sig image1.body = true := by decide +kernel

def boot1 : Boot := { Boot.reset with vkh := sha384 image1.key, images := [image1] }

theorem witness_boot_fails : Claim.boots Boot.reset 2 3 none ∧ Claim.boots { Boot.reset with fusesOk := false } 1 2 none :=
  ⟨Or.inr (Or.inl ⟨by decide, fun _ h => absurd h List.not_mem_nil, by decide, by decide, rfl⟩), Or.inl ⟨by decide, by decide, by decide, rfl⟩⟩

/-- The standby of the management core takes over, once, and firmware starts anew where an image is accepted. -/
theorem witness_takeover : StandbyUnit.management ∉ wQ.standby ∧ StandbyUnit.management ∈ ({ wQ with standby := [.management] } : State).standby
    ∧ boot1.fusesOk = true ∧ boot1.images.take 2 = [] ++ image1 :: [] ∧ StandbyUnit.arbiter ≠ .management ∧ (∀ i ∈ wQ.boot.images.take 2, False) :=
  ⟨List.not_mem_nil, List.mem_singleton.mpr rfl, rfl, rfl, nofun, fun _ h => List.not_mem_nil h⟩

theorem witness_boots : Claim.boots boot1 8 0 (some [5]) ∧ Claim.boots { boot1 with badDies := [0, 1] } 5 6 (some [5]) ∧ Claim.boots { boot1 with alignOk := false } 6 7 (some [5]) := by
  refine ⟨?_, ?_, ?_⟩
  all_goals refine Or.inr (Or.inr ⟨rfl, [], image1, [], rfl, fun _ h => absurd h List.not_mem_nil, ⟨by decide +kernel, Nat.zero_le _, test_signature_verifies⟩, rfl, ?_⟩)
  · exact Or.inr (Or.inr ⟨by decide, rfl, rfl, rfl⟩)
  · exact Or.inl ⟨by decide, rfl, rfl⟩
  · exact Or.inr (Or.inl ⟨by decide, rfl, rfl, rfl⟩)

/-- Host function 1 may write memory; a timetabled grid of context 5 reaches the first two MiB. -/
def wHost : State := { wQ with access := [(0x901, 0xF)] }
def wWin : State := { wHost with grids := [(7, { grid0 with code := 9 })], codes := [(9, { code0 with ltts := [wMem.cur.ltt] })] }

theorem witness_host_write : wHost.physFault 0x901 5 0 62 2 1 = none ∧ State.reset.physFault 0x901 5 0 62 2 1 ≠ none ∧ (wHost.func 1).waits = []
    ∧ Claim.owned wHost 1 5 ∧ ¬ Claim.owned wHost 2 5 ∧ (62 : Nat) % 64 + 2 ≤ 64 ∧ 64 < (62 : Nat) % 64 + 3
    ∧ (wWin.ctxRegs 5).ingress.length < 64 ∧ 64 ≤ ({ CtxRegs.reset with ingress := List.replicate 64 (0, []) } : CtxRegs).ingress.length := by decide

theorem witness_window : Claim.awaitsWindow wWin 5 62 2 :=
  Or.inr ⟨_, List.mem_singleton.mpr rfl, rfl, rfl, _, _, rfl, rfl, (BitVec.ofNat 64 (31 + 2 ^ 48), 0), by decide, by decide, by decide⟩

/-- The LS of core 0, byte 62, belongs to the timetabled grid there, or to one that is saved; byte 4096 to none. -/
def wLs : State := { wG with pmap := [⟨0, 2 ^ 28, 8⟩] }
def wLsSaved : State := { State.reset with
  pmap := [⟨0, 2 ^ 28, 8⟩], grids := [(7, { grid0 with state := .preempted, keys := [], saved := [(0, { Ctx.ofKey 0 with grid := some 7, foot := 4096 })] })] }

theorem witness_window_ls : Claim.awaitsWindow wLs 5 62 2 :=
  Or.inl ⟨0, Or.inl ⟨0, Or.inl rfl, ⟨_, rfl, by decide, by decide, rfl, by decide, by decide⟩, nofun, rfl, rfl, Or.inl rfl⟩⟩

theorem witness_window_saved : Claim.awaitsWindow wLsSaved 5 62 2 := by
  refine Or.inl ⟨0, Or.inr ⟨fun k hk h => ?_, [], _, [], 0, _, rfl, rfl, Or.inl rfl, rfl, ⟨_, rfl, by decide, by decide, rfl, by decide, by decide⟩, rfl,
    Or.inl rfl, fun _ h => absurd h List.not_mem_nil⟩⟩
  rcases hk with rfl | rfl <;> exact h.2.1 rfl

theorem witness_no_footprint : ¬ Claim.inFootprint wLs wLs.cur 0 4096 := by
  rintro ⟨r, hr, -, -, -, -, h⟩
  obtain rfl : _ = r := Option.some.inj hr
  exact absurd h (by decide)

theorem witness_no_window : ¬ Claim.awaitsWindow wHost 5 62 2 := by
  rintro (⟨core, ⟨k, -, ⟨r, hr, h8, -⟩, -⟩ | ⟨-, l, e, r, k, c, h, -⟩⟩ | ⟨_, h, _⟩)
  · obtain rfl : _ = r := Option.some.inj hr
    exact absurd h8 (by decide)
  · exact absurd (h ▸ List.mem_append_right l List.mem_cons_self : e ∈ wHost.grids) List.not_mem_nil
  · exact absurd h List.not_mem_nil

theorem witness_partition : let s : State := { wG with funcs := [(1, func1), (2, { func1 with clusters := 2 })] }
    (false = false ∧ ∃ e ∈ s.funcs, e.1 ≠ 1 ∧ e.2.shared = false ∧ (e.2.clusters ||| e.2.asked.getD 0) &&& (3 : Word64) ≠ 0)
    ∧ ¬ (false = false ∧ ∃ e ∈ s.funcs, e.1 ≠ 1 ∧ e.2.shared = false ∧ (e.2.clusters ||| e.2.asked.getD 0) &&& (1 : Word64) ≠ 0)
    ∧ (∀ k ∈ grid0.keys, (1 : Word64).toNat.testBit (k / 32) = true) ∧ (∃ k ∈ grid0.keys, (0 : Word64).toNat.testBit (k / 32) = false)
    ∧ (∀ e ∈ s.funcs, e.2.asked = none) ∧ ({ grid0 with state := .faulted } : Grid).state ≠ .running ∧ wG.grids = [(7, grid0)] ∧ grid0.func = 1 := by decide

theorem witness_partition_open : let s : State := { wQ with access := [(0x80 * 4096 + 0x900, 2)] }
    Claim.windowOpen s 0 ∧ Claim.atDispatcher s 0 ∧ ¬ Claim.atDispatcher wQ 0 := ⟨⟨rfl, .inl rfl, rfl⟩, rfl, nofun⟩

theorem witness_registers : let s : State := { wQ with access := [(0x80 * 4096 + 0x901, 2), (0x81 * 4096 + 0x901, 2), (0x83 * 4096 + 0x8C0, 2)] }
    s.boot.step = 8 ∧ (1 : Nat) ≤ 128 ∧ (128 : Nat) ≤ 128 ∧ Claim.windowOpen s 1 ∧ s.admits 0x80 (0x900 + 1) 1 none = true ∧ State.reset.admits 0x80 (0x900 + 1) 1 none = false ∧ s.admits 0x81 (0x900 + 1) 1 none = true ∧ wQ.admits 0x81 (0x900 + 1) 1 none = false
    ∧ s.admits 0x83 (Claim.firmwareId s) 1 none = true ∧ wQ.admits 0x83 (Claim.firmwareId wQ) 1 none = false ∧ (s.func 1).seal3.toNat.testBit 16 = false
    ∧ ((wReq 0 5 1).func 1).seal3.toNat.testBit 16 = true ∧ (256 : Word64).toNat.testBit 8 = true ∧ (s.func 1).att0.toNat.testBit 1 = false ∧ (1 : Word64).toNat.testBit 0 = true
    ∧ (4 : Word64).toNat.testBit 2 = true ∧ (s.queue 31).en = false ∧ (s.func 1).ltt1 &&& 0x000FFFFFFFE00000 = (s.func 1).ltt1 := by
  unfold Claim.windowOpen
  decide

/-- A live seal of a context of function 1, one released, and one that is another's. -/
theorem witness_register_reads : let s : State := { wQ with seals := [(0, ⟨true, 5, 1, 1, List.replicate 48 9⟩), (255, ⟨false, 0, 0, 0, []⟩)], coreMap := [(1023, ⟨false, true, false⟩)] }
    (s.seals.get? 0).map Seal.live = some true ∧ (s.seals.get? 255).map Seal.live = some false ∧ s.seals.get? 7 = none ∧ Claim.owned s 1 5 ∧ ¬ Claim.owned s 2 5
    ∧ (List.replicate 48 (9 : Byte)).length = 48 ∧ ({ CtxRegs.reset with sguard := some true } : CtxRegs).sguard = some true ∧ s.coreMap.get? 1023 = some ⟨false, true, false⟩ := by
  decide

/-- An image of nine bytes of text at 2 MiB, for physical 2 MiB, with one block of a timetabled grid. -/
def note0 : List Word64 := [BitVec.ofNat 64 (1 + 2 * 2 ^ 32), BitVec.ofNat 64 (1 + 2 ^ 36), 0, 1, 0, 0, 0, 0, 0]
def img0 : ElfImage := ⟨true, true, 3, 0x5E86, 0, [⟨.text, 2 ^ 21, List.replicate 9 1⟩, ⟨.ltt, 0, List.replicate 1024 0⟩], [], [], [⟨"Ronxel", 1, note0⟩], none,
  2 ^ 21 :: List.replicate 63 0, [], false⟩

theorem witness_image : img0.class64 = true ∧ img0.lsb = true ∧ img0.type_ = 3 ∧ img0.machine = 0x5E86 ∧ img0.flags = 0 ∧ img0.notes = [⟨"Ronxel", 1, note0⟩]
    ∧ (2 ^ 21 : Word64).toNat % 2 ^ 21 = 0 ∧ (2 ^ 21 : Word64).toNat < 2 ^ 52 ∧ (2 : Nat) ^ 21 + 9 ≤ 2 ^ 48
    ∧ (∀ i, i < 9 → wQ.target ((2 ^ 21 : Word64).toNat + i) < 8 ∧ wQ.admits (wQ.target ((2 ^ 21 : Word64).toNat + i)) (0x900 + (wQ.ctxRegs 5).func.toNat) 1 (some 5) = true ∧ wQ.sealed ((2 ^ 21 : Word64).toNat + i) 1 = none ∧ wQ.ctrFunc ((2 ^ 21 : Word64).toNat + i) = none) := by
  decide

theorem witness_image_note : let f := Claim.fld note0
    note0.length = 9 ∧ f 0 0 8 = 1 ∧ f 0 16 6 = 0 ∧ f 0 32 10 ≤ 512 ∧ 1 ≤ f 1 0 21 ∧ f 1 0 21 ≤ 2 ^ 20 ∧ f 0 8 1 = 0 ∧ f 1 24 2 ≠ 3
    ∧ f 2 0 64 % 8 = 0 ∧ f 2 0 64 < 9 ∧ (∀ j, j < 6 → f (3 + j) 2 1 = 0 ∧ f (3 + j) 32 32 ≤ 65535) ∧ (∀ j, j < 6 → j ≠ 0 → f (3 + j) 0 2 = 0) := by decide

/-- An image of another machine, and a block with an elastic grid of no chunk. -/
theorem witness_image_refused : ¬ ({ img0 with machine := 0 } : ElfImage).machine = 0x5E86 ∧ Claim.fld (note0.set 0 (BitVec.ofNat 64 (1 + 2 ^ 8))) 0 8 1 = 1
    ∧ ¬ (1 ≤ Claim.fld (note0.set 1 1) 1 36 17) := by decide

theorem witness_unload : ({ wQ with codes := [(9, code0)] } : State).codes.get? 9 = some code0 ∧ code0.ctx = 5 ∧ code0.ctx ≠ 6 := by decide

/-! ### Hypotheses: steps, guards, landing, faults, rounding (02, 03, 05) -/

/-- A context that may issue the word that stands at its pc, 0, in the line of text it holds. -/
def wStep (w : Word64) : State := { wMem with icache := [(0, [(0, Vector.replicate 8 w)])] }

/-- IADD s1, s2, s3 at the end of its bundle. -/
def add0 : Word64 := BitVec.ofNat 64 (2 ^ 63 + ((encode (.add (sop 1 2 (.reg (.s 3))))).map Prod.fst).getD 0)

theorem witness_issues : Claim.issues (wStep add0) add0 := by
  refine ⟨rfl, by decide, fun _ h => absurd h List.not_mem_nil, rfl, rfl, rfl, rfl, rfl, by decide +kernel, rfl, rfl, rfl, rfl, Or.inl rfl, fun _ h => absurd h List.not_mem_nil, by decide +kernel, by decide +kernel⟩

theorem witness_issued_decodes : decodeSyl add0.toNat none = .ok (.add (sop 1 2 (.reg (.s 3)))) := rfl

theorem witness_issued_goes_on : ∃ t, exec (.add (sop 1 2 (.reg (.s 3)))) (Claim.atIssue (wStep add0)) = .next t
    ∧ (t.trap = none ∧ t.focus = (wStep add0).focus ∧ t.cur.holds = [] ∧ t.inFlight ≤ 48
      ∧ (∀ r ∈ t.lsReqs.drop (Claim.atTick (wStep add0)).lsReqs.length, r.elastic = false) ∧ t.elReqs = [] ∧ t.cur.lsPend = []
      ∧ t.cur.outst = [] ∧ t.cur.grid = none ∧ t.lsReqs.length ≤ 1 ∧ t.engines = [] ∧ t.focus % 2 = 0)
    ∧ Claim.alone t ∧ ∀ e ∈ t.funcs, e.2.waits = [] :=
  ⟨_, rfl, by decide +kernel, fun _ h => absurd h List.not_mem_nil, fun _ h => absurd h List.not_mem_nil⟩

theorem witness_halted : let s : State := { w0 with boot := { Boot.reset with fail := 3 }, turns := [.event .deviceReset] }
    s.halted = true ∧ w0.halted = false ∧ s.turns = .event .deviceReset :: [] ∧ w0.turns = [] := ⟨rfl, rfl, rfl, rfl⟩

theorem witness_issued_traps : ∃ t f, exec (.lds (lsc 4)) (Claim.atIssue (wStep add0)) = .next t ∧ t.trap = some f := ⟨_, _, rfl, rfl⟩

def off0 : Instr := .add ⟨gN, .s 1, .s 2, .reg (.s 3)⟩

theorem witness_guarded_off : off0.wf = true ∧ (match encode off0 with
    | some (w, _) => laneWise w == false && cls w == 0 && opc w != 0x50 && opc w != 0x51 && (Claim.acts w0 (guardOf w)).getLsbD 0 == false
    | none => false) = true := by decide

def res0 (rem : Nat) (n : Fin 64) (v : Word64) (ev : BitVec 9) (born : Nat) (pos : Fin 8) : Result := ⟨rem, [.sreg n v], some (.s v), ev, 0, pos, born, false, none⟩

theorem witness_landing : (res0 1 5 9 0 0 0).rem = 1 ∧ (5 : Fin 64) ≠ 0 ∧ (res0 2 5 9 0 0 0).rem > 1 ∧ (res0 1 5 9 1 3 0).events ≠ 0
    ∧ ((res0 1 5 9 0 3 0).born = (res0 1 5 9 0 3 1).born ∧ (res0 1 5 9 0 3 0).pos < (res0 1 5 9 0 3 1).pos)
    ∧ (res0 1 5 9 0 3 7).born < (res0 1 5 9 0 4 0).born ∧ w0.cur.sp.fel.toNat.testBit 63 = false ∧ w0.cur.flight = [] := by decide

theorem witness_fault : wG.cur.kind = .compute ∧ wG.cur.grid = some 7 ∧ wG.grids.get? 7 = some grid0 ∧ grid0.state = .running ∧ (255 : Nat) < 2 ^ 8 ∧ wG.focus ∈ grid0.keys := by decide

theorem witness_keyed : (2 : Nat) ≠ w0.focus ∧ ∃ t, exec (.icacheFill 2) (w0.focusOn 2) = .next t := ⟨by decide, _, rfl⟩

/-- 1 + 2^-24 lies halfway between 1 and the next value of F32; 2^128 stands where infinity does. -/
theorem witness_rounding : let f := FFmt.f32
    (0x3F800000 : Nat) < f.infBits false ∧ Claim.atMost (Claim.magOf f 0x3F800000).1 (Claim.magOf f 0x3F800000).2 (2 ^ 24 + 1) (-24)
    ∧ ¬ Claim.atMost (Claim.magOf f 0x3F800001).1 (Claim.magOf f 0x3F800001).2 (2 ^ 24 + 1) (-24)
    ∧ Claim.atMost (Claim.magOf f 0x7F7FFFFF).1 (Claim.magOf f 0x7F7FFFFF).2 (2 ^ 25 - 1) 103
    ∧ ¬ Claim.atMost (Claim.magOf f 0x7F800000).1 (Claim.magOf f 0x7F800000).2 (2 ^ 25 - 1) 103 := by decide

theorem witness_sound : ∃ t, step { State.reset with turns := [.event .errorCountRead] } = .next t := ⟨_, rfl⟩

/-- The smallest circuit object: a word of no-ops, and slot 0 as its one leaf and its one output. -/
def image0 : List Word64 := [BitVec.ofNat 64 (1 + 2 ^ 32), BitVec.ofNat 64 (1 + 2 ^ 16), BitVec.ofNat 64 (64 + 128 * 2 ^ 32), BitVec.ofNat 64 (96 + 96 * 2 ^ 32)]
def imageLs : Memory := (Memory.writeN [] 0 (Claim.wordBytes image0)).write 128 1
def wImage : State := { wG with
  engines := [(0, { eng0 with obj := none, loading := some (ccmd (.cload false 0 0)), lines := (List.range 18).map fun n => (n, imageLs.readN (64 * n) 64) })]
  cur := { wG.cur with ls := imageLs } }

theorem witness_circuit_load : (match wImage.circLoad 0 0 (.ls ⟨0, none⟩) 0 with
    | (_, .ok l) => decide (l.obj.leaves = [0]) && decide (l.obj.outs = [0]) && l.bank.isEmpty && l.obj.due.isEmpty
    | (_, .error _) => false) = true := by decide +kernel

theorem witness_circuit_page_crc : crc64 (List.replicate 32 0) ≠ 0 := by decide +kernel

/-! ### Ill-formed terms -/

def aR : Addr := .remote 0 0 1
def nat (r : VReg) (n : Fin 16) (sh : WShape) : WProd := ⟨g0, .v 16, r, sh, n, 0, .fp .f32⟩

theorem test_ill_formed_scalar : ([.add (⟨g0, .bpL, .s 1, .imm 0⟩), .clz ⟨g0, .bpL, .s 1⟩, .mov g0 .bpL (.imm 0), .cmp g0 12 .eq (.s 1) (.imm 0), .pset g0 0 (.imm 0),
    .fcmp g0 12 .eq (.s 1) (.s 2), .plog g0 .and 12 0 0, .plog g0 .not 13 0 1, .pcnt g0 .bpL 0, .fadd ⟨g0, .bpL, .s 1, .s 2, .rne⟩, .fsqrt g0 .bpL (.s 1) .rne,
    .fcvt g0 .fromf32 .rup .bpL (.s 2), .movx g0 .bpL 0, .loop ⟨g0, 1, .imm 0, 1, false, 0⟩, .loop ⟨g0, 0, .imm 0, 1, false, 1⟩, .chnk g0 0, .chnk g0 3,
    .tkaln g0 .bpL 0] : List Instr).all (fun i => !i.wf) = true := by decide

theorem test_ill_formed_memory : ([.lds ⟨g0, .bpS, aL 0, .d⟩, .lds ⟨g0, .s 1, aG, .d⟩, .sts ⟨g0, .s 1, aL 0, .sw⟩, .ldv ⟨g0, .bpV0, aL 0⟩, .stv ⟨g0, .v 1, aG⟩,
    .ldt ⟨g0, .v 8, aL 0⟩, .stt ⟨g0, .v 512, aL 0⟩, .ldvx .i8 ⟨g0, .bpM, aL 0⟩, .stvx .i8 .rup ⟨g0, .v 1, aL 0⟩, .ldrv ⟨g0, .v 1, aL 0⟩, .strv ⟨g0, .v 1, aL 0⟩,
    .ldg ⟨g0, .s 1, aL 0, .d⟩, .stg .c ⟨g0, .s 1, aG, .sb⟩, .ldgv ⟨g0, .v 1, aL 0⟩, .stgv .c ⟨g0, .v 1, aR⟩, .gath .w (.v 1) ⟨g0, .bpV1, aG⟩, .scat .sh .c (.v 1) ⟨g0, .v 1, aG⟩,
    .lttq g0 .bpS 0 false, .scl g0 0 aG, .amo g0 .add .d (.s 1) (aL 0) (.s 2), .cas g0 .c (.s 1) (.lsAS 0 0) (.s 2), .vamo g0 .add .c (.v 1) (aL 0) (.v 2),
    .vamor g0 .add .c (.v 1) (aL 0) (.v 2) (.v 3), .waita g0 .eq (.s 1) (.lsAS 0 0), .tpoll g0 .bpS 0, .hwin g0 .bpS, (.tlkp g0 .bpS (.s 1)),
    .copy none ⟨g0, none, none, none, none, .bpL⟩, .cpflip true ⟨g0, none, none, none, none, .s 1⟩, .xrecv g0 (.bpV0) 0 0, .wsave g0 0 aG, .cput g0 aR,
    .cleaf g0 (.sef (.v 1) 0 0), .cleaf g0 (.lf32 (.s 1) aG), .cout g0 false (.v 1) 0 0, .crds g0 true .bpM 0 0] : List Instr).all (fun i => !i.wf) = true := by decide

theorem test_ill_formed_vector : ([.vadd ⟨g0, .bpL, .v 1, .v 2, .f32, .rne⟩, .vadd ⟨g0, .v 1, .v 2, .v 4, .f64, .rne⟩, .vfma ⟨⟨g0, .v 2, .v 2, .v 4, .f64, .rne⟩, some (.v 3)⟩,
    .vrcp ⟨g0, .v 2, .v 2, .f64, .rne⟩, .vcmp g0 12 .eq .f32 (.v 1) (.v 2), .vclass ⟨g0, .bpM, .v 1, .f32⟩, .viadd false ⟨g0, .v 2, .v 3, .v 4, .i64⟩,
    .vcvt g0 (.fp .f32) (.fp .f32) .rne (.v 1) (.v 2), .vcvt g0 (.fp .bf16) (.fp .f32) .rup (.v 1) (.v 2), .vqnt .rne ⟨g0, .v 1, .v 2, 0, .mxint8, false, 0⟩,
    .vqnt .rne ⟨g0, .v 1, .v 8, 0, .mxint4, false, 4⟩, .vdqnt ⟨g0, .v 2, .v 1, 0, .mxint6, false, 0⟩, .vxmul g0 (.v 2) (.v 4) (.v 5), .vxcvt g0 .f32ToSef .rup (.v 2) (.v 1),
    .vmov g0 .sef (.v 1) (.v 2), .vsel g0 true (.v 2) (.v 4) (.v 5), .vsplat g0 .bpM 0, .vredr ⟨g0, .v 1, .v 2, .and, .fp .f32, .rne, false⟩,
    .vredr ⟨g0, .v 1, .v 2, .sum, .fp .f32, .rsto, false⟩, .vredr ⟨g0, .v 1, .v 2, .max, .int .i32, .rne, true⟩, .vscanr ⟨g0, .v 1, .v 2, .xor, .int .i32, .rne, false⟩,
    .vrotc g0 (.fp .f64) (.v 16) (.v 32) 0, .vredc ⟨g0, .v 1, .v 8, .sum, .fp .f32, .rne, false⟩, .vrngGet g0 .bpL, .vmaxw (nat (.v 0) 1 .elem), .vmaxw (nat (.v 496) 2 .elem),
    .vminw (nat (.v 0) 1 .row), .vclmpw g0 (.v 8) (.v 16) (.v 1) 0 (.fp .f32), .vmedw g0 (.v 0) (.v 16) 4 0 (.fp .f32), .vsatw g0 (.v 0) (.v 16) false 0 .i64,
    .vadj ⟨g0, .v 0, .v 16, .clamp, .row, 0, false, 0, .fp .f32⟩, .vadj ⟨g0, .v 0, .v 16, .med, .elem, 4, false, 0, .fp .f32⟩, .wmov g0 false (.v 2) 0] : List Instr).all
    (fun i => !i.wf) = true := by decide

theorem test_ill_formed_matrix_kiosk : ([.mrd g0 .bpL 0 (.imm 0), .mrdq g0 false .rne (.v 1) 0 (.imm 0) 1, .kmbox g0 false .bpS (.s 1), .kput g0 .bpL (.s 1)] : List Instr).all
    (fun i => !i.wf) = true := by decide

/-! ### Words written out from the spec's encodings (04 R70 to R78 R87, 15 R299, the entries' own tables) -/

theorem test_decode_scalar : decodeSyl 0x8080001040C00000 none = .ok (.add (sop 1 2 (.reg (.s 3)))) := rfl
theorem test_decode_compare : decodeSyl 0x818000D081480000 none = .ok (.cmp g0 13 .lt (.s 4) (.reg (.s 5))) := rfl
theorem test_decode_stride : decodeSyl 0x82C80C1000002000 none = .ok (.strs g0 1 0 (.imm 1)) := rfl
theorem test_decode_barrier : decodeSyl 0x8380080000006200 none = .ok (.bar g0 false 3) := rfl
theorem test_decode_loop : decodeSyl 0x8320010002040000 none = .ok (.loop ⟨g0, 0, .sreg 2, 1, false, 0⟩) := rfl
theorem test_decode_level_loop : decodeSyl 0x8320030003000000 none = .ok (.loop ⟨g0, 1, .sreg 3, 0, false, 0⟩) := rfl
theorem test_decode_refinement : decodeSyl 0x83C0000280000000 none = .ok (.rfrun g0 (.s 20)) ∧ decodeSyl 0x83C8000000000000 none = .ok (.rfret g0)
    ∧ decodeSyl 0x83D00003C0000000 none = .ok (.rfnorm g0 (.s 30)) := ⟨rfl, rfl, rfl⟩
theorem test_decode_load : decodeSyl 0xB08000A021000803 none = .ok (.lds ⟨g0, .s 5, .lsA 2 16, .d⟩) := rfl
theorem test_decode_atomic : decodeSyl 0x31800000C2000030 (some 9) = .ok (.amo g0 .add .p (.s 0) (.ltt 4 0) (.s 9)) := rfl
theorem test_decode_engine : decodeSyl 0xB2400142FFF86000 none = .ok (.copy none ⟨g0, some 5, some 2, none, none, .a 3⟩) := rfl
theorem test_decode_circuit : decodeSyl 0xB2D8002040000081 none = .ok (.cout g0 true (.v 8) 0 1) := rfl
theorem test_decode_matrix : decodeSyl 0xA080008824420040 none = .ok (.mstep ⟨g0, 0, .ls 1, .ls 2, .mx8, 0, 1, false⟩)
    ∧ decodeSyl 0xA098000060000000 none = .ok (.mrd g0 (.v 3) 0 (.imm 0)) := ⟨rfl, rfl⟩
theorem test_decode_sparse : decodeSyl 0x2088040800805000 (some 0xC800) = .ok (.msteps false ⟨g0, 1, .vec (.v 64), .vec (.v 128), .bf16, 0, 0, false⟩ (.v 200)) := rfl
theorem test_decode_integer : decodeSyl 0x9141A0140601D401 none = .ok (.viadd true ⟨⟨13, false⟩, .v 5, .v 6, .v 7, .i16⟩) := rfl
theorem test_decode_reduction : decodeSyl 0x9290002808000000 none = .ok (.vredr ⟨g0, .v 10, .v 8, .sum, .fp .f32, .rne, false⟩)
    ∧ decodeSyl 0x92D0019020000010 none = .ok (.vredc ⟨g0, .v 100, .v 32, .max, .fp .f32, .rne, false⟩) := ⟨rfl, rfl⟩
theorem test_decode_compress : decodeSyl 0x92A8005010038C00 none = .ok (.vcmpr g0 (.num (.int .i32)) (.v 20) (.v 16) 14) := rfl
theorem test_decode_witness : decodeSyl 0x9340004020010003 none = .ok (.vmaxw ⟨g0, .v 16, .v 32, .elem, 4, 3, .fp .f32⟩)
    ∧ decodeSyl 0x936802006001001B none = .ok (.vadj ⟨g0, .v 128, .v 96, .max, .elem, 4, true, 3, .fp .f32⟩) := ⟨rfl, rfl⟩
theorem test_decode_kiosk : decodeSyl 0xD08000A100080000 none = .ok (.kmbox g0 true (.s 5) (.s 4))
    ∧ decodeSyl 0xD0D0002081800000 none = .ok (.kroute g0 (.s 1) (.s 2) (.s 3)) := ⟨rfl, rfl⟩
theorem test_decode_hint : decodeSyl 0xF000000000000007 none = .ok (.hSyllable 7) ∧ decodeSyl 0x8000000000000000 none = .ok (.nop g0) := ⟨rfl, rfl⟩

/-- Class 6 and an unassigned opcode are no instructions (04 R71). -/
theorem test_decode_refuses : ([0xE000000000000000, 0x8008000000000000].all fun w => match decodeSyl w none with
    | .ok _ => false
    | .error _ => true) = true := by decide

/-- A bypass may stand where a scalar specifier does: the base of XLT, TLKP, TINS and TINV (04 R76, 03 R47). -/
theorem test_bypass_base : ([.xlt g0 1 .bpS 0, .tlkp g0 (.s 1) .bpL, .tins g0 (.s 1) .bpS, .tinv g0 (.s 1) .bpL] : List Instr).all Instr.wf = true := by decide


/-! ### Hypotheses: requests that perform, and walks (08, 13, 25) -/

/-- Stores of core 0: two to one line, and one to another line. -/
def st (seq pa : Nat) : Store := ⟨seq, 0, 0, none, pa, [1], 0, 5, false, seq⟩
def wReqs (l : List Store) : State := { wMem with reqq := l, turns := [.perform 1] }

theorem witness_performs : let s := wReqs [st 0 64, st 1 0]
    s.halted = false ∧ (s.reqq.map Store.seq).Nodup ∧ s.turns = .perform 1 :: [] ∧ s.reqq[1]? = some (st 1 0) ∧ Claim.noneAwaited s 0
    ∧ (∀ v ∈ s.reqq, v.core = (st 1 0).core → v.seq < (st 1 0).seq → ¬ Claim.behind (st 1 0) v)
    ∧ (s.reqq.filter fun u => decide (u.core = 0)).Pairwise (fun a b => a.seq < b.seq) := by
  refine ⟨rfl, by decide, rfl, rfl, ?_, by decide, by decide⟩
  intro e h _
  cases List.mem_singleton.mp h
  rfl

theorem witness_performs_behind : let s := wReqs [st 0 1, st 1 0]
    s.reqq = [st 0 1, st 1 0] ∧ (st 0 1).core = (st 1 0).core ∧ (st 0 1).seq < (st 1 0).seq ∧ Claim.behind (st 1 0) (st 0 1) := by decide

/-- One operation of core 0 that awaits its value, behind a plain store of its core. -/
def wOut (o : OutOp) (l : List Store) : State := { wMem with reqq := l, cur := { wMem.cur with outst := [⟨o, 0, 0, 9, none⟩] } }

theorem witness_value : ∀ o ∈ [OutOp.ldg (.s 1) 0 .d 0, .ldgv (some 0) 0 0], let s := wOut o [st 0 4]
    s.cur.outst = [⟨o, 0, 0, 9, none⟩] ∧ s.others = [] ∧ ∀ u ∈ s.reqq, u.core = s.cur.coreId → u.op = none ∧ u.strong = false ∧ u.seq ≠ 9 ∧ u.group ≠ 9 :=
  fun _ _ => ⟨rfl, rfl, by rintro u h -; rw [List.mem_singleton.mp h]; decide⟩

theorem witness_atomic_value : ∀ o ∈ [OutOp.atomic (.s 1) (.amo .add 1) 0 0, .vamor (some 0) .add [(0, 0)] Vec.zero], let s := wOut o []
    s.cur.outst = [⟨o, 0, 0, 9, none⟩] ∧ s.others = [] ∧ ∀ u ∈ s.reqq, u.core ≠ s.cur.coreId := fun _ _ => ⟨rfl, rfl, fun _ h => absurd h List.not_mem_nil⟩

/-- Entries at a table: absent, reserved bit, a leaf of 1 GiB, and the next table; a master that is not admitted. -/
theorem witness_walk : let s : State := { wQ with access := [(0, 0xF)] }
    s.physFault 0 5 0 4096 8 0 = none ∧ wQ.physFault 1 5 0 4096 8 0 ≠ none
    ∧ (leNat (Claim.bytesAt s 8200 8)).testBit 0 = false ∧ leNat (Claim.bytesAt s 4096 8) = 0x2001 ∧ leNat (Claim.bytesAt s 8192 8) = 0x27 := by decide

/-- How a read of the dispatcher, which has no master, fails: nothing serves the address, its link is down, or its line is in error. -/
theorem witness_walk_fails : let down : State := { wQ with pmap := [⟨0, 2 ^ 40, 0x0C⟩], funcs := [(1, { Func.reset with linkErr := true })] }
    let err : State := { wQ with bad := [7, 64] }
    let out : State := { wQ with boot := { wQ.boot with badBases := [0] } }
    out.serves (out.target 4096) = false
    ∧ wQ.serves (wQ.target 4096) = true ∧ wQ.bad = []
    ∧ (down.serves (down.target 4096) = true ∧ down.target 4096 = 0x0C ∧ (down.func (down.ctxRegs 5).func.toNat).linkErr = true)
    ∧ (err.bad = [7] ++ 64 :: [] ∧ Claim.inLines 4096 8 64 ∧ ∀ k ∈ [7], ¬ Claim.inLines 4096 8 k) := by decide

theorem witness_walk_entries : (0x2001 : Nat).testBit 0 = true ∧ ¬ Claim.entryBad 3 0x2001 ∧ (0x2001 : Nat).testBit 5 = false ∧ ¬ Claim.entryBad 2 0x27 ∧ (0x27 : Nat).testBit 5 = true
    ∧ Claim.entryBad 0 0x43 ∧ Claim.entryBad 0 (2 ^ 52 + 1) ∧ Claim.entryBad 3 0x21 ∧ Claim.entryBad 2 0x1021 ∧ Claim.entryBad 1 0x1021 := by
  refine ⟨?_, ?_, ?_, ?_, ?_, ?_, ?_, ?_, ?_, ?_⟩ <;> decide

theorem witness_checks : let s : State := { wQ with access := [(0, 0xF), (0xC * 4096, 0xF), (0x80 * 4096, 0xF)] }
    let sealed : State := { s with seals := [(3, ⟨true, 5, 0, 1, []⟩)] }
    let down : State := { s with pmap := [⟨0, 4096, 0x0C⟩], funcs := [(1, { Func.reset with linkErr := true })] }
    let ctr : State := { s with pmap := [⟨0, 4096, 0x1001⟩] }
    s.admits (s.target 0) 0 1 (some 5) = true ∧ s.admits (s.target 0) 1 1 (some 5) = false ∧ s.sealed 0 8 = none ∧ sealed.sealed 0 8 = some 3
    ∧ Claim.rangeOf ctr 0 = some ⟨0, 4096, 0x1001⟩ ∧ ctr.admits (ctr.target 0) 0 1 (some 5) = true ∧ down.target 0 = 0x0C ∧ (down.func (down.ctxRegs 5).func.toNat).linkErr = true
    ∧ ({ s with bad := [1] } : State).bad = [] ++ 1 :: [] ∧ Claim.inLines 0 65 1 ∧ s.bad = [] := by decide

theorem witness_xlt_walk : let s : State := { wQ with access := [(0, 0xF)], cur := { State.reset.cur with run := .running, ctxId := 5, outst := [⟨.xlt 0 0 0, 0, 0, 9, none⟩] } }
    s.cur.outst = ⟨.xlt 0 0 0, 0, 0, 9, none⟩ :: [] ∧ s.cur.run ≠ .stopped ∧ (∀ u ∈ s.requests s.cur.coreId, u.seq ≠ 9) ∧ s.cur.grid = none
    ∧ (s.ctxRegs s.cur.ctxId.toNat).ptroot = 1 ∧ (s.func 1).twaits = [] := by decide

/-- On a kiosk core the root is the context's own, or that with which its grid runs; a refusal of firmware's walk does not end it. -/
theorem witness_xlt_root : (∃ e ∈ wG.grids, e.2.ctx = wG.cur.ctxId ∧ e.2.state = .running) ∧ (∀ e ∈ wQ.grids, e.2.ctx = wQ.cur.ctxId → e.2.state ≠ .running)
    ∧ (at_ 2176).cur.kind = .management ∧ (BitVec.ofNat 64 (4 + 256 * 7)).toNat % 2 ^ 8 = 4 := by decide

/-- The device answers or has failed; the tables of the dispatcher and of the management core admit a read, or do not. -/
theorem witness_reads_admitted : let s : State := { wQ with access := [(0x80 * 4096 + 0x901, 1), (0x81 * 4096 + 0x901, 1), (0x83 * 4096 + 0x8C0, 1)] }
    s.boot.fail ≠ 2 ∧ s.boot.fail ≠ 3 ∧ ({ Boot.reset with fail := 2 } : Boot).fail = 2 ∧ s.admits 0x80 (0x900 + 1) 0 none = true ∧ s.admits 0x81 (0x900 + 1) 0 none = true
    ∧ State.reset.admits 0x80 (0x900 + 1) 0 none = false ∧ State.reset.admits 0x81 (0x900 + 1) 0 none = false
    ∧ s.admits 0x83 (Claim.firmwareId s) 0 none = true ∧ State.reset.admits 0x83 (Claim.firmwareId State.reset) 0 none = false := by decide

theorem witness_window_reads : (∀ t ∈ (wQ.func 1).twaits, t.popped = true) ∧ (wWait.func 1).twaits = [] ++ wait0 :: [] ∧ wait0.popped = false
    ∧ func1.nonce[0]? = none ∧ ({ func1 with nonce := [1, 2, 3, 4] } : Func).nonce[3]? = some 4 := by decide

end Sys2Proof.Tests
end

section
/-! SUPPORT. Links, standby units, failed units, clocks and device reset (01 R10, 25 R365 R367, 26 R373 R374, 27 R381 to R387): what each
shared operation does, then O59. -/
namespace Sys2Proof.Proofs.Units
open Machine Laws

/-! ### Ports that send again and train (26 R374) -/

theorem exec_flitRetransmit (s : State) (p : Nat) :
    exec (.flitRetransmit p) s = .next (Claim.setPort s p (Claim.portOf s p).retry) := rfl

theorem retry_of_none {x : Port} (h : x.last = none) : x.retry = x := by simp [Port.retry, h]

theorem retry_of_some {x : Port} {f : Flit} (h : x.last = some f) : x.retry =
    { x with last := none, again := x.again ++ [{ f with fails := f.fails + 1 }], training := x.training || decide (8 ≤ f.fails) } := by
  have ninth : decide (f.fails + 1 > 8) = decide (8 ≤ f.fails) := decide_eq_decide.mpr Nat.lt_succ_iff
  simp only [Port.retry, h, ninth]

theorem exec_portRetrain_idle {s : State} {p : Nat} (h : (Claim.portOf s p).training = false) : exec (.portRetrain p) s = .next s := by
  show (if !(Claim.portOf s p).training then (.next s : Out) else _) = _
  simp [h]

theorem exec_portRetrain_training {s : State} {p : Nat} (h : (Claim.portOf s p).training = true) :
    exec (.portRetrain p) s = .next (Claim.setPort s.draw p (if Config.retrains s.freeCount
      then { Claim.portOf s p with training := false, again := (Claim.portOf s p).again.map fun f => { f with fails := 0 } }
      else { Claim.portOf s p with training := false, failed := true })) := by
  show (if !(Claim.portOf s p).training then (.next s : Out) else _) = _
  simp only [h, Bool.not_true, Bool.false_eq_true, if_false]
  rfl

/-! ### The image that a boot ROM starts, and its firmware (27 R382) -/

theorem accepts_iff (b : Boot) (i : FwImage) : b.accepts i = true ↔
    sha384 i.key = b.vkh ∧ b.minVer.toNat ≤ i.version ∧ ecdsaVerifies i.key i.sig i.body = true := by
  simp [Boot.accepts, and_assoc]

theorem image_eq_none_iff (b : Boot) : b.image = none ↔ b.fusesOk = false ∨ ∀ i ∈ b.images.take 2, ¬ b.accepts i = true := by
  unfold Boot.image
  cases b.fusesOk <;> simp

theorem image_of_split {b : Boot} {l r : List FwImage} {i : FwImage} (fuses : b.fusesOk = true) (split : b.images.take 2 = l ++ i :: r)
    (before : ∀ x ∈ l, ¬ b.accepts x = true) (acc : b.accepts i = true) : b.image = some i := by
  rw [Boot.image, if_pos fuses, List.find?_eq_some_iff_append]
  exact ⟨acc, l, r, split, fun x hx => by simpa using before x hx⟩

/-- The context in which firmware starts: the standby's once that has taken over (log 58). -/
def firmwareKey (s : State) : Nat := if StandbyUnit.management ∈ s.standby then 2177 else 2176

theorem startFirmware_none {s : State} (h : s.boot.image = none) : s.startFirmware = s := by simp [State.startFirmware, h]

theorem startFirmware_some {s : State} {i : FwImage} (h : s.boot.image = some i) : s.startFirmware =
    (s.setCtx (4353 - firmwareKey s) (Ctx.ofKey (4353 - firmwareKey s))).setCtx (firmwareKey s) (Ctx.firmwareOf (firmwareKey s) i.body) := by
  simp [State.startFirmware, h, firmwareKey]

theorem setCtx_ctx (s : State) (k j : Nat) (c : Ctx) : (s.setCtx k c).ctx j = if j = k then c else s.ctx j := by
  by_cases hk : k = s.focus
  · rw [hk, setCtx_focus]
    by_cases hj : j = s.focus <;> simp [State.ctx, hj]
  · rw [setCtx_other s c hk]
    by_cases hj : j = k
    · simp [State.ctx, hj, hk]
    · simp [State.ctx, hj, get?_set_other]

/-- Firmware that starts changes contexts alone. -/
theorem startFirmware_eq (s : State) : ∃ d o, s.startFirmware = { s with cur := d, others := o } := by
  cases image : s.boot.image with
  | none => exact ⟨_, _, startFirmware_none image⟩
  | some i =>
    obtain ⟨d, o, e⟩ := setCtx_eq s (4353 - firmwareKey s) (Ctx.ofKey (4353 - firmwareKey s))
    rw [startFirmware_some image, e]
    exact setCtx_eq _ _ _

/-- Its own context runs from byte 0, the other management context stands still, and every other is as it was. -/
theorem startFirmware_ctx {s : State} {i : FwImage} (h : s.boot.image = some i) (k : Nat) :
    s.startFirmware.ctx k = if k = firmwareKey s then Ctx.firmwareOf (firmwareKey s) i.body
      else if k = 4353 - firmwareKey s then Ctx.ofKey (4353 - firmwareKey s) else s.ctx k := by
  rw [startFirmware_some h, setCtx_ctx, setCtx_ctx]

/-! ### Standby units (01 R10) -/

theorem exec_standbyTakeover_in {s : State} {u : StandbyUnit} (h : u ∈ s.standby) : exec (.standbyTakeover u) s = .next s := by
  show (if s.standby.contains u then (.next s : Out) else _) = _
  simp [h]

theorem exec_standbyTakeover {s : State} {u : StandbyUnit} (h : u ∉ s.standby) : exec (.standbyTakeover u) s =
    .next (if u = .management then State.startFirmware { s with standby := s.standby ++ [u] } else { s with standby := s.standby ++ [u] }) := by
  show (if s.standby.contains u then (.next s : Out) else _) = _
  simp [h]

/-! ### The slot-to-engine map and the failures that wait for it (25 R365 R367) -/

theorem ite_or_bool {α : Type} (p q : Bool) (a b : α) : (if p = true ∨ q = true then a else b) = if p = false ∧ q = false then b else a := by
  cases p <;> cases q <;> rfl

theorem outOfService_eq (s : State) (c : Nat) : s.outOfService c = Claim.coreOut s c := by
  simp only [State.outOfService, ite_or_bool]
  rfl

/-- The model's map after a failure is the statement's. -/
theorem remap_eq (s : State) (u : FailedUnit) : s.remap u = Claim.remapped s u := by
  cases u with
  | vUnit c b => simp only [State.remap, outOfService_eq]; rfl
  | core c => exact outOfService_eq s c
  | spare cl => rfl

/-- A failure rewrites the two maps and nothing else, whatever failures are recorded. -/
theorem remapped_maps (s : State) (u : FailedUnit) : ∃ m c, ∀ l, Claim.remapped { s with failures := l } u =
    { s with failures := l, coreMap := m, clusterMap := c } := by
  refine ⟨(Claim.remapped s u).coreMap, (Claim.remapped s u).clusterMap, fun l => ?_⟩
  cases u with
  | vUnit c b =>
    have same : Claim.coreE { s with failures := l } c = Claim.coreE s c := rfl
    simp only [Claim.remapped, same]
    split
    · split <;> rfl
    · rfl
  | core c => rfl
  | spare cl => rfl

theorem clusterHolds_iff (s : State) (cl : Nat) : s.clusterHolds cl = true ↔ Claim.held s cl := by
  simp [State.clusterHolds, Claim.held, Option.isSome_iff_ne_none, and_assoc]

theorem not_held_of_no_grid {s : State} (h : ∀ e ∈ s.allCtxs, e.2.grid = none) (cl : Nat) : ¬ Claim.held s cl :=
  fun ⟨e, he, _, _, hg⟩ => hg (h e he)

/-- One recorded failure settles: the map follows it once its cluster holds no context. -/
def settleOne (s : State) (u : FailedUnit) : State :=
  if s.clusterHolds (failedCluster u) then s else { s.remap u with failures := s.failures.erase u }

theorem settleFailures_eq_foldl (s : State) : s.settleFailures = s.failures.foldl settleOne s := rfl

theorem settleOne_held {s : State} {u : FailedUnit} (h : Claim.held s (failedCluster u)) : settleOne s u = s :=
  if_pos ((clusterHolds_iff s _).mpr h)

theorem settleOne_free {s : State} {u : FailedUnit} (h : ¬ Claim.held s (failedCluster u)) :
    settleOne s u = { Claim.remapped s u with failures := s.failures.erase u } := by
  rw [settleOne, if_neg (mt (clusterHolds_iff s _).mp h), remap_eq]

theorem foldl_remapped_failures (l m : List FailedUnit) (s : State) :
    l.foldl Claim.remapped { s with failures := m } = { l.foldl Claim.remapped s with failures := m } := by
  induction l generalizing s with
  | nil => rfl
  | cons u l ih =>
    obtain ⟨cm, km, h⟩ := remapped_maps s u
    have hs : Claim.remapped s u = { s with coreMap := cm, clusterMap := km } := h s.failures
    rw [List.foldl_cons, List.foldl_cons, h m, hs, ← ih]

/-- With no context on the clusters of the recorded failures, all of them enter the map and none stays recorded. -/
theorem settleFailures_free (s : State) (h : ∀ u ∈ s.failures, ¬ Claim.held s (failedCluster u)) :
    s.settleFailures = { s.failures.foldl Claim.remapped s with failures := [] } := by
  rw [settleFailures_eq_foldl]
  generalize hl : s.failures = l at h
  induction l generalizing s with
  | nil => rw [List.foldl_nil, List.foldl_nil, ← hl]
  | cons u l ih =>
    obtain ⟨cm, km, maps⟩ := remapped_maps s u
    have hs : Claim.remapped s u = { s with coreMap := cm, clusterMap := km } := maps s.failures
    have first : settleOne s u = { Claim.remapped s u with failures := l } := by
      rw [settleOne_free (h u List.mem_cons_self), hl, List.erase_cons_head]
    have rest : ∀ v ∈ l, ¬ Claim.held { Claim.remapped s u with failures := l } (failedCluster v) := by
      rw [hs]
      exact fun v hv => h v (List.mem_cons_of_mem u hv)
    rw [List.foldl_cons, List.foldl_cons, first, ih _ rfl rest, foldl_remapped_failures]

/-- The only failure enters the map of a state that records no other. -/
theorem settleFailures_one_free {s : State} {u : FailedUnit} (fresh : s.failures = []) (h : ¬ Claim.held s (failedCluster u)) :
    State.settleFailures { s with failures := [u] } = Claim.remapped s u := by
  obtain ⟨cm, km, maps⟩ := remapped_maps s u
  have hs : Claim.remapped s u = { s with coreMap := cm, clusterMap := km } := maps s.failures
  rw [settleFailures_free _ fun v hv => by rw [List.mem_singleton.mp hv]; exact h]
  show { Claim.remapped { s with failures := [u] } u with failures := [] } = _
  rw [maps, hs, ← fresh]

theorem settleFailures_one_held {s : State} {u : FailedUnit} (h : Claim.held s (failedCluster u)) :
    State.settleFailures { s with failures := [u] } = { s with failures := [u] } := settleOne_held h

/-! ### The grids that a failed unit ends (25 R367) -/

/-- The cores that a unit in service serves. -/
def servedCores (s : State) : FailedUnit → List Nat
  | .vUnit c b => if (Claim.coreE s c).out || !((Claim.coreE s c).v0u == b || (Claim.coreE s c).v1u == b) then [] else [c]
  | .core c => if (Claim.coreE s c).out then [] else [c]
  | .spare cl => if (Claim.clusE s cl).inuse then [16 * cl + (Claim.clusE s cl).repl.val] else []

/-- The contexts of a core that hold a grid, with it. -/
def coreGrids (s : State) (c : Nat) : List (Nat × Nat) := [2 * c, 2 * c + 1].filterMap fun k => (s.ctx k).grid.map fun g => (k, g)

theorem unitGrids_eq (s : State) (u : FailedUnit) : s.unitGrids u = (servedCores s u).flatMap (coreGrids s) := by
  cases u <;> rfl

theorem coreGrids_idle {s : State} {c : Nat} (h0 : (s.ctx (2 * c)).grid = none) (h1 : (s.ctx (2 * c + 1)).grid = none) : coreGrids s c = [] := by
  simp [coreGrids, h0, h1]

theorem unitGrids_idle {s : State} {u : FailedUnit} (h : ∀ c ∈ servedCores s u, (s.ctx (2 * c)).grid = none ∧ (s.ctx (2 * c + 1)).grid = none) :
    s.unitGrids u = [] := by
  rw [unitGrids_eq, List.flatMap_eq_nil_iff]
  exact fun c hc => coreGrids_idle (h c hc).1 (h c hc).2

theorem mem_servedCores {s : State} {u : FailedUnit} {c : Nat} (h : c ∈ servedCores s u) :
    (u = .core c ∨ ∃ b, u = .vUnit c b)
    ∨ ∃ cl, u = .spare cl ∧ (Claim.clusE s cl).inuse = true ∧ c = 16 * cl + (Claim.clusE s cl).repl.val := by
  cases u with
  | vUnit d b =>
    simp only [servedCores] at h
    split at h
    · cases h
    · exact .inl (.inr ⟨b, by rw [List.mem_singleton.mp h]⟩)
  | core d =>
    simp only [servedCores] at h
    split at h
    · cases h
    · exact .inl (.inl (by rw [List.mem_singleton.mp h]))
  | spare cl =>
    simp only [servedCores] at h
    split at h
    · next inuse => exact .inr ⟨cl, rfl, inuse, List.mem_singleton.mp h⟩
    · cases h

/-- A core or one of its V units serves no core but its own. -/
theorem mem_servedCores_unit {s : State} {u : FailedUnit} {c d : Nat} (unit : u = .core c ∨ ∃ b, u = .vUnit c b)
    (h : d ∈ servedCores s u) : d = c := by
  rcases unit with rfl | ⟨b, rfl⟩ <;> simp only [servedCores] at h <;> split at h
  · cases h
  · exact List.mem_singleton.mp h
  · cases h
  · exact List.mem_singleton.mp h

theorem servedCores_out {s : State} {u : FailedUnit} {c : Nat} (unit : u = .core c ∨ ∃ b, u = .vUnit c b)
    (h : (Claim.coreE s c).out = true ∨ ∃ b, u = .vUnit c b ∧ (Claim.coreE s c).v0u ≠ b ∧ (Claim.coreE s c).v1u ≠ b) : servedCores s u = [] := by
  rcases h with out | ⟨b, rfl, n0, n1⟩
  · rcases unit with rfl | ⟨b, rfl⟩ <;> simp [servedCores, out]
  · simp [servedCores, n0, n1]

theorem servedCores_in {s : State} {u : FailedUnit} {c : Nat} (unit : u = .core c ∨ ∃ b, u = .vUnit c b)
    (serves : (Claim.coreE s c).out = false) (h : ∀ b, u = .vUnit c b → (Claim.coreE s c).v0u = b ∨ (Claim.coreE s c).v1u = b) :
    servedCores s u = [c] := by
  rcases unit with rfl | ⟨b, rfl⟩
  · simp [servedCores, serves]
  · rcases h b rfl with e | e <;> simp [servedCores, serves, e]

/-! ### What a fault leaves of the failures and of the context that takes it (02 R39) -/

/-- What stopping a context keeps, ending a grid keeps of the context in focus. -/
theorem updKeys_stop_cur {α : Type} (p : Ctx → α) (hp : ∀ c : Ctx, p c.stop = p c) (ks : List Nat) (s : State) :
    p (s.updKeys ks Ctx.stop).cur = p s.cur := by
  induction ks generalizing s with
  | nil => rfl
  | cons k ks ih =>
    show p ((s.setCtx k (s.ctx k).stop).updKeys ks Ctx.stop).cur = _
    rw [ih]
    by_cases hk : k = s.focus
    · subst hk
      rw [setCtx_focus, ctx_focus]
      exact hp _
    · rw [setCtx_other _ _ hk]

theorem endGrid_cur {α : Type} (p : Ctx → α) (hp : ∀ c : Ctx, p c.stop = p c) (s : State) (g : Nat) (r : List Word64) :
    p (s.endGrid g r).cur = p s.cur := by
  unfold State.endGrid
  split
  · rfl
  · split
    · exact updKeys_stop_cur p hp _ _
    · rfl

theorem endGrid_failures (s : State) (g : Nat) (r : List Word64) : (s.endGrid g r).failures = s.failures := by
  unfold State.endGrid
  split
  · rfl
  · next x _ =>
    split
    · generalize hs : ({ s with
          grids := s.grids.set g { x with state := .faulted, fault := some r }
          funcs := s.funcs.map fun (e : Nat × Func) => (e.1, e.2.withdraw g)
          fabric := s.fabric.filter fun p => p.grid != g
          ports := s.ports.map fun (p : Nat × Port) => (p.1, p.2.discard g)
          engines := s.engines.map fun (e : Nat × Engine) => (e.1, e.2.leave g) } : State) = t
      obtain ⟨d, o, e⟩ := updKeys_eq Ctx.stop x.keys t
      show (t.updKeys x.keys Ctx.stop).failures = _
      rw [e, ← hs]
    · rfl

/-- A fault of a compute context stops it, and may end a grid besides. -/
theorem takeFault_compute {s : State} (f : FaultWords) (h : s.cur.kind = .compute) :
    s.takeFault f = State.mapCur { s with trap := some f } Ctx.stop
    ∨ ∃ g r, s.takeFault f = (State.mapCur { s with trap := some f } Ctx.stop).endGrid g r := by
  unfold State.takeFault
  simp only [h]
  split
  · exact .inr ⟨_, _, rfl⟩
  · exact .inl rfl

theorem takeFault_compute_failures {s : State} (f : FaultWords) (h : s.cur.kind = .compute) : (s.takeFault f).failures = s.failures := by
  rcases takeFault_compute f h with e | ⟨g, r, e⟩ <;> rw [e]
  · rfl
  · exact endGrid_failures _ g r

theorem takeFault_compute_cur {s : State} (f : FaultWords) (h : s.cur.kind = .compute) {α : Type} (p : Ctx → α)
    (hp : ∀ c : Ctx, p c.stop = p c) : p (s.takeFault f).cur = p s.cur := by
  rcases takeFault_compute f h with e | ⟨g, r, e⟩ <;> rw [e]
  · exact hp _
  · exact (endGrid_cur p hp _ g r).trans (hp _)

/-- A compute context that takes a fault still stands on its cluster. -/
theorem held_takeFault {s : State} (f : FaultWords) (kind : s.cur.kind = .compute) (grid : s.cur.grid ≠ none) :
    Claim.held (s.takeFault f) s.cur.cluster := by
  refine ⟨_, List.mem_cons_self, ?_, ?_, ?_⟩
  · exact (takeFault_compute_cur f kind Ctx.kind fun _ => rfl).trans kind
  · exact takeFault_compute_cur f kind Ctx.cluster fun _ => rfl
  · rw [takeFault_compute_cur f kind Ctx.grid fun _ => rfl]
    exact grid

/-! ### A unit that fails -/

/-- The words of a register check of which the register is free (log 6). -/
def unitFault (s : State) : FaultWords :=
  ⟨15, 0, 0, BitVec.ofNat 64 ((Config.freeByte (64 * s.freeCount)).toNat + 2 ^ 8 * (Config.freeByte (64 * s.freeCount + 1)).toNat), 0⟩

/-- The grids of a failed unit, each ended by the fault of the context that holds it. -/
def endUnitGrids (s : State) (u : FailedUnit) : State := (s.unitGrids u).foldl (fun t e => t.onKey e.1 (·.takeFault (unitFault s))) s.draw

theorem exec_unitFailure {s : State} {u : FailedUnit} (h : (endUnitGrids s u).failures = []) :
    exec (.unitFailure u) s = .next (State.settleFailures { endUnitGrids s u with failures := [u] }) := by
  show (.next (State.settleFailures { endUnitGrids s u with failures := if (endUnitGrids s u).failures.contains u
    then (endUnitGrids s u).failures else (endUnitGrids s u).failures ++ [u] }) : Out) = _
  rw [h]
  rfl

theorem endUnitGrids_idle {s : State} {u : FailedUnit} (h : s.unitGrids u = []) : endUnitGrids s u = s.draw := by
  rw [endUnitGrids, h]
  rfl

theorem unitFailure_idle_free {s : State} {u : FailedUnit} (fresh : s.failures = []) (idle : s.unitGrids u = [])
    (free : ¬ Claim.held s (failedCluster u)) : exec (.unitFailure u) s = .next (Claim.remapped s.draw u) := by
  have e := endUnitGrids_idle idle
  rw [exec_unitFailure (by rw [e]; exact fresh), e, settleFailures_one_free (s := s.draw) fresh free]

theorem unitFailure_idle_held {s : State} {u : FailedUnit} (fresh : s.failures = []) (idle : s.unitGrids u = [])
    (held : Claim.held s (failedCluster u)) : exec (.unitFailure u) s = .next { s.draw with failures := [u] } := by
  have e := endUnitGrids_idle idle
  rw [exec_unitFailure (by rw [e]; exact fresh), e, settleFailures_one_held (s := s.draw) held]

/-- The focused context alone uses the unit: it takes the fault, and its cluster keeps the failure from the map. -/
theorem unitFailure_focused {s : State} {u : FailedUnit} {c : Nat} (fresh : s.failures = []) (serves : servedCores s u = [c])
    (focus : s.focus = 2 * c) (kind : s.cur.kind = .compute) (cluster : s.cur.cluster = failedCluster u) (grid : s.cur.grid ≠ none)
    (second : (s.ctx (2 * c + 1)).grid = none) :
    exec (.unitFailure u) s = .next { s.draw.takeFault (unitFault s) with failures := [u] } := by
  obtain ⟨g, hg⟩ := Option.ne_none_iff_exists'.mp grid
  have grids : s.unitGrids u = [(2 * c, g)] := by
    have primary : (s.ctx (2 * c)).grid = some g := by rw [← focus, ctx_focus]; exact hg
    simp [unitGrids_eq, serves, coreGrids, primary, second]
  have e : endUnitGrids s u = s.draw.takeFault (unitFault s) := by
    rw [endUnitGrids, grids]
    exact if_pos focus.symm
  have fails : (s.draw.takeFault (unitFault s)).failures = [] := (takeFault_compute_failures (s := s.draw) _ kind).trans fresh
  have held : Claim.held (s.draw.takeFault (unitFault s)) (failedCluster u) := cluster ▸ held_takeFault (s := s.draw) _ kind grid
  rw [exec_unitFailure (by rw [e]; exact fails), e, settleFailures_one_held held]

/-! ### Clocks (27 R387) -/

theorem updDie_fin (s : State) (d : Fin 4) (f : Die → Die) : s.updDie d.val f = { s with dies := s.dies.set d (f (s.dies.get d)) } := by
  have e : Fin.ofNat 4 d.val = d := Fin.ofNat_val_eq_self d
  simp only [State.updDie, e]

/-! ### Bring-up (27 R381 R382 R386) -/

/-- The hash of the firmware that runs. -/
def measured (body : Option (List Byte)) : List Byte := body.elim [] sha384

/-- The model's bring-up comes to the step and the failure that the statement's gives, with the same firmware. -/
theorem run_of_boots {b : Boot} {step fail : Nat} {body : Option (List Byte)} (h : Claim.boots b step fail body) :
    b.run = { b with step := step, fail := fail, fwMeas := measured body } ∧ b.image.map FwImage.body = body := by
  rcases h with ⟨fuses, rfl, rfl, rfl⟩ | ⟨fuses, bad, rfl, rfl, rfl⟩ | ⟨fuses, l, i, r, split, before, acc, rfl, h⟩
  · simp [Boot.run, fuses, (image_eq_none_iff b).mpr (.inl fuses), measured]
  · have image := (image_eq_none_iff b).mpr (.inr fun i hi => mt (accepts_iff b i).mp (bad i hi))
    simp [Boot.run, fuses, image, measured]
  · have image := image_of_split fuses split (fun x hx => mt (accepts_iff b x).mp (before x hx)) ((accepts_iff b i).mpr acc)
    refine ⟨?_, by rw [image]; rfl⟩
    rcases h with ⟨dead, rfl, rfl⟩ | ⟨dead, align, rfl, rfl⟩ | ⟨dead, align, rfl, rfl⟩ <;> simp [Boot.run, measured, *]

/-- What device reset leaves to bring-up: reset values, and what stands outside the registers (log 4). -/
def resetKept (s : State) : State := { State.reset with
  turns := s.turns, mem := s.mem, hostMem := s.hostMem, bad := s.bad, pmap := s.pmap, coreMap := s.coreMap, clusterMap := s.clusterMap
  failures := s.failures, standby := s.standby, cohort := s.cohort, freeCount := s.freeCount }

/-- Bring-up before firmware starts: standbys serve for what is lost, the cohort id is set, and the ports that do not train are out. -/
def beforeFirmware (s : State) (b : Boot) : State := { s with
  boot := b.run
  standby := s.standby ++ b.lost.filter fun u => !s.standby.contains u
  cohort := if b.run.step ≥ 7 then b.cohortId else s.cohort
  ports := if b.run.step ≥ 6 then b.deadPorts.foldl (fun t p => t.set p { Port.reset with failed := true }) s.ports else s.ports }

theorem exec_deviceReset (s : State) : exec .deviceReset s = .next (if s.boot.run.step ≥ 4
    then (beforeFirmware (resetKept s) s.boot).startFirmware.settleFailures else (beforeFirmware (resetKept s) s.boot).startFirmware) := rfl

theorem lost_unserved (b : Boot) (standby : List StandbyUnit) : (b.lost.filter fun u => !standby.contains u) =
    (if 0 ∈ b.badDies then [StandbyUnit.arbiter, .dispatcher, .management] else if b.romOk = true then [] else [.management]).filter
      fun u => decide (u ∉ standby) := by
  have lost : b.lost = if 0 ∈ b.badDies then [StandbyUnit.arbiter, .dispatcher, .management] else if b.romOk = true then [] else [.management] := by
    simp [Boot.lost]
  rw [lost]
  exact List.filter_congr fun u _ => by simp

theorem firmwareKey_ne_zero (s : State) : firmwareKey s ≠ 0 ∧ 4353 - firmwareKey s ≠ 0 := by
  unfold firmwareKey
  split <;> decide

/-- With a compute context in focus, firmware that starts changes the table of the others alone. -/
theorem startFirmware_others {s : State} {i : FwImage} (focus : s.focus = 0) (h : s.boot.image = some i) : s.startFirmware = { s with
    others := (s.others.set (4353 - firmwareKey s) (Ctx.ofKey (4353 - firmwareKey s))).set (firmwareKey s) (Ctx.firmwareOf (firmwareKey s) i.body) } := by
  obtain ⟨own, other⟩ := firmwareKey_ne_zero s
  rw [startFirmware_some h, setCtx_other s _ (focus ▸ other), setCtx_other _ _ (focus ▸ own)]

theorem ofKey_grid (k : Nat) : (Ctx.ofKey k).grid = none := by
  unfold Ctx.ofKey
  repeat' split
  all_goals rfl

/-- Firmware brings no context of a grid with it. -/
theorem startFirmware_no_grid {s : State} (h : ∀ e ∈ s.allCtxs, e.2.grid = none) (focus : s.focus = 0) :
    ∀ e ∈ s.startFirmware.allCtxs, e.2.grid = none := by
  cases image : s.boot.image with
  | none => rwa [startFirmware_none image]
  | some i =>
    rw [startFirmware_others focus image]
    refine List.forall_mem_cons.mpr ⟨h _ List.mem_cons_self, all_set (all_set ?_ (ofKey_grid _)) (ofKey_grid _)⟩
    exact fun e he => h e (List.mem_cons_of_mem _ he)

/-! ### O59 -/

theorem claim_unitsAndClocks : Claim.unitsAndClocks := by
  intro s
  refine ⟨fun p => ?ports, fun u => ?standby, fun fresh u => ?failures, fun d n => ?clocks⟩
  case ports =>
    refine ⟨fun h => ?_, fun f h => ?_, exec_portRetrain_idle, fun h => ⟨fun r => ?_, fun r => ?_⟩⟩
    · rw [exec_flitRetransmit, retry_of_none h]
    · rw [exec_flitRetransmit, retry_of_some h]
    · rw [exec_portRetrain_training h, r]
      rfl
    · rw [exec_portRetrain_training h, r]
      rfl
  case standby =>
    refine ⟨exec_standbyTakeover_in, fun new h => ?_, fun new management fuses l i r split before acc => ?_⟩
    · rw [exec_standbyTakeover new]
      split
      · next management =>
        have image : s.boot.image = none := (image_eq_none_iff _).mpr <| (h.resolve_left fun other => other management).imp_right
          fun bad i hi => mt (accepts_iff _ i).mp (bad i hi)
        rw [startFirmware_none (s := { s with standby := s.standby ++ [u] }) image]
      · rfl
    · have image : s.boot.image = some i := image_of_split fuses split (fun x hx => mt (accepts_iff _ x).mp (before x hx)) ((accepts_iff _ i).mpr acc)
      have key : firmwareKey { s with standby := s.standby ++ [u] } = 2177 := if_pos (by simp [management])
      have ctxs := startFirmware_ctx (s := { s with standby := s.standby ++ [u] }) image
      obtain ⟨_, _, frame⟩ := startFirmware_eq { s with standby := s.standby ++ [u] }
      rw [key] at ctxs
      refine ⟨_, by rw [exec_standbyTakeover new, if_pos management], ?_, ?_, ?_, ctxs⟩ <;> rw [frame]
  case failures =>
    refine ⟨fun free idle notSpare => ?_, fun free spare idle => ?_, fun held c unit => ?_⟩
    · refine unitFailure_idle_free fresh (unitGrids_idle fun c hc => ?_) (by cases u <;> exact free)
      rcases mem_servedCores hc with unit | ⟨cl, rfl, -⟩
      · exact idle c unit
      · exact absurd rfl notSpare
    · refine unitFailure_idle_free fresh (unitGrids_idle fun c hc => ?_) (by cases u <;> exact free)
      rcases mem_servedCores hc with (rfl | ⟨b, rfl⟩) | ⟨cl, rfl, inuse, rfl⟩
      · cases spare
      · cases spare
      · exact ⟨idle inuse 0 (by decide), idle inuse 1 (by decide)⟩
    · have held : Claim.held s (failedCluster u) := by cases u <;> exact held
      refine ⟨fun h0 h1 => ?_, fun out => ?_, fun serves uses focus kind cluster grid second => ⟨(unitFault s).d0, ?_⟩⟩
      · refine unitFailure_idle_held fresh (unitGrids_idle fun d hd => ?_) held
        rw [mem_servedCores_unit unit hd]
        exact ⟨h0, h1⟩
      · refine unitFailure_idle_held fresh (unitGrids_idle fun d hd => ?_) held
        rw [servedCores_out unit out] at hd
        cases hd
      · exact unitFailure_focused fresh (servedCores_in unit serves uses) focus kind (cluster.trans (by cases u <;> rfl)) grid second
  case clocks =>
    have dies := updDie_fin s d
    exact ⟨congrArg Host.Outcome.next (dies _), congrArg Host.Outcome.next (dies _), congrArg Host.Outcome.next (dies _)⟩

theorem claim_deviceReset : Claim.deviceReset := by
  intro s step fail body h lost standby key out base
  obtain ⟨run, image⟩ := run_of_boots h
  have started : (beforeFirmware (resetKept s) s.boot).startFirmware = base := by
    have served : (resetKept s).standby ++ (s.boot.lost.filter fun u => !(resetKept s).standby.contains u) = standby :=
      congrArg (s.standby ++ ·) (lost_unserved s.boot s.standby)
    have before : beforeFirmware (resetKept s) s.boot = { base with others := State.reset.others } := by
      rw [beforeFirmware, served, run]
      cases body <;> rfl
    cases hi : s.boot.image with
    | none =>
      obtain rfl : body = none := by rw [← image, hi]; rfl
      rw [before, startFirmware_none (s := { base with others := State.reset.others }) hi]
    | some i =>
      obtain rfl : body = some i.body := by rw [← image, hi]; rfl
      rw [before, startFirmware_others (s := { base with others := State.reset.others }) rfl hi]
      rfl
  have idle : ∀ e ∈ base.allCtxs, e.2.grid = none := started ▸ startFirmware_no_grid (fun e he => by
    rw [List.mem_singleton.mp he]
    rfl) rfl
  rw [exec_deviceReset, started, settleFailures_free base fun _ _ => not_held_of_no_grid idle _, run]

/-- Settles O59: each event has its equation above, a failure enters the map as its cluster allows, and bring-up, which leaves no context of a
grid, maps every recorded one. -/
theorem unitsAndReset : Obligations.UnitsAndReset := ⟨claim_unitsAndClocks, claim_deviceReset⟩

end Sys2Proof.Proofs.Units
end
